-- ==== Sys2Proof/Word.lean ====
section
/-! DEFINITION. The word types of the block's control window and data path, and the integer division the spec's
pseudocode uses. -/
set_option Elab.async false
namespace Sys2Proof

/-- A register, descriptor or message word (R14, R50, R249). -/
abbrev Word := BitVec 32

/-- A byte of a tensor, a frame or a message (R12). -/
abbrev Byte := BitVec 8

/-- A Fyush instruction word (R77). -/
abbrev Insn := BitVec 64

/-- `ceil(a / b)` on naturals, as the spec writes it (R46). -/
def ceilDiv (a b : Nat) : Nat := (a + b - 1) / b

end Sys2Proof
end

