-- ==== Sys2Proof/Machine/Table.lean ====
section
/-! DEFINITION. Sparse tables in one canonical form: keys strictly rising, and no entry equal to what an unlisted key
reads as. Memory, Halyards, handles, streams and tags are kept in them, so equal contents are equal data. -/
namespace Sys2Proof

/-- A sparse table from natural keys to plain data. -/
abbrev Tbl (α : Type) := List (Nat × α)

/-- What key `k` reads as; an unlisted key reads as `d`. -/
def Tbl.get {α : Type} (d : α) : Tbl α → Nat → α
  | [], _ => d
  | (j, v) :: t, k => if j = k then v else Tbl.get d t k

/-- Put an entry at `k`, in key order, replacing any entry of that key. -/
def Tbl.put {α : Type} (k : Nat) (v : α) : Tbl α → Tbl α
  | [] => [(k, v)]
  | (j, w) :: t => if k < j then (k, v) :: (j, w) :: t else if j = k then (k, v) :: t else (j, w) :: Tbl.put k v t

/-- Remove the entry of `k`. -/
def Tbl.drop {α : Type} (k : Nat) (t : Tbl α) : Tbl α := t.filter fun e => decide (e.1 ≠ k)

/-- Write `v` at `k` keeping the canonical form: a value equal to the default removes the entry. -/
def Tbl.set {α : Type} [DecidableEq α] (d : α) (t : Tbl α) (k : Nat) (v : α) : Tbl α :=
  if v = d then Tbl.drop k t else Tbl.put k v t

/-- Change the value at `k`. -/
def Tbl.modify {α : Type} [DecidableEq α] (d : α) (t : Tbl α) (k : Nat) (f : α → α) : Tbl α :=
  Tbl.set d t k (f (Tbl.get d t k))

/-- An optional entry: `none` where the key is not listed. -/
def Tbl.find {α : Type} : Tbl α → Nat → Option α
  | [], _ => none
  | (j, v) :: t, k => if j = k then some v else Tbl.find t k

/-- Every key is above `lo`, and the keys rise strictly. -/
def Tbl.above {α : Type} : Nat → Tbl α → Bool
  | _, [] => true
  | lo, (j, _) :: t => decide (lo < j) && Tbl.above j t

/-- The keys rise strictly. -/
def Tbl.rising {α : Type} : Tbl α → Bool
  | [] => true
  | (j, _) :: t => Tbl.above j t

/-- No entry equals the default `d`. -/
def Tbl.tight {α : Type} [DecidableEq α] (d : α) (t : Tbl α) : Bool := t.all fun e => decide (e.2 ≠ d)

/-- The canonical form of a table with default `d`. -/
def Tbl.wf {α : Type} [DecidableEq α] (d : α) (t : Tbl α) : Bool := Tbl.rising t && Tbl.tight d t

/-- Write a run of values from key `k` upward. -/
def Tbl.setRun {α : Type} [DecidableEq α] (d : α) : Tbl α → Nat → List α → Tbl α
  | t, _, [] => t
  | t, k, v :: vs => Tbl.setRun d (Tbl.set d t k v) (k + 1) vs

/-- Read `n` values from key `k` upward. -/
def Tbl.getRun {α : Type} (d : α) (t : Tbl α) (k : Nat) : Nat → List α
  | 0 => []
  | n + 1 => Tbl.get d t k :: Tbl.getRun d t (k + 1) n

/-- Map every entry, dropping those for which `f` answers none. -/
def Tbl.filterMapVal {α : Type} (f : Nat → α → Option α) (t : Tbl α) : Tbl α :=
  t.filterMap fun e => (f e.1 e.2).map fun v => (e.1, v)

/-- The lowest `n` keys below `lim` that are not listed. -/
def Tbl.freeKeys {α : Type} (t : Tbl α) (lo lim : Nat) : List Nat :=
  (List.range (lim - lo)).filterMap fun i => if (Tbl.find t (lo + i)).isNone then some (lo + i) else none

end Sys2Proof
end

