-- ==== Sys2Proof/Syntax.lean ====
section
/-! DEFINITION. The commands of the block: one constructor for each row of the opcode table. The operands are the
model's own choice (the table gives none): what the host, the pins, the peer and the ports supply, what only firmware or
the hardware can find out, and the free choices the spec leaves to firmware. -/
namespace Sys2Proof

/-- A response code of a memory port (Table PORTS-4): 0 `OK`, 1 `FAIL`, 2 `DECODE`, 3 `POISON`. -/
inductive Resp where
  | ok | fail | decode | poison
  deriving DecidableEq, Repr

/-- How host memory answers the firmware reads and writes of one command: the bytes it holds (an unlisted byte reads 0),
the ranges `lo .. hi` that answer with another response than `OK`, and the memory ports that answer every access so. [Log 6 DESIGN CHOICE] -/
structure HostView where
  cells : List (Nat × Byte)
  bad : List (Nat × Nat × Resp)
  ports : List (Fin 4 × Resp)
  deriving DecidableEq, Repr

/-- The engine that performs an instruction which both engines perform (Table FYUSH-1). -/
inductive Engine where
  | fetch | execute
  deriving DecidableEq, Repr

/-- A queue of Burgees into the fault collector, by clock domain (Table ARCH-6); `cclk` is the collector's own domain. -/
inductive Dom where
  | aclk | pclk (port : Fin 4) | lclk | tclk | cclk
  deriving DecidableEq, Repr

/-- The clocks the monitors watch (Table FAULT-2, class 7). -/
inductive Clock where
  | aclk | pclk | lclk | cclk | tclk
  deriving DecidableEq, Repr

/-- A Burgee that a unit raises by itself (Table FAULT-4): source class and instance, kind, address bits. -/
structure RawBurgee where
  cls : Fin 10
  inst : Fin 64
  kind : Fin 64
  addr : BitVec 46
  deriving DecidableEq, Repr

/-- What a fault detector finds of itself, without a command of the table causing it: a unit's own Burgee (Table FAULT-4), or at the collector (R337) a
parity error of its control state, and whether the outputs of its two copies differ now. -/
inductive Detected where
  | unit (b : RawBurgee)
  | collector (parity differ : Bool)
  deriving DecidableEq, Repr

/-- One beat of a frame (R392): the bytes on `DATA`, and `BYTES`. -/
structure Beat where
  data : List Byte
  count : Nat
  deriving DecidableEq, Repr

/-- One frame at a streaming side of the peer-link port (R267, R392): its beats, the last of which carries `EOF`, and whether the MAC marks
it as failed (R272). -/
structure Frame where
  beats : List Beat
  marked : Bool
  deriving DecidableEq, Repr

/-- The bytes of a frame, without the FCS. -/
def Frame.bytes (f : Frame) : List Byte := f.beats.flatMap fun b => b.data.take b.count

/-- The beats keep the rules of R392: every beat but the last carries 64 valid bytes, and the last 1 to 64. -/
def Frame.wellFormed (f : Frame) : Bool :=
  f.beats.dropLast.all (fun b => decide (b.count = 64)) && (match f.beats.getLast? with
    | some b => decide (1 ≤ b.count) && decide (b.count ≤ 64)
    | none => false)

/-- The frame counts as one that the MAC marks as failed (R392). -/
def Frame.bad (f : Frame) : Bool := f.marked || !f.wellFormed

/-- What an attempt at a boot step found (Table START-4): whether its own test passed, the Plate rows mapped out, and the temperature and
the readings of the wear monitors. Steps 6 and 7 are decided by the image alone. -/
structure StepEnd where
  ok : Bool
  rows : Nat
  temp : Int
  wear : List Nat
  deriving DecidableEq, Repr

/-- A request of firmware's own at a memory port, which the model holds in no table: its address and its beats. [Log 81 DESIGN CHOICE] -/
structure FwReq where
  addr : BitVec 52
  beats : Fin 33
  deriving DecidableEq, Repr

/-- What a warm restart ends with (R345): every table kept, or objects lost. -/
inductive Restart where
  | kept | lost
  deriving DecidableEq, Repr

/-- The commands, in the order of the opcode table. `h` answers firmware's host-memory accesses; `pick` and `place` are
firmware's free choices of a handle, a context or a place; `lane` of an engine row is a physical lane (Table FAULT-2);
`full` says that the crossing or queue the event enters has no room; `lines` is a sample of `EV_IN`, and `left` what the
Halyard unit leaves in the event-in crossing after it; `own` says that the request is firmware's. [Log 8 DESIGN CHOICE] -/
inductive Instr where
  | hello
  | attach (h : HostView)
  | detach (h : HostView)
  | tensorCreate (h : HostView) (pick : BitVec 12) (place : Nat)
  | tensorDestroy
  | programLoad (h : HostView) (place : Nat)
  | streamBind (h : HostView) (pick : BitVec 12)
  | streamArm
  | streamRearm (h : HostView)
  | streamPause (h : HostView)
  | streamResume (h : HostView)
  | streamAbandon (h : HostView)
  | modelLoad (h : HostView)
  | modelSelect (h : HostView) (place : Nat)
  | halyardInit
  | buntingDefine (pick : BitVec 12)
  | buntingReadmit
  | buntingDelete
  | linkUp (place : Nat)
  | linkDown
  | phasePoint
  | powerCap
  | energyRead
  | faultAck
  | codebookLoad (h : HostView)
  | triggerSet
  | triggerCancel
  | pageResume (h : HostView)
  | pageResumeInvalidate
  | fwUpdate (h : HostView)
  | mbxGo (w : Word)
  | mbxRelease (w : Word)
  | replyPlacement
  | lanePause (n : Fin 8)
  | laneUnpause (n : Fin 8)
  | halyardAdd (n : BitVec 15) (v : BitVec 30)
  | halyardSet (n : BitVec 15) (v : BitVec 30)
  | incFracWrite (w : Word)
  | ofsApply (w : Word)
  | nsLoRead
  | lkClear (w : Word)
  | durClear (w : Word)
  | cntClear (w : Word)
  | safeExitRequest
  | selfClear
  | testUnlock (w : Word)
  | injGo (w : Word)
  | bootStart
  | registerWrite (off : BitVec 18) (w : Word)
  | rstNAssert
  | rstNRelease (testMode held : Bool)
  | isoEnAssert
  | isoEnRelease
  | powerLoss
  | vrAlert
  | vrAlertRelease
  | vrAlertHoldExpiry
  | evIn (lines : BitVec 64) (left : Fin 33)
  | evOutPulse
  | dreqAssert (k : Fin 32)
  | dreqRelease (k : Fin 32)
  | capInEdge (n : Fin 8) (rising : Bool)
  | tapInstruction (code : BitVec 5)
  | base (lane : Fin 10)
  | loop (lane : Fin 10)
  | tile (lane : Fin 10)
  | xform (lane : Fin 10) (eng : Engine)
  | pad (lane : Fin 10)
  | clamp (lane : Fin 10)
  | stipple (lane : Fin 10)
  | scale (lane : Fin 10) (eng : Engine)
  | swap (lane : Fin 10) (eng : Engine)
  | emit (lane : Fin 10)
  | drain (lane : Fin 10)
  | wait (lane : Fin 10)
  | post (lane : Fin 10)
  | pace (lane : Fin 10)
  | deadline (lane : Fin 10)
  | phase (lane : Fin 10) (eng : Engine)
  | repeat_ (lane : Fin 10)
  | endRun (lane : Fin 10) (eng : Engine) (h : HostView)
  | tl64Descriptor (lane : Fin 10)
  | laneDescriptor (lane : Fin 10)
  | quantumExpiry (lane : Fin 10)
  | streamAdmission (place : List Nat)
  | readBeat (port : Fin 4) (tag : BitVec 12) (idx : Fin 32) (code : Resp) (data : BitVec 1024) (chk : BitVec 64)
  | writeResponse (port : Fin 4) (tag : BitVec 12) (code : Resp) (early : Bool)
  | laneDrainDone (lane : Fin 10)
  | laneReport (lane : Fin 10) (h : HostView)
  | portResponseTimeout (port : Fin 4) (write : Bool) (tag : BitVec 12) (own : Option FwReq)
  | weightBlockLoaded (lane : Fin 10)
  | expandBlockDone (port : Fin 4)
  | compressBlock (port : Fin 4)
  | deadlineMiss (sctx : BitVec 12)
  | deadlineReplyTimer (sctx : BitVec 12)
  | buntingSkewTimer (lane : Fin 10)
  | triggerFiring (k : Fin 32)
  | activityWindow (lane : Fin 10) (work : Fin 9)
  | scrubSlot (plate : Fin 64)
  | streamRecordTimer (h : HostView)
  | writeFrame (f : Frame) (full : Bool)
  | rowsFrame (f : Frame) (full : Bool)
  | readFrame (f : Frame) (full : Bool)
  | rdataFrame (f : Frame) (full : Bool)
  | haddFrame (f : Frame) (full : Bool)
  | statusFrame (f : Frame) (full : Bool)
  | ackFrame (f : Frame) (full : Bool)
  | trainHelloFrame (f : Frame) (full : Bool)
  | probeFrame (f : Frame) (full : Bool)
  | byeFrame (f : Frame) (full : Bool)
  | macPassThrough (f : Frame)
  | hostPassThrough (f : Frame)
  | retryTimerExpiry
  | ackTimer
  | frameCloseTimer
  | trainHelloTimer
  | linkTrainTimeout
  | linkDownDrained (h : HostView)
  | plLinkUpFall
  | linkStatusTimer
  | linkIdleTimer
  | controlInterval
  | pllSlewDone
  | voutSettleExpiry
  | pmbusTransactionDone (r : Option (BitVec 16))
  | pmbusStatusPoll
  | pmbusRetryTimer
  | sensorSample (readings : List Int) (h : HostView)
  | wearMeasurement (temp : Int) (readings : List Nat) (h : HostView)
  | energyModelFit
  | burgee (doms : List Dom) (raised : Option Detected) (h : HostView)
  | faultPinTimer
  | clockMonitorFault (clk : Clock) (loss : Bool)
  | teconWdog (write : Option Word)
  | laneCheckDone (lane : Fin 10) (pass : Bool) (h : HostView)
  | warmRestartDone (r : Restart) (h : HostView)
  | bootStepDone (e : StepEnd) (h : HostView)
  | bootWatchdogExpiry
  | powerOn
  | clockReturn (clk : Clock)
  | plLinkUpRise
  | trigOutPulseEnd (line : Fin 16)
  | testLogicReset
  deriving DecidableEq, Repr

end Sys2Proof
end

