-- ==== Sys2Proof/WellFormed.lean ====
section
/-! DEFINITION. Which terms of the syntax can occur as commands: views of host memory in canonical form, frames that hold a byte, and lists
of the lengths that the hardware's counters, sensors and monitors give. `exec` takes every term; the checks are the reader's. -/
namespace Sys2Proof

/-- A view of host memory: a canonical table of bytes below 2^52 (R29), and ranges that answer with a response other than `OK`. -/
def HostView.wf (h : HostView) : Bool :=
  Tbl.wf 0 h.cells && h.cells.all (fun e => decide (e.1 < 2 ^ 52)) && h.ports.all (fun p => decide (p.2 ≠ .ok)) &&
    h.bad.all fun b => decide (b.1 ≤ b.2.1) && decide (b.2.1 < 2 ^ 52) && decide (b.2.2 ≠ .ok)

/-- A frame has a first beat, and every beat 64 bytes of data (R392). -/
def Frame.wf (f : Frame) : Bool := decide (f.beats ≠ []) && f.beats.all fun b => decide (b.data.length = 64)

/-- What an attempt at a boot step found: a row count of 16 bits (Table START-3), and either no reading of a wear monitor or one of each. -/
def StepEnd.wf (e : StepEnd) : Bool := decide (e.rows < 2 ^ 16) && (decide (e.wear = []) || decide (e.wear.length = 124))

/-- The operands of a command are well formed. [Log 8 DESIGN CHOICE] -/
def Instr.wf : Instr → Bool
  | .hello => true
  | .attach h => h.wf
  | .detach h => h.wf
  | .tensorCreate h _ _ => h.wf
  | .tensorDestroy => true
  | .programLoad h _ => h.wf
  | .streamBind h _ => h.wf
  | .streamArm => true
  | .streamRearm h => h.wf
  | .streamPause h => h.wf
  | .streamResume h => h.wf
  | .streamAbandon h => h.wf
  | .modelLoad h => h.wf
  | .modelSelect h _ => h.wf
  | .halyardInit => true
  | .buntingDefine _ => true
  | .buntingReadmit => true
  | .buntingDelete => true
  | .linkUp _ => true
  | .linkDown => true
  | .phasePoint => true
  | .powerCap => true
  | .energyRead => true
  | .faultAck => true
  | .codebookLoad h => h.wf
  | .triggerSet => true
  | .triggerCancel => true
  | .pageResume h => h.wf
  | .pageResumeInvalidate => true
  | .fwUpdate h => h.wf
  | .mbxGo _ => true
  | .mbxRelease _ => true
  | .replyPlacement => true
  | .lanePause _ => true
  | .laneUnpause _ => true
  | .halyardAdd _ _ => true
  | .halyardSet _ _ => true
  | .incFracWrite _ => true
  | .ofsApply _ => true
  | .nsLoRead => true
  | .lkClear _ => true
  | .durClear _ => true
  | .cntClear _ => true
  | .safeExitRequest => true
  | .selfClear => true
  | .testUnlock _ => true
  | .injGo _ => true
  | .bootStart => true
  | .registerWrite _ _ => true
  | .rstNAssert => true
  | .rstNRelease _ _ => true
  | .isoEnAssert => true
  | .isoEnRelease => true
  | .powerLoss => true
  | .vrAlert => true
  | .vrAlertRelease => true
  | .vrAlertHoldExpiry => true
  | .evIn _ _ => true
  | .evOutPulse => true
  | .dreqAssert _ => true
  | .dreqRelease _ => true
  | .capInEdge _ _ => true
  | .tapInstruction _ => true
  | .base _ => true
  | .loop _ => true
  | .tile _ => true
  | .xform _ _ => true
  | .pad _ => true
  | .clamp _ => true
  | .stipple _ => true
  | .scale _ _ => true
  | .swap _ _ => true
  | .emit _ => true
  | .drain _ => true
  | .wait _ => true
  | .post _ => true
  | .pace _ => true
  | .deadline _ => true
  | .phase _ _ => true
  | .repeat_ _ => true
  | .endRun _ _ h => h.wf
  | .tl64Descriptor _ => true
  | .laneDescriptor _ => true
  | .quantumExpiry _ => true
  | .streamAdmission place => place.all fun p => decide (p < 256)
  | .readBeat _ _ _ _ _ _ => true
  | .writeResponse _ _ _ _ => true
  | .laneDrainDone _ => true
  | .laneReport _ h => h.wf
  | .portResponseTimeout _ _ _ _ => true
  | .weightBlockLoaded _ => true
  | .expandBlockDone _ => true
  | .compressBlock _ => true
  | .deadlineMiss _ => true
  | .deadlineReplyTimer _ => true
  | .buntingSkewTimer _ => true
  | .triggerFiring _ => true
  | .activityWindow _ _ => true
  | .scrubSlot _ => true
  | .streamRecordTimer h => h.wf
  | .writeFrame f _ => f.wf
  | .rowsFrame f _ => f.wf
  | .readFrame f _ => f.wf
  | .rdataFrame f _ => f.wf
  | .haddFrame f _ => f.wf
  | .statusFrame f _ => f.wf
  | .ackFrame f _ => f.wf
  | .trainHelloFrame f _ => f.wf
  | .probeFrame f _ => f.wf
  | .byeFrame f _ => f.wf
  | .macPassThrough f => f.wf
  | .hostPassThrough f => f.wf
  | .retryTimerExpiry => true
  | .ackTimer => true
  | .frameCloseTimer => true
  | .trainHelloTimer => true
  | .linkTrainTimeout => true
  | .linkDownDrained h => h.wf
  | .plLinkUpFall => true
  | .linkStatusTimer => true
  | .linkIdleTimer => true
  | .controlInterval => true
  | .pllSlewDone => true
  | .voutSettleExpiry => true
  | .pmbusTransactionDone _ => true
  | .pmbusStatusPoll => true
  | .pmbusRetryTimer => true
  | .sensorSample readings h => decide (readings.length = 44) && h.wf
  | .wearMeasurement _ readings h => decide (readings.length = 124) && h.wf
  | .energyModelFit => true
  | .burgee doms _ h => decide (doms.filter (· ≠ .cclk)).Nodup && h.wf
  | .faultPinTimer => true
  | .clockMonitorFault _ _ => true
  | .teconWdog _ => true
  | .laneCheckDone _ _ h => h.wf
  | .warmRestartDone _ h => h.wf
  | .bootStepDone e h => e.wf && h.wf
  | .bootWatchdogExpiry => true
  | .powerOn => true
  | .clockReturn _ => true
  | .plLinkUpRise => true
  | .trigOutPulseEnd _ => true
  | .testLogicReset => true

end Sys2Proof
end

