-- ==== Sys2Proof/Decode.lean ====
section
/-! DEFINITION. Words that spell commands. The table gives no row of this block any bits (its `fields` are empty): a command comes as a
register access, a message, a frame, a pin or an event, and the block has no instruction word. -/
namespace Sys2Proof

/-- The command a word spells by the table's bits: none, since no row gives bits. [Log 12 DESIGN CHOICE] -/
def decodeTableWord (_nbits _w : Nat) : Option Instr := none

end Sys2Proof
end

