-- ==== Sys2Proof/Machine/Bits.lean ====
section
/-! DEFINITION. Bit fields, sign extension, byte order and serial-number comparison (R11, R12, R45). -/
namespace Sys2Proof

/-- Bits `[hi:lo]` of a natural (R12). -/
def bits (x hi lo : Nat) : Nat := (x >>> lo) % 2 ^ (hi + 1 - lo)

/-- Bit `i` of a natural as a Boolean. -/
def bitOn (x i : Nat) : Bool := (x >>> i) % 2 == 1

/-- Two's complement value of the low `w` bits of `x`. -/
def signed (w x : Nat) : Int :=
  let y := x % 2 ^ w
  if y < 2 ^ (w - 1) then (y : Int) else (y : Int) - (2 ^ w : Nat)

/-- The low `w` bits of an integer, as a natural. -/
def wrap (w : Nat) (x : Int) : Nat := (x % ((2 ^ w : Nat) : Int)).toNat

/-- Later than, in 16-bit serial-number arithmetic (R11). -/
def later16 (a b : Nat) : Bool :=
  let d := (a + 65536 - b % 65536) % 65536
  decide (1 ≤ d) && decide (d ≤ 32767)

/-- Equal or later under R11: the wait-greater-or-equal condition (R94). -/
def reached16 (a b : Nat) : Bool := decide (a % 65536 = b % 65536) || later16 a b

/-- Later than, in 32-bit serial-number arithmetic (R11, R360). -/
def later32 (a b : Nat) : Bool :=
  let d := (a + 2 ^ 32 - b % 2 ^ 32) % 2 ^ 32
  decide (1 ≤ d) && decide (d ≤ 2 ^ 31 - 1)

/-- The `n` little-endian bytes of `x` (R12, R45). -/
def toBytes (x : Nat) : Nat → List Byte
  | 0 => []
  | n + 1 => BitVec.ofNat 8 x :: toBytes (x / 256) n

/-- The little-endian value of a byte list (R12, R45). -/
def ofBytes : List Byte → Nat
  | [] => 0
  | b :: bs => b.toNat + 256 * ofBytes bs

/-- The big-endian value of a byte list (R290, Table START-10). -/
def ofBytesBE (bs : List Byte) : Nat := ofBytes bs.reverse

/-- The `n` big-endian bytes of `x`. -/
def toBytesBE (x n : Nat) : List Byte := (toBytes x n).reverse

/-- `n` bytes of `bs` from offset `o`. -/
def slice (bs : List Byte) (o n : Nat) : List Byte := (bs.drop o).take n

/-- A little-endian field of `n` bytes at offset `o`. -/
def fieldLE (bs : List Byte) (o n : Nat) : Nat := ofBytes (slice bs o n)

/-- Replace `bs` from offset `o` on by `new`, keeping the length. -/
def splice (bs : List Byte) (o : Nat) (new : List Byte) : List Byte :=
  bs.take o ++ new.take (bs.length - o) ++ bs.drop (o + new.length)

/-- Little-endian words of a byte list, four bytes each (R50). -/
def wordsOf : Nat → List Byte → List Word
  | 0, _ => []
  | n + 1, bs => BitVec.ofNat 32 (ofBytes (bs.take 4)) :: wordsOf n (bs.drop 4)

/-- The bytes of a list of words, little-endian. -/
def bytesOfWords (ws : List Word) : List Byte := ws.flatMap fun w => toBytes w.toNat 4

/-- Saturating addition to a 32-bit count (R62, R164, R192, R214, R262). -/
def satAdd32 (c n : Nat) : Nat := min (c + n) (2 ^ 32 - 1)

/-- Set or clear bit `i` of a bit vector. -/
def setBit {w : Nat} (v : BitVec w) (i : Nat) (b : Bool) : BitVec w :=
  if b then v ||| BitVec.ofNat w (2 ^ i) else v &&& ~~~ BitVec.ofNat w (2 ^ i)

/-- The indices below `w` whose bits are set, ascending. -/
def onBits (w x : Nat) : List Nat := (List.range w).filter fun i => bitOn x i

/-- How many of the low `w` bits of `x` are set. -/
def popCount (w x : Nat) : Nat := (onBits w x).length

/-- Element `i` of a list, or `d`. -/
def nth {α : Type} (d : α) (l : List α) (i : Nat) : α := l.getD i d

/-- Replace element `i` of a list. -/
def setNth {α : Type} (l : List α) (i : Nat) (v : α) : List α := l.set i v

end Sys2Proof
end

