-- ==== Sys2Proof/Machine/Crypto.lean ====
section
/-! DEFINITION. The firmware signature of R362: SHA-256 and ECDSA over P-256. The constants are those of the two
standards that Table SCOPE-5 names. -/
namespace Sys2Proof

/-- The integer `k`-th root of `n`, from bit `b - 1` of the root down; `r` holds the bits found. -/
def rootBits (k n : Nat) : Nat → Nat → Nat
  | 0, r => r
  | b + 1, r => rootBits k n b (if (r + 2 ^ b) ^ k ≤ n then r + 2 ^ b else r)

/-- The first 32 bits of the fraction of the `k`-th root of `p`. -/
def rootFraction (k p : Nat) : Nat := rootBits k (p * 2 ^ (32 * k)) 40 0 % 2 ^ 32

/-- The primes below 312, of which there are 64. -/
def smallPrimes : List Nat := ((List.range 312).drop 2).filter fun n => ((List.range 18).drop 2).all fun d => decide (d ≥ n) || decide (n % d ≠ 0)

/-- The round constants of SHA-256: fractions of the cube roots of the first 64 primes. -/
def shaK : List Nat := smallPrimes.map (rootFraction 3)

/-- The initial words of SHA-256: fractions of the square roots of the first 8 primes. -/
def shaStart : List Nat := (smallPrimes.take 8).map (rootFraction 2)

/-- Rotate a 32-bit value right. -/
def rotr32 (x n : Nat) : Nat := ((x >>> n) ||| (x <<< (32 - n))) % 2 ^ 32

/-- The eight working variables of SHA-256. -/
structure Sha where
  a : Nat
  b : Nat
  c : Nat
  d : Nat
  e : Nat
  f : Nat
  g : Nat
  h : Nat
  deriving DecidableEq, Repr

/-- One round of the compression function with round constant `k` and schedule word `w`. -/
def shaRound (s : Sha) (k w : Nat) : Sha :=
  let s1 := rotr32 s.e 6 ^^^ rotr32 s.e 11 ^^^ rotr32 s.e 25
  let ch := (s.e &&& s.f) ^^^ ((0xFFFFFFFF ^^^ s.e) &&& s.g)
  let t1 := s.h + s1 + ch + k + w
  let s0 := rotr32 s.a 2 ^^^ rotr32 s.a 13 ^^^ rotr32 s.a 22
  let mj := (s.a &&& s.b) ^^^ (s.a &&& s.c) ^^^ (s.b &&& s.c)
  { a := (t1 + s0 + mj) % 2 ^ 32, b := s.a, c := s.b, d := s.c
    e := (s.d + t1) % 2 ^ 32, f := s.e, g := s.f, h := s.g }

/-- The message schedule, newest word first, extended by `n` words. -/
def shaExtend : Nat → List Nat → List Nat
  | 0, w => w
  | n + 1, w =>
    let x15 := nth 0 w 14
    let x2 := nth 0 w 1
    let s0 := rotr32 x15 7 ^^^ rotr32 x15 18 ^^^ (x15 >>> 3)
    let s1 := rotr32 x2 17 ^^^ rotr32 x2 19 ^^^ (x2 >>> 10)
    shaExtend n (((nth 0 w 15 + s0 + nth 0 w 6 + s1) % 2 ^ 32) :: w)

/-- The sixteen big-endian words of a 64-byte block. -/
def shaWords : Nat → List Byte → List Nat
  | 0, _ => []
  | n + 1, bs => ofBytesBE (bs.take 4) :: shaWords n (bs.drop 4)

/-- Compress one block into the chaining value. -/
def shaBlock (v : Sha) (blk : List Byte) : Sha :=
  let ws := (shaExtend 48 (shaWords 16 blk).reverse).reverse
  let r := (shaK.zip ws).foldl (fun s kw => shaRound s kw.1 kw.2) v
  { a := (v.a + r.a) % 2 ^ 32, b := (v.b + r.b) % 2 ^ 32, c := (v.c + r.c) % 2 ^ 32, d := (v.d + r.d) % 2 ^ 32
    e := (v.e + r.e) % 2 ^ 32, f := (v.f + r.f) % 2 ^ 32, g := (v.g + r.g) % 2 ^ 32, h := (v.h + r.h) % 2 ^ 32 }

/-- Compress `n` blocks. -/
def shaBlocks : Nat → Sha → List Byte → Sha
  | 0, v, _ => v
  | n + 1, v, bs => shaBlocks n (shaBlock v (bs.take 64)) (bs.drop 64)

/-- The padding of a message of `n` bytes. -/
def shaPad (n : Nat) : List Byte :=
  [0x80#8] ++ List.replicate ((119 - n % 64) % 64) 0#8 ++ toBytesBE (8 * n) 8

/-- SHA-256 of a byte list, as a 256-bit number. [Log 85 PRESUMED] -/
def sha256 (bs : List Byte) : Nat :=
  let m := bs ++ shaPad bs.length
  let i := fun k => nth 0 shaStart k
  let r := shaBlocks (m.length / 64) ⟨i 0, i 1, i 2, i 3, i 4, i 5, i 6, i 7⟩ m
  [r.a, r.b, r.c, r.d, r.e, r.f, r.g, r.h].foldl (fun x y => x * 2 ^ 32 + y) 0

/-- The prime of P-256. [Log 85 PRESUMED] -/
def p256P : Nat := 0xffffffff00000001000000000000000000000000ffffffffffffffffffffffff
/-- The group order of P-256. -/
def p256N : Nat := 0xffffffff00000000ffffffffffffffffbce6faada7179e84f3b9cac2fc632551
/-- The coefficient b of P-256; the coefficient a is -3. -/
def p256B : Nat := 0x5ac635d8aa3a93e7b3ebbd55769886bc651d06b0cc53b0f63bce3c3e27d2604b
/-- The base point of P-256. -/
def p256G : Nat × Nat :=
  (0x6b17d1f2e12c4247f8bce6e563a440f277037d812deb33a0f4a13945d898c296,
   0x4fe342e2fe1a7f9b8ee7eb4a7c0f9e162bce33576b315ececbb6406837bf51f5)

/-- `x ^ k mod m` by squaring; `n` bounds the bits of the exponent. -/
def powMod (m : Nat) : Nat → Nat → Nat → Nat
  | 0, _, _ => 1 % m
  | n + 1, x, k =>
    let r := powMod m n (x * x % m) (k / 2)
    if k % 2 = 1 then r * x % m else r

/-- The inverse modulo a prime, by Fermat. -/
def invMod (m x : Nat) : Nat := powMod m 256 (x % m) (m - 2)

/-- Addition of affine points of P-256; `none` is the point at infinity. -/
def ecAdd : Option (Nat × Nat) → Option (Nat × Nat) → Option (Nat × Nat)
  | none, q => q
  | p, none => p
  | some (x1, y1), some (x2, y2) =>
    if x1 = x2 ∧ (y1 + y2) % p256P = 0 then none
    else
      let l := if x1 = x2 then (3 * x1 * x1 + (p256P - 3)) * invMod p256P (2 * y1) % p256P
        else (y2 + p256P - y1) * invMod p256P (x2 + p256P - x1) % p256P
      let x3 := (l * l + 2 * p256P - x1 - x2) % p256P
      some (x3, (l * (x1 + p256P - x3) + p256P - y1) % p256P)

/-- Scalar multiplication; `n` bounds the bits of the scalar. -/
def ecMul : Nat → Nat → Option (Nat × Nat) → Option (Nat × Nat)
  | 0, _, _ => none
  | n + 1, k, p =>
    let r := ecMul n (k / 2) (ecAdd p p)
    if k % 2 = 1 then ecAdd r p else r

/-- A point lies on the curve y^2 = x^3 - 3x + b. -/
def onCurve (x y : Nat) : Bool :=
  decide (x < p256P) && decide (y < p256P) &&
    decide (y * y % p256P = (x * x % p256P * x + (p256P - 3) * x + p256B) % p256P)

/-- ECDSA P-256 verification of a digest (R362, Table SCOPE-5). [Log 85 PRESUMED] -/
def ecdsaVerify (kx ky r s e : Nat) : Bool :=
  if r = 0 ∨ r ≥ p256N ∨ s = 0 ∨ s ≥ p256N ∨ onCurve kx ky = false then false
  else
    let w := invMod p256N s
    match ecAdd (ecMul 256 (e * w % p256N) (some p256G)) (ecMul 256 (r * w % p256N) (some (kx, ky))) with
    | none => false
    | some (x, _) => decide (x % p256N = r)

end Sys2Proof
end

