-- ==== Sys2Proof/Config.lean ====
section
/-! DEFINITION. The free values: what the spec calls undefined (R7) or leaves unstated. They have no body, so nothing
can be proved about one of them; the counter `State.free` picks the next. -/
namespace Sys2Proof.Config

/-- Contents the spec leaves undefined (R7), one byte for each use. [Log 2 DESIGN CHOICE] -/
opaque freeByte : Nat → BitVec 8

/-- A register or record word whose contents the spec leaves undefined (R7, R265). [Log 2 DESIGN CHOICE] -/
opaque freeWord : Nat → BitVec 32

/-- A quantity the spec leaves open in the power manager's fit when the least-squares solution is not unique (R313). [Logs 2, 84 DESIGN CHOICE] -/
opaque freeRat : Nat → Rat

/-- An event whose instant the spec leaves to the timing of the block, within the bounds it states. [Log 87 DESIGN CHOICE] -/
opaque freeBit : Nat → Bool

/-- The signature that the ROM table predicts for a checkpoint (R341). [Log 83 DESIGN CHOICE] -/
opaque signature : Nat → BitVec 32

end Sys2Proof.Config
end

