-- ==== Sys2Proof/Machine/Num.lean ====
section
/-! DEFINITION. Element formats and the exact arithmetic of the Burins: decoding, rounding, the Drain procedure
(R43-R45, R144-R147, R160-R166) and the narrow-wire quantiser (R178-R186). -/
namespace Sys2Proof

/-- The element formats of Table LAYOUT-1. -/
inductive Fmt where
  | int4 | int8 | int16 | int32 | e4m3 | e5m2 | bf16 | fp16 | fp32 | ci8 | ci16 | cbf16
  deriving DecidableEq, Repr

/-- The format a 6-bit code names (Table LAYOUT-1); every other code is reserved (R43). -/
def Fmt.ofCode : Nat → Option Fmt
  | 0x01 => some .int4 | 0x02 => some .int8 | 0x03 => some .int16 | 0x04 => some .int32
  | 0x08 => some .e4m3 | 0x09 => some .e5m2 | 0x0A => some .bf16 | 0x0B => some .fp16 | 0x0C => some .fp32
  | 0x10 => some .ci8 | 0x11 => some .ci16 | 0x12 => some .cbf16
  | _ => none

/-- The code of a format (Table LAYOUT-1). -/
def Fmt.code : Fmt → Nat
  | .int4 => 0x01 | .int8 => 0x02 | .int16 => 0x03 | .int32 => 0x04
  | .e4m3 => 0x08 | .e5m2 => 0x09 | .bf16 => 0x0A | .fp16 => 0x0B | .fp32 => 0x0C
  | .ci8 => 0x10 | .ci16 => 0x11 | .cbf16 => 0x12

/-- Bits of one element (Table LAYOUT-1). -/
def Fmt.bits : Fmt → Nat
  | .int4 => 4 | .int8 => 8 | .int16 => 16 | .int32 => 32 | .e4m3 => 8 | .e5m2 => 8
  | .bf16 => 16 | .fp16 => 16 | .fp32 => 32 | .ci8 => 16 | .ci16 => 32 | .cbf16 => 32

/-- Elements per cell, TD0 (Table LAYOUT-1). -/
def Fmt.td0 (f : Fmt) : Nat := 512 / f.bits

/-- A complex format (Table LAYOUT-1). -/
def Fmt.complex : Fmt → Bool
  | .ci8 | .ci16 | .cbf16 => true
  | _ => false

/-- The format of one part: the base format of a complex format (R44), the format itself otherwise. -/
def Fmt.part : Fmt → Fmt
  | .ci8 => .int8 | .ci16 => .int16 | .cbf16 => .bf16
  | f => f

/-- The shape of a floating format: fraction bits, bias, and the largest finite magnitude `hm * 2^he` (Table BURIN-9). -/
structure FloatShape where
  expBits : Nat
  manBits : Nat
  bias : Nat
  hasInf : Bool
  hm : Nat
  he : Int
  nanPat : Nat
  deriving DecidableEq, Repr

/-- The floating shape of a real format; none for an integer format. -/
def Fmt.float : Fmt → Option FloatShape
  | .e4m3 => some ⟨4, 3, 7, false, 14, 5, 0x7F⟩
  | .e5m2 => some ⟨5, 2, 15, true, 7, 13, 0x7F⟩
  | .bf16 => some ⟨8, 7, 127, true, 255, 120, 0x7FC0⟩
  | .fp16 => some ⟨5, 10, 15, true, 2047, 5, 0x7E00⟩
  | .fp32 => some ⟨8, 23, 127, true, 16777215, 104, 0x7FC00000⟩
  | _ => none

/-- An exact value: NaN, an infinity, or `(-1)^neg * m * 2^e`. -/
inductive Val where
  | nan
  | inf (neg : Bool)
  | fin (neg : Bool) (m : Nat) (e : Int)
  deriving DecidableEq, Repr

/-- An exact integer as a value. -/
def Val.ofInt (x : Int) : Val := .fin (decide (x < 0)) x.natAbs 0

/-- Zero with the positive sign (R145). -/
def Val.zero : Val := .fin false 0 0

/-- The value is a zero. -/
def Val.isZero : Val → Bool
  | .fin _ m _ => decide (m = 0)
  | _ => false

/-- The sign of a value; NaN counts as positive. -/
def Val.neg : Val → Bool
  | .nan => false
  | .inf n => n
  | .fin n _ _ => n

/-- Two to a natural power given as an integer exponent; 1 below zero. -/
def pow2 (e : Int) : Nat := 2 ^ e.toNat

/-- The bit length of a natural. -/
def bitLen (m : Nat) : Nat := if m = 0 then 0 else Nat.log2 m + 1

/-- The numerator of `m * 2^e` over the common exponent `q` below `e`. -/
def scaleTo (m : Int) (e q : Int) : Int := m * (pow2 (e - q) : Nat)

/-- A dyadic rational `m * 2^e`, for exact sums (R144). -/
structure Dy where
  m : Int
  e : Int
  deriving DecidableEq, Repr

/-- Exact sum of two dyadic rationals. -/
def Dy.add (x y : Dy) : Dy :=
  if x.m = 0 then y else if y.m = 0 then x
  else
    let q := min x.e y.e
    ⟨scaleTo x.m x.e q + scaleTo y.m y.e q, q⟩

/-- The exact value of a dyadic rational; an exact zero is +0 (R145). -/
def Dy.toVal (x : Dy) : Val := if x.m = 0 then Val.zero else .fin (decide (x.m < 0)) x.m.natAbs x.e

/-- A finite value as a dyadic rational; other values read 0. -/
def Val.toDy : Val → Dy
  | .fin n m e => ⟨if n then -(m : Int) else (m : Int), e⟩
  | _ => ⟨0, 0⟩

/-- `|x| ≤ |y|` for magnitudes `m * 2^e`. -/
def magLe (m1 : Nat) (e1 : Int) (m2 : Nat) (e2 : Int) : Bool :=
  let q := min e1 e2
  decide (m1 * pow2 (e1 - q) ≤ m2 * pow2 (e2 - q))

/-- Decode the pattern of a real format to its exact value (R43, R160). [Log 85 PRESUMED] -/
def decodeReal (f : Fmt) (pat : Nat) : Val :=
  match f.float with
  | none => Val.ofInt (signed f.bits pat)
  | some s =>
    let n := bitOn pat (s.expBits + s.manBits)
    let ex := bits pat (s.expBits + s.manBits - 1) s.manBits
    let man := pat % 2 ^ s.manBits
    let top := 2 ^ s.expBits - 1
    if s.hasInf ∧ ex = top then (if man = 0 then .inf n else .nan)
    else if ¬ s.hasInf ∧ ex = top ∧ man = 2 ^ s.manBits - 1 then .nan
    else if ex = 0 then .fin n man (1 - (s.bias : Int) - s.manBits)
    else .fin n (2 ^ s.manBits + man) ((ex : Int) - s.bias - s.manBits)

/-- Round a magnitude to a multiple of `2^q`, ties away from zero. -/
def roundTo (m : Nat) (e q : Int) : Nat :=
  if e ≥ q then m * pow2 (e - q)
  else (m + pow2 (q - e - 1)) / pow2 (q - e)

/-- The exponent of the last place of a rounded floating result: the significand width, subnormals included (R163). -/
def lastPlace (s : FloatShape) (m : Nat) (e : Int) : Int :=
  max ((bitLen m : Int) - 1 + e - s.manBits) (1 - (s.bias : Int) - s.manBits)

/-- `round_away` of R163 to a floating format, the exponent not bounded above: magnitude and exponent of the last place. -/
def roundFloat (s : FloatShape) (m : Nat) (e : Int) : Nat × Int :=
  let q := lastPlace s m e
  (roundTo m e q, q)

/-- The bit pattern of `(-1)^neg * m * 2^q`, a value of the format (R163 step 4). [Log 85 PRESUMED] -/
def encodeFloat (s : FloatShape) (neg : Bool) (m : Nat) (q : Int) : Nat :=
  let sg := if neg then 2 ^ (s.expBits + s.manBits) else 0
  let (m, q) := if m ≥ 2 ^ (s.manBits + 1) then (m / 2, q + 1) else (m, q)
  if m < 2 ^ s.manBits then sg + m
  else sg + (q + s.bias + s.manBits).toNat * 2 ^ s.manBits + (m - 2 ^ s.manBits)

/-- The pattern of an infinity of the format. -/
def encodeInf (s : FloatShape) (neg : Bool) : Nat :=
  (if neg then 2 ^ (s.expBits + s.manBits) else 0) + (2 ^ s.expBits - 1) * 2 ^ s.manBits

/-- The largest finite magnitude as a pattern, with a sign. -/
def encodeMax (s : FloatShape) (neg : Bool) : Nat := encodeFloat s neg s.hm s.he

/-- `round_fp32` of R144: ties away, overflow to an infinity. -/
def roundFp32 : Val → Val
  | .fin n m e =>
    if m = 0 then .fin n 0 0
    else
      let (m', q) := roundFloat ⟨8, 23, 127, true, 16777215, 104, 0x7FC00000⟩ m e
      if magLe m' q 16777215 104 then .fin n m' q else .inf n
  | v => v

/-- What the Drain stage writes for one real element, and the counts it raises (R163, R164). -/
structure Drained where
  pat : Nat
  sat : Nat
  nan : Nat
  deriving DecidableEq, Repr

/-- The exact product of two values (R145). -/
def Val.mul : Val → Val → Val
  | .nan, _ => .nan
  | _, .nan => .nan
  | .inf a, .inf b => .inf (a != b)
  | .inf a, .fin b m _ => if m = 0 then .nan else .inf (a != b)
  | .fin a m _, .inf b => if m = 0 then .nan else .inf (a != b)
  | .fin a m e, .fin b n f => .fin (a != b) (m * n) (e + f)

/-- Negation. -/
def Val.negate : Val → Val
  | .nan => .nan
  | .inf n => .inf (!n)
  | .fin n m e => .fin (!n) m e

/-- The exact sum of a list of values under the rules of R145. -/
def Val.sum (l : List Val) : Val :=
  if l.any (fun v => decide (v = .nan)) then .nan
  else if l.any (fun v => decide (v = .inf false)) then
    (if l.any (fun v => decide (v = .inf true)) then .nan else .inf false)
  else if l.any (fun v => decide (v = .inf true)) then .inf true
  else (l.foldl (fun (a : Dy) v => a.add v.toDy) ⟨0, 0⟩).toVal

/-- The saturation limits of an integer format: high, and magnitude of low (Table BURIN-9). -/
def intHigh (b : Nat) : Nat := 2 ^ (b - 1) - 1

/-- The Drain procedure of R163 for a real write format `f`, accumulator `a` and scale `s`. -/
def drainReal (f : Fmt) (a s : Val) : Drained :=
  match a.mul s with
  | .nan =>
    match f.float with
    | some p => ⟨p.nanPat, 0, 0⟩
    | none => ⟨0, 0, 1⟩
  | .inf n =>
    match f.float with
    | some p => if p.hasInf then ⟨encodeInf p n, 0, 0⟩ else ⟨encodeMax p n, 1, 0⟩
    | none => if n then ⟨2 ^ (f.bits - 1), 1, 0⟩ else ⟨intHigh f.bits, 1, 0⟩
  | .fin n m e =>
    match f.float with
    | some p =>
      if m = 0 then ⟨encodeFloat p n 0 0, 0, 0⟩
      else
        let (m', q) := roundFloat p m e
        if magLe m' q p.hm p.he then ⟨encodeFloat p n m' q, 0, 0⟩ else ⟨encodeMax p n, 1, 0⟩
    | none =>
      let r := roundTo m e 0
      if n then (if r > 2 ^ (f.bits - 1) then ⟨2 ^ (f.bits - 1), 1, 0⟩ else ⟨(2 ^ f.bits - r) % 2 ^ f.bits, 0, 0⟩)
      else (if r > intHigh f.bits then ⟨intHigh f.bits, 1, 0⟩ else ⟨r, 0, 0⟩)

/-- The parts of an element pattern: real part first for a complex format (R44). -/
def partsOf (f : Fmt) (pat : Nat) : List Nat :=
  if f.complex then [pat % 2 ^ f.part.bits, (pat >>> f.part.bits) % 2 ^ f.part.bits] else [pat]

/-- Decode every part of an element. -/
def decodeParts (f : Fmt) (pat : Nat) : List Val := (partsOf f pat).map (decodeReal f.part)

/-- Drain every part of an output element with one scale and join the parts (R147, R162-R164). -/
def drainElem (f : Fmt) (acc : List Val) (s : Val) : Drained :=
  let ds := acc.map fun a => drainReal f.part a s
  { pat := ds.foldr (fun d x => d.pat + x * 2 ^ f.part.bits) 0
    sat := ds.foldl (fun x d => x + d.sat) 0
    nan := ds.foldl (fun x d => x + d.nan) 0 }

/-! ### Accumulation (R141, R144, R147) -/

/-- The array accumulates in FP32 for a floating read format, exactly for an integer one (Table BURIN-1). -/
def Fmt.floatAcc (f : Fmt) : Bool := f.part.float.isSome

/-- The products of one real or complex multiplication, by part: a list of values to sum for each part (R147). -/
def mulParts (w x : List Val) : List (List Val) :=
  match w, x with
  | [a, b], [c, d] => [[a.mul c, (b.mul d).negate], [a.mul d, b.mul c]]
  | [a], [c] => [[a.mul c]]
  | _, _ => []

/-- Join the product lists of two terms part by part. -/
def joinParts : List (List Val) → List (List Val) → List (List Val)
  | p :: ps, q :: qs => (p ++ q) :: joinParts ps qs
  | [], qs => qs
  | ps, [] => ps

/-- One chunk sum: the exact sum over k, rounded to FP32 where the accumulator is FP32 (R144). -/
def chunkSum (fp : Bool) (ws xs : List (List Val)) : List Val :=
  let terms := (ws.zip xs).foldl (fun acc wx => joinParts acc (mulParts wx.1 wx.2)) []
  terms.map fun l => let v := Val.sum l; if fp then roundFp32 v else v

/-- Add two chunk sums part by part, rounding to FP32 where the accumulator is FP32 (R144, R171). -/
def addAcc (fp : Bool) (a b : List Val) : List Val :=
  (a.zip b).map fun xy => let v := Val.sum [xy.1, xy.2]; if fp then roundFp32 v else v

/-- The fixed tree of R171 over the partial accumulators of G members, one step of the loop per `n`. -/
def splitTree (fp : Bool) : Nat → Nat → List (List Val) → List (List Val)
  | 0, _, ps => ps
  | n + 1, st, ps =>
    splitTree fp n (2 * st) ((List.range ps.length).map fun i =>
      if i % (2 * st) = 0 ∧ i + st < ps.length then addAcc fp (nth [] ps i) (nth [] ps (i + st)) else nth [] ps i)

/-- The absolute value of a finite value. -/
def Val.abs : Val → Val
  | .fin _ m e => .fin false m e
  | .inf _ => .inf false
  | .nan => .nan

/-- The sum check of Table BURIN-10 for one part of an output vector: `p` the prediction, `accs` the accumulators.
Integer sums pass by arithmetic; floating sums are compared within the tolerance. [Log 37 DEDUCED] -/
def proofSumOk (fp : Bool) (p : Val) (accs : List Val) : Bool :=
  if fp then
    let pr := roundFp32 p
    let s := roundFp32 (Val.sum accs)
    let special := fun v : Val => match v with | .fin _ _ _ => false | _ => true
    if special pr || special s || accs.any special then decide (pr = s) && special pr
    else
      let d := (pr.toDy.add (s.negate).toDy).toVal.abs.toDy
      let b := (pr.abs :: accs.map Val.abs).foldl (fun (a : Dy) v => a.add v.toDy) ⟨0, 0⟩
      let bt : Dy := ⟨b.m, b.e - 16⟩
      let q := min d.e bt.e
      decide (scaleTo d.m d.e q ≤ scaleTo bt.m bt.e q)
  else decide ((Dy.add (Val.sum accs).toDy (p.negate).toDy).m = 0)

/-! ### Narrow wire (R178-R186) -/

/-- `floor(log2(a / b))` for positive naturals. -/
def floorLog2Div (a b : Nat) : Int :=
  let d : Int := (bitLen a : Int) - bitLen b
  -- 2^(d-1) < a/b < 2^(d+1)
  if d ≥ 0 then (if a ≥ b * pow2 d then d else d - 1) else (if a * pow2 (-d) ≥ b then d else d - 1)

/-- Round `a / b` to the nearest integer, ties away from zero, for a non-negative rational. -/
def roundDiv (a b : Nat) : Nat := (2 * a + b) / (2 * b)

/-- `dither_value` of R186, 0 to 65,535. -/
def ditherValue (seed epoch r i : Nat) : Nat :=
  let m := 2 ^ 32
  let x := (seed % m) ^^^ (epoch * 0x01000193 % m) ^^^ (r * 0x9E3779B9 % m) ^^^ (i * 0x85EBCA6B % m)
  let x := x ^^^ (x >>> 16)
  let x := x * 0x7FEB352D % m
  let x := x ^^^ (x >>> 15)
  let x := x * 0x846CA68B % m
  let x := x ^^^ (x >>> 16)
  x >>> 16

/-- Why a row travels wide (R192). -/
inductive WideCause where
  | special | scale | zeros
  deriving DecidableEq, Repr

/-- A narrowed row (R179). -/
inductive NarrowRow where
  | zero
  | narrow (code : Nat) (q : List Int)
  | wide (why : WideCause)
  deriving DecidableEq, Repr

/-- The settings of a producing scale link (Table FYUSH-4). -/
structure NarrowCfg where
  int4 : Bool
  dither : Bool
  zsh : Nat
  rsh : Nat
  seed : Nat
  deriving DecidableEq, Repr

/-- `ZSH` with 0 read as 6, `RSH` with 0 read as 4 (Table FYUSH-4). -/
def NarrowCfg.zshEff (c : NarrowCfg) : Nat := if c.zsh = 0 then 6 else c.zsh
/-- `RSH` with 0 read as 4 (Table FYUSH-4). -/
def NarrowCfg.rshEff (c : NarrowCfg) : Nat := if c.rsh = 0 then 4 else c.rsh

/-- The quotient of one value by the scale `k * 2^(e-7)`, rounded or dithered, then clamped (R179). -/
def quantise (c : NarrowCfg) (k : Nat) (e : Int) (epoch r i : Nat) (v : Val) : Int :=
  let qmax : Int := if c.int4 then 7 else 127
  match v with
  | .fin n m x =>
    let num := m * pow2 (x - (e - 7))
    let den := k * pow2 ((e - 7) - x)
    let q : Int :=
      if c.dither then
        let s : Int := if n then -(num : Int) else (num : Int)
        Int.fdiv (s * 65536 + (ditherValue c.seed epoch r i : Int) * den) ((den : Int) * 65536)
      else (if n then -(roundDiv num den : Int) else (roundDiv num den : Int))
    min (max q (-qmax)) qmax
  | _ => 0

/-- `narrow_row` of R179. -/
def narrowRow (c : NarrowCfg) (epoch r : Nat) (v : List Val) : NarrowRow :=
  let qmax := if c.int4 then 7 else 127
  if v.any (fun x => match x with | .fin _ _ _ => false | _ => true) then .wide .special
  else
    -- the largest magnitude, over a common exponent
    let qe : Int := v.foldl (fun a x => match x with | .fin _ m e => if m = 0 then a else min a e | _ => a) 0
    let mags := v.map fun x => match x with | .fin _ m e => if m = 0 then 0 else m * pow2 (e - qe) | _ => 0
    let big := mags.foldl max 0
    if big = 0 then .zero
    else
      -- t = big * 2^qe / qmax
      let e0 := floorLog2Div big qmax + qe
      -- k = round_away(t * 2^(7 - e0))
      let sh := qe + 7 - e0
      let k0 := roundDiv (big * pow2 sh) (qmax * pow2 (-sh))
      let (k, e) := if k0 = 256 then (128, e0 + 1) else (k0, e0)
      if e < -126 ∨ e > 127 then .wide .scale
      else
        let qs := v.mapIdx fun i x => quantise c k e epoch r i x
        let nz := (v.filter fun x => !x.isZero).length
        let z := ((v.zip qs).filter fun xq => !xq.1.isZero && decide (xq.2 = 0)).length
        if z * 2 ^ c.zshEff > nz then .wide .zeros
        else .narrow ((e + 127).toNat * 128 + (k - 128)) qs

/-- The scale value of a code of Table WIRE-3; none for a reserved code. -/
def scaleOfCode (c : Nat) : Option Val :=
  if c = 0 then some Val.zero
  else if c = 0xBF80 then some (.fin false 1 0)
  else if bitOn c 15 then none
  else
    let ex := bits c 14 7
    if 1 ≤ ex ∧ ex ≤ 254 then some (.fin false (128 + c % 128) ((ex : Int) - 134)) else none

end Sys2Proof
end

