-- ==== Sys2Proof/Machine/Layout.lean ====
section
/-! DEFINITION. Tensor descriptors, cells, super-tiles, footprints, edges, padding and transforms (R43-R76). -/
namespace Sys2Proof

/-- Four values, one for each dimension D0 to D3 (R46). -/
structure V4 (α : Type) where
  d0 : α
  d1 : α
  d2 : α
  d3 : α
  deriving DecidableEq, Repr

/-- The value of dimension `d`. -/
def V4.at {α : Type} (v : V4 α) (d : Nat) : α := match d with | 0 => v.d0 | 1 => v.d1 | 2 => v.d2 | _ => v.d3

/-- Replace the value of dimension `d`. -/
def V4.put {α : Type} (v : V4 α) (d : Nat) (x : α) : V4 α :=
  match d with
  | 0 => { v with d0 := x } | 1 => { v with d1 := x } | 2 => { v with d2 := x } | _ => { v with d3 := x }

/-- One value in every dimension. -/
def V4.all {α : Type} (x : α) : V4 α := ⟨x, x, x, x⟩

/-- Map every dimension. -/
def V4.map {α β : Type} (f : α → β) (v : V4 α) : V4 β := ⟨f v.d0, f v.d1, f v.d2, f v.d3⟩

/-- Combine two vectors dimension by dimension. -/
def V4.zip {α β γ : Type} (f : α → β → γ) (v : V4 α) (w : V4 β) : V4 γ := ⟨f v.d0 w.d0, f v.d1 w.d1, f v.d2 w.d2, f v.d3 w.d3⟩

/-- Some dimension satisfies `p`. -/
def V4.any {α : Type} (p : α → Bool) (v : V4 α) : Bool := p v.d0 || p v.d1 || p v.d2 || p v.d3

/-- The values as a list. -/
def V4.list {α : Type} (v : V4 α) : List α := [v.d0, v.d1, v.d2, v.d3]

/-- A checked tensor descriptor (Table LAYOUT-3), its fields decoded. Words 0 to 10 of two descriptors are equal exactly
when these fields up to `s` are equal. -/
structure Desc where
  base : Nat
  loc : Nat
  fmt : Fmt
  padw : Bool
  coded : Bool
  cbook : Nat
  stc : Nat
  str : Nat
  e : V4 Nat
  s : V4 Nat
  allocBase : Nat
  allocLen : Nat
  peerTag : Nat
  ownerOff : Nat
  deriving DecidableEq, Repr

/-- Word `i` of a descriptor image. -/
def dword (ws : List Word) (i : Nat) : Nat := (nth 0#32 ws i).toNat

/-- The reserved fields of Table LAYOUT-3 are zero, and `LOC` and `FMT` hold assigned values. -/
def descReservedOk (ws : List Word) : Bool :=
  decide (bits (dword ws 1) 27 20 = 0) && decide (bits (dword ws 1) 31 28 ≤ 2) &&
  decide (bits (dword ws 2) 11 0 = 0) && (Fmt.ofCode (bits (dword ws 2) 31 26)).isSome &&
  ([3, 4, 5, 6].all fun i => decide (bits (dword ws i) 31 24 = 0))

/-- Decode the sixteen words of Table LAYOUT-3. -/
def Desc.ofWords (ws : List Word) (f : Fmt) : Desc :=
  { base := dword ws 0 + bits (dword ws 1) 19 0 * 2 ^ 32
    loc := bits (dword ws 1) 31 28
    fmt := f
    padw := bitOn (dword ws 2) 25
    coded := bitOn (dword ws 2) 24
    cbook := bits (dword ws 2) 23 20
    stc := bits (dword ws 2) 19 16 + 1
    str := bits (dword ws 2) 15 12 + 1
    e := ⟨bits (dword ws 3) 23 0, bits (dword ws 4) 23 0, bits (dword ws 5) 23 0, bits (dword ws 6) 23 0⟩
    s := ⟨dword ws 7, dword ws 8, dword ws 9, dword ws 10⟩
    allocBase := dword ws 11 + bits (dword ws 12) 19 0 * 2 ^ 32
    allocLen := dword ws 13
    peerTag := bits (dword ws 12) 31 20
    ownerOff := dword ws 14 }

/-- Super-tile width along D0 in elements (R46). -/
def Desc.w0 (d : Desc) : Nat := d.stc * d.fmt.td0
/-- Super-tile height along D1 in elements (R46). -/
def Desc.w1 (d : Desc) : Nat := d.str * 16
/-- Super-tiles along each dimension, N0 to N3 (R46). -/
def Desc.n (d : Desc) : V4 Nat := ⟨ceilDiv d.e.d0 d.w0, ceilDiv d.e.d1 d.w1, d.e.d2, d.e.d3⟩
/-- Super-tiles of the tensor. -/
def Desc.nst (d : Desc) : Nat := d.n.d0 * d.n.d1 * d.n.d2 * d.n.d3
/-- Bytes per super-tile, f of R53. -/
def Desc.f (d : Desc) : Nat := d.stc * d.str * 1024

/-- Insert a dimension and its stride in ascending order of stride, after equal strides (R53). -/
def insertDim (x : Nat × Nat) : List (Nat × Nat) → List (Nat × Nat)
  | [] => [x]
  | y :: t => if x.2 < y.2 then x :: y :: t else y :: insertDim x t

/-- The dimensions with N > 1, sorted by ascending stride, equal strides in ascending dimension (R53). -/
def Desc.dims (d : Desc) : List (Nat × Nat) :=
  ((List.range 4).filter fun i => decide (d.n.at i > 1)).foldl (fun l i => insertDim (i, d.s.at i) l) []

/-- The footprint span and the disjointness test of R53. -/
def Desc.spanTest (d : Desc) : Nat × Bool :=
  d.dims.foldl (fun acc x => ((d.n.at x.1 - 1) * x.2 + acc.1, acc.2 && decide (x.2 ≥ acc.1))) (d.f, true)

/-- The footprint span in bytes (R53). -/
def Desc.span (d : Desc) : Nat := d.spanTest.1

/-- Blocks of a coded super-tile, NBS (R194). -/
def Desc.nbs (d : Desc) : Nat := ceilDiv d.f 4096

/-- The coded span (R195). -/
def Desc.codedSpan (d : Desc) : Nat := ceilDiv (d.span + 16 * d.nst * d.nbs) 64 * 64

/-- The bytes of a tensor that overlap tests compare: the span, or the coded span of a coded handle (R69). -/
def Desc.reach (d : Desc) : Nat := if d.coded then d.codedSpan else d.span

/-- The range tests of R53, in order; the pool size is the limit when `LOC` = 1. -/
def Desc.rangeOk (d : Desc) (pool : Nat) : Bool :=
  let lim := if d.loc = 1 then pool else 2 ^ 52
  decide (d.allocBase ≤ d.base) && decide (d.base + d.span ≤ d.allocBase + d.allocLen * 64) &&
    decide (d.base + d.span ≤ lim) && decide (d.allocBase + d.allocLen * 64 ≤ lim)

/-- The alignment rule R52. -/
def Desc.aligned (d : Desc) : Bool :=
  let u := if d.loc = 1 then 1024 else 64
  decide (d.base % u = 0) && decide (d.allocBase % u = 0) && (d.s.list.all fun x => decide (x % u = 0)) &&
    decide (d.ownerOff % 64 = 0) && (decide (d.fmt ≠ .int4) || decide (d.e.d0 % 2 = 0))

/-- The byte address of an element and, for INT4, its nibble (R47). -/
def Desc.addrOf (d : Desc) (i : V4 Nat) : Nat × Nat :=
  let td0 := d.fmt.td0
  let sc0 := i.d0 / d.w0
  let tc := (i.d0 % d.w0) / td0
  let e := i.d0 % td0
  let sc1 := i.d1 / d.w1
  let tr := (i.d1 % d.w1) / 16
  let row := i.d1 % 16
  (d.base + sc0 * d.s.d0 + sc1 * d.s.d1 + i.d2 * d.s.d2 + i.d3 * d.s.d3
     + (tr * d.stc + tc) * 1024 + row * 64 + e * d.fmt.bits / 8,
   if d.fmt.bits = 4 then (e * d.fmt.bits % 8) / 4 else 0)

/-- The super-tile of an element: coordinates along D0 to D3. -/
def Desc.stOf (d : Desc) (i : V4 Nat) : V4 Nat := ⟨i.d0 / d.w0, i.d1 / d.w1, i.d2, i.d3⟩

/-- The number of a super-tile in index order, D0 fastest (R58, R195). -/
def Desc.stIndex (d : Desc) (c : V4 Nat) : Nat := c.d0 + d.n.d0 * (c.d1 + d.n.d1 * (c.d2 + d.n.d2 * c.d3))

/-- The coordinates of super-tile number `t`. -/
def Desc.stCoord (d : Desc) (t : Nat) : V4 Nat :=
  ⟨t % d.n.d0, t / d.n.d0 % d.n.d1, t / d.n.d0 / d.n.d1 % d.n.d2, t / d.n.d0 / d.n.d1 / d.n.d2⟩

/-- The first byte of a super-tile (R47). -/
def Desc.stAddr (d : Desc) (c : V4 Nat) : Nat := d.base + c.d0 * d.s.d0 + c.d1 * d.s.d1 + c.d2 * d.s.d2 + c.d3 * d.s.d3

/-- The address of the header of block `k` of super-tile number `t` (R195). -/
def Desc.headerAddr (d : Desc) (t k : Nat) : Nat := d.base + d.span + 16 * (t * d.nbs + k)

/-- The raw size Z of block `k` of a super-tile (R194). -/
def Desc.blockSize (d : Desc) (k : Nat) : Nat := min (4096 * k + 4096) d.f - 4096 * k

/-- Two byte ranges `[a, a+n)` and `[b, b+m)` share a byte. -/
def rangesMeet (a n b m : Nat) : Bool := decide (a < b + m) && decide (b < a + n) && decide (0 < n) && decide (0 < m)

/-- The footprints of two handles share a byte (R69); different `LOC` never do. -/
def Desc.meets (x y : Desc) : Bool := decide (x.loc = y.loc) && rangesMeet x.base x.reach y.base y.reach

/-- Words 0 to 10 of the two descriptors are equal (Table LAYOUT-7). -/
def Desc.sameLayout (x y : Desc) : Bool :=
  decide ({ x with allocBase := 0, allocLen := 0, peerTag := 0, ownerOff := 0 } =
    { y with allocBase := 0, allocLen := 0, peerTag := 0, ownerOff := 0 })

/-! ### Transforms (R68, R158, R159) -/

/-- The transform fields of `XFORM` (Table FYUSH-4). -/
structure Xform where
  mode : Nat
  wslot : Nat
  axis : Nat
  rev : Nat
  rot : Nat
  shift : Nat
  kch : Nat
  bf : Nat
  deriving DecidableEq, Repr

/-- `XFORM` at the start of a run: Permute (Table FYUSH-7). -/
def Xform.start : Xform := ⟨1, 0, 0, 0, 0, 0, 1, 1⟩

/-- Map and Complex modes. -/
def Xform.arith (x : Xform) : Bool := decide (x.mode = 0) || decide (x.mode = 4)

/-- The padded extents PE (R64). -/
def paddedExtents (e lo hi : V4 Nat) : V4 Nat := ⟨e.d0 + lo.d0 + hi.d0, e.d1 + lo.d1 + hi.d1, e.d2 + lo.d2 + hi.d2, e.d3 + lo.d3 + hi.d3⟩

/-- The extents of the result of reversals and rotation (Table LAYOUT-6). -/
def Xform.rotExtents (x : Xform) (pe : V4 Nat) : V4 Nat := if x.rot % 2 = 1 then ⟨pe.d1, pe.d0, pe.d2, pe.d3⟩ else pe

/-- The extents of the transform's result, Broadcast replication included (R159). -/
def Xform.resultExtents (x : Xform) (pe : V4 Nat) : V4 Nat :=
  let r := x.rotExtents pe
  if x.mode = 2 then r.put x.axis (r.at x.axis * x.bf) else r

/-- The inverse transform of R64: replication and shift first (R158, R159), then the rotation, then the reversals. -/
def Xform.inverse (x : Xform) (pe : V4 Nat) (u : V4 Int) : V4 Int :=
  let u := if x.mode = 2 then u.put x.axis (Int.fdiv (u.at x.axis) x.bf) else u
  let re0 : Int := (x.rotExtents pe).d0
  let u := if x.shift = 0 then u else { u with d0 := (u.d0 - x.shift) % re0 }
  let p0 : Int := pe.d0
  let p1 : Int := pe.d1
  let p : V4 Int := match x.rot with
    | 0 => u
    | 1 => { u with d0 := u.d1, d1 := p1 - 1 - u.d0 }
    | 2 => { u with d0 := p0 - 1 - u.d0, d1 := p1 - 1 - u.d1 }
    | _ => { u with d0 := p0 - 1 - u.d1, d1 := u.d0 }
  (List.range 4).foldl (fun q d => if bitOn x.rev d then q.put d ((pe.at d : Int) - 1 - q.at d) else q) p

/-- Clamp an integer into `lo .. hi`. -/
def clampInt (x lo hi : Int) : Nat := (min (max x lo) hi).toNat

/-- The padding state of a stream (R64, R85). -/
structure Pad where
  lo : V4 Nat
  hi : V4 Nat
  edge : Bool
  value : Nat
  deriving DecidableEq, Repr

/-- Padding at the start of a run (Table FYUSH-7). -/
def Pad.start : Pad := ⟨.all 0, .all 0, false, 0⟩

/-- What an element of the padded source is (R64): a pad element or not, and its value: the constant, or a source element. -/
structure Picked where
  isPad : Bool
  const : Bool
  at_ : V4 Nat
  deriving DecidableEq, Repr

/-- R64 from the clamp of `p` (R60 step 1) onward: source extents `e`, padding, clamp bounds. -/
def pickSource (e : V4 Nat) (pad : Pad) (clo chi : V4 Nat) (p : V4 Int) : Picked :=
  let pe := paddedExtents e pad.lo pad.hi
  let q : V4 Nat := ⟨clampInt p.d0 0 (pe.d0 - 1 : Int), clampInt p.d1 0 (pe.d1 - 1 : Int), clampInt p.d2 0 (pe.d2 - 1 : Int), clampInt p.d3 0 (pe.d3 - 1 : Int)⟩
  let s : V4 Int := ⟨(q.d0 : Int) - pad.lo.d0, (q.d1 : Int) - pad.lo.d1, (q.d2 : Int) - pad.lo.d2, (q.d3 : Int) - pad.lo.d3⟩
  let isPad := (List.range 4).any fun d => decide (s.at d < 0) || decide (s.at d ≥ (e.at d : Int))
  { isPad := isPad
    const := isPad && !pad.edge
    at_ := ⟨clampInt s.d0 clo.d0 chi.d0, clampInt s.d1 clo.d1 chi.d1, clampInt s.d2 clo.d2 chi.d2, clampInt s.d3 clo.d3 chi.d3⟩ }

/-- An index lies inside the window 0 to E - 1 in every dimension (R62). -/
def inWindow (e : V4 Nat) (u : V4 Int) : Bool :=
  (List.range 4).all fun d => decide (0 ≤ u.at d) && decide (u.at d < (e.at d : Int))

/-- A non-negative index as naturals. -/
def V4.toNats (u : V4 Int) : V4 Nat := u.map Int.toNat

/-! ### Pool and ports (R25, R30) -/

/-- The Plate of a pool offset, with P Plates (R25). -/
def plateOf (p a : Nat) : Nat := (a / 1024) % p

/-- The byte within the Plate of a pool offset (R25). -/
def plateByte (p a : Nat) : Nat := a / (1024 * p) * 1024 + a % 1024

/-- The memory port of a byte address, with N ports (R30). -/
def portOf (n a : Nat) : Nat := (a / 4096) % n

/-! ### Stipple entries (R71, R72) -/

/-- How a Stipple entry is treated (Table LAYOUT-9): null, a named block in range, or a block clamped / suppressed. -/
structure StippleBlock where
  null : Bool
  inRange : Bool
  c : V4 Nat
  deriving DecidableEq, Repr

/-- The block counts at a list level: tiles or super-tiles (R72). -/
def Desc.listCounts (d : Desc) (super : Bool) : V4 Nat :=
  if super then d.n else ⟨ceilDiv d.e.d0 d.fmt.td0, ceilDiv d.e.d1 16, d.e.d2, d.e.d3⟩

/-- Decode a Stipple entry against the counts of its level (Tables LAYOUT-8, LAYOUT-9): a field 0xFFFF is out of range (R72). -/
def stippleBlock (cnt : V4 Nat) (entry : Nat) : StippleBlock :=
  let c : V4 Nat := ⟨bits entry 15 0, bits entry 31 16, bits entry 47 32, bits entry 63 48⟩
  let ok := fun d => decide (c.at d < min (cnt.at d) 65535)
  let near := fun d => if ok d then c.at d else cnt.at d - 1
  { null := decide (entry = 0xFFFFFFFFFFFFFFFF)
    inRange := (List.range 4).all ok
    c := ⟨near 0, near 1, near 2, near 3⟩ }

/-- The position of a listed block in elements; D0 in cells (R88). -/
def Desc.listPos (d : Desc) (super : Bool) (c : V4 Nat) : V4 Int :=
  if super then ⟨c.d0 * d.stc, c.d1 * d.w1, c.d2, c.d3⟩ else ⟨c.d0, c.d1 * 16, c.d2, c.d3⟩

end Sys2Proof
end

