-- ==== Sys2Proof/Machine/Fyush.lean ====
section
/-! DEFINITION. Fyush instructions, their encodings (Tables FYUSH-1 to FYUSH-5), side state (R83, R85), the order of a
run (R99) and unit positions (R87, R88). -/
namespace Sys2Proof

/-- A condition on a Halyard, as `WAIT` and `PACE` with `SRC` 1 give it (Table FYUSH-5). -/
structure HalCond where
  gen : Bool
  rel : Bool
  cur : Nat
  hal : Nat
  value : Nat
  deriving DecidableEq, Repr

/-- A start source (Table FYUSH-8). -/
inductive Pace where
  | arm
  | halyard (c : HalCond)
  | trigger (t : Nat)
  | dreq (line burst : Nat)
  deriving DecidableEq, Repr

/-- A scale link (Table FYUSH-4). -/
structure Scale where
  use : Nat
  handle : Nat
  col : Bool
  width : Nat
  dither : Bool
  zsh : Nat
  rsh : Nat
  seed : Nat
  deriving DecidableEq, Repr

/-- A decoded Fyush instruction. Sides: false read, true write. -/
inductive FInsn where
  | base (side : Bool) (slot : Nat) (half : Bool) (handle : Nat) (oa ob boff : Int)
  | loop (side : Bool) (level dim count : Nat) (step : Int)
  | tile (side byte : Bool) (fmt u0 u1 blen : Nat)
  | xform (x : Xform)
  | padAmount (dim lo hi : Nat)
  | padMode (edge : Bool) (value : Nat)
  | clamp (dim lo hi : Nat)
  | stipple (side super : Bool) (handle len : Nat)
  | scale (s : Scale)
  | swap (side : Bool) (kind : Nat)
  | emit
  | drain
  | wait (c : HalCond)
  | post (ev : Bool) (line hal add : Nat)
  | pace (p : Pace)
  | deadline (ns : Nat)
  | phase (p : Nat)
  | repeat_ (count len : Nat)
  | endRun (park : Bool)
  deriving DecidableEq, Repr

/-- The bits `[hi:lo]` of a word are zero. -/
def zeroBits (w hi lo : Nat) : Bool := decide (bits w hi lo = 0)

/-- `some i` when the reserved bits and values are in order, `none` (a reserved encoding, R8) otherwise. -/
def keep (ok : Bool) (i : FInsn) : Option FInsn := if ok then some i else none

/-- The condition fields of a `PACE` with `SRC` 1 (Table FYUSH-5). -/
def paceCond (w : Nat) : HalCond := ⟨bitOn w 55, bitOn w 54, bits w 53 51, bits w 46 32, bits w 15 0⟩

/-- Decode one 64-bit instruction; none for a reserved opcode, a reserved value or a non-zero reserved field
(Tables FYUSH-1, FYUSH-3 to FYUSH-5; row 3 of Table FYUSH-2; R142, R143 for the fields of one `XFORM`). -/
def decodeInsn (w : Nat) : Option FInsn :=
  let side := bitOn w 57
  match bits w 63 58 with
  | 0x01 =>
    let half := bitOn w 52
    let h := bits w 51 40
    keep (zeroBits w 53 53 && (if half then decide (h = 0) else decide (h ≠ 0)))
      (.base side (bits w 56 54) half h (signed 20 (bits w 39 20)) (signed 20 (bits w 19 0)) (signed 40 (bits w 39 0)))
  | 0x02 => keep (zeroBits w 52 40 && decide (bits w 39 24 ≠ 0))
      (.loop side (bits w 56 55) (bits w 54 53) (bits w 39 24) (signed 24 (bits w 23 0)))
  | 0x03 =>
    let byte := bitOn w 56
    keep (zeroBits w 25 0 && (if byte then zeroBits w 55 50 else (Fmt.ofCode (bits w 55 50)).isSome && zeroBits w 37 26))
      (.tile side byte (bits w 55 50) (bits w 49 46 + 1) (bits w 45 38 + 1) (bits w 37 26 + 1))
  | 0x04 =>
    let x : Xform := ⟨bits w 57 55, bits w 54 53, bits w 52 52, bits w 51 48, bits w 47 46, bits w 44 38, bits w 37 30 + 1, bits w 29 22 + 1⟩
    keep (zeroBits w 45 45 && zeroBits w 21 0 && decide (x.mode ≤ 4)
        && (decide (x.shift = 0) || decide (x.mode = 1)) && (decide (x.bf = 1) || decide (x.mode = 2))
        && ((decide (x.wslot = 0) && decide (x.kch = 1)) || x.arith)) (.xform x)
  | 0x05 =>
    if bitOn w 57 then keep (zeroBits w 55 32) (.padMode (bitOn w 56) (bits w 31 0))
    else keep (zeroBits w 54 48 && zeroBits w 15 0) (.padAmount (bits w 56 55) (bits w 47 32) (bits w 31 16))
  | 0x06 => keep (zeroBits w 7 0) (.clamp (bits w 57 56) (bits w 55 32) (bits w 31 8))
  | 0x07 => keep (zeroBits w 43 40 && zeroBits w 23 0 && decide (bits w 55 44 ≠ 0))
      (.stipple side (bitOn w 56) (bits w 55 44) (bits w 39 24 + 1))
  | 0x08 =>
    let u := bits w 57 56
    let h := bits w 55 44
    keep (if u = 0 then decide (h = 0) else decide (h ≠ 0) && (decide (u ≠ 2) || decide (bits w 42 41 ≤ 1)))
      (.scale ⟨u, h, bitOn w 43, bits w 42 41, bitOn w 40, bits w 39 36, bits w 35 32, bits w 31 0⟩)
  | 0x09 => keep (zeroBits w 54 0) (.swap side (bits w 56 55))
  | 0x10 => keep (zeroBits w 57 0) .emit
  | 0x11 => keep (zeroBits w 57 0) .drain
  | 0x18 => keep (zeroBits w 52 47 && zeroBits w 31 16)
      (.wait ⟨bitOn w 57, bitOn w 56, bits w 55 53, bits w 46 32, bits w 15 0⟩)
  | 0x19 => keep (zeroBits w 50 47 && zeroBits w 31 16) (.post (bitOn w 57) (bits w 56 51) (bits w 46 32) (bits w 15 0))
  | 0x1A =>
    match bits w 57 56 with
    | 0 => keep (zeroBits w 55 0) (.pace .arm)
    | 1 => keep (zeroBits w 50 47 && zeroBits w 31 16) (.pace (.halyard (paceCond w)))
    | 2 => keep (zeroBits w 55 37 && zeroBits w 31 0) (.pace (.trigger (bits w 36 32)))
    | _ => keep (zeroBits w 55 37 && zeroBits w 31 6) (.pace (.dreq (bits w 36 32) (bits w 5 0 + 1)))
  | 0x1B => keep (zeroBits w 57 32) (.deadline (bits w 31 0))
  | 0x1C => keep (zeroBits w 57 6) (.phase (bits w 5 0))
  | 0x20 => keep (zeroBits w 57 26 && decide (bits w 25 10 ≠ 0) && decide (bits w 9 0 ≠ 0)) (.repeat_ (bits w 25 10) (bits w 9 0))
  | 0x3F => keep (zeroBits w 56 0) (.endRun (bitOn w 57))
  | _ => none

/-! ### Side state (R83, R85, Table FYUSH-7) -/

/-- The unit of a side (`TILE`): byte mode, format code, width in cells, height, length in bytes. -/
structure Tile where
  byte : Bool
  fmt : Nat
  u0 : Nat
  u1 : Nat
  blen : Nat
  deriving DecidableEq, Repr

/-- An attached Stipple list. -/
structure Stipple where
  super : Bool
  handle : Nat
  len : Nat
  deriving DecidableEq, Repr

/-- The state of one side (R85). A handle of 0 stands for none. Loop levels: L0, L1, L2, T. -/
structure Side where
  slot : Nat
  handle : Nat
  org : V4 Int
  boff : Int
  tile : Option Tile
  cnt : V4 Nat
  st : V4 (V4 Int)
  tix : Nat
  swap : Nat
  list : Option Stipple
  deriving DecidableEq, Repr

/-- A side at the start of a run (Table FYUSH-7). -/
def Side.start : Side := ⟨0, 0, .all 0, 0, none, .all 1, .all (.all 0), 0, 0, none⟩

/-- The state of a run (R85): both sides and the stream-wide state. A clamp of `none` is the default 0 to E_d - 1. -/
structure RunState where
  rd : Side
  wr : Side
  x : Xform
  pad : Pad
  clamp : V4 (Option (Nat × Nat))
  scale : Option Scale
  pace : Pace
  deadline : Nat
  phase : Nat
  deriving DecidableEq, Repr

/-- The state at the start of every run (Table FYUSH-7). -/
def RunState.start : RunState := ⟨Side.start, Side.start, Xform.start, Pad.start, .all none, none, .arm, 0, 0⟩

/-- The side a side bit names. -/
def RunState.side (r : RunState) (w : Bool) : Side := if w then r.wr else r.rd

/-- Replace one side. -/
def RunState.setSide (r : RunState) (w : Bool) (s : Side) : RunState := if w then { r with wr := s } else { r with rd := s }

/-- `BASE` (Table FYUSH-3): `HALF` = 0 sets handle and D0/D1 origin and clears the D2/D3 origin; `HALF` = 1 sets the D2/D3 origin. -/
def Side.base (s : Side) (slot : Nat) (half : Bool) (handle : Nat) (oa ob boff : Int) : Side :=
  if half then { s with org := { s.org with d2 := oa, d3 := ob } }
  else { s with slot := slot, handle := handle, org := ⟨oa, ob, 0, 0⟩, boff := boff }

/-- `LOOP` (R83): a changed count clears the level's other steps and, at level T, the transfer index. -/
def Side.loop (s : Side) (level dim count : Nat) (step : Int) : Side :=
  let old := s.cnt.at level
  let steps := if count = old then s.st.at level else V4.all 0
  { s with
    cnt := s.cnt.put level count
    st := s.st.put level (steps.put dim step)
    tix := if level = 3 ∧ count ≠ old then 0 else s.tix }

/-- What an instruction changes in the run state (R82, R83, R85). -/
def RunState.apply (r : RunState) : FInsn → RunState
  | .base w slot half h oa ob boff => r.setSide w ((r.side w).base slot half h oa ob boff)
  | .loop w l d c st => r.setSide w ((r.side w).loop l d c st)
  | .tile w byte fmt u0 u1 blen => r.setSide w { r.side w with tile := some ⟨byte, fmt, u0, u1, blen⟩ }
  | .xform x => { r with x := x }
  | .padAmount d lo hi => { r with pad := { r.pad with lo := r.pad.lo.put d lo, hi := r.pad.hi.put d hi } }
  | .padMode e v => { r with pad := { r.pad with edge := e, value := v } }
  | .clamp d lo hi => { r with clamp := r.clamp.put d (some (lo, hi)) }
  | .stipple w super h len => r.setSide w { r.side w with list := some ⟨super, h, len⟩ }
  | .scale s => { r with scale := if s.use = 0 then none else some s }
  | .swap w k => r.setSide w { r.side w with swap := k }
  | .pace p => { r with pace := p }
  | .deadline ns => { r with deadline := ns }
  | .phase p => { r with phase := p }
  | _ => r

/-- The clamp bounds in force against source extents `e` (R61, R85). -/
def RunState.clampLo (r : RunState) : V4 Nat := r.clamp.map fun c => match c with | some (lo, _) => lo | none => 0
/-- The upper clamp bounds in force. -/
def RunState.clampHi (r : RunState) (e : V4 Nat) : V4 Nat := r.clamp.zip (fun c x => match c with | some (_, hi) => hi | none => x - 1) e

/-- A transfer is read-driven (R86). -/
def RunState.readDriven (r : RunState) : Bool :=
  r.x.arith || r.rd.list.isSome || r.wr.list.isSome || (match r.rd.tile with | some t => t.byte | none => false)

/-- The sides are in byte mode. -/
def RunState.byteMode (r : RunState) : Bool := match r.wr.tile with | some t => t.byte | none => false

/-- Units of a side, cnt0 x cnt1 x cnt2 (R91). -/
def Side.units (s : Side) : Nat := s.cnt.d0 * s.cnt.d1 * s.cnt.d2

/-- The loop indices of unit `n` of a side, j0 fastest (R87). -/
def Side.indices (s : Side) (n : Nat) : Nat × Nat × Nat := (n % s.cnt.d0, n / s.cnt.d0 % s.cnt.d1, n / s.cnt.d0 / s.cnt.d1)

/-- The position of unit `n` from the loop nest (R87): D0 in cells, the rest in elements. -/
def Side.nestPos (s : Side) (n : Nat) : V4 Int :=
  let (j0, j1, j2) := s.indices n
  let at1 := fun d : Nat => s.org.at d + s.tix * (s.st.d3).at d + j0 * (s.st.d0).at d + j1 * (s.st.d1).at d + j2 * (s.st.d2).at d
  ⟨at1 0, at1 1, at1 2, at1 3⟩

/-- The origin of a side with its transfer step, in elements (R89): D0 in cells times TD0. -/
def Side.origin (s : Side) (td0 : Nat) : V4 Int :=
  let o := fun d : Nat => s.org.at d + s.tix * (s.st.d3).at d
  ⟨o 0 * td0, o 1, o 2, o 3⟩

/-- The byte-mode address of unit `n` (R92). -/
def Side.byteAddr (s : Side) (b0 n : Nat) : Int :=
  let (j0, j1, j2) := s.indices n
  b0 + s.boff + j0 * s.st.d0.d0 + j1 * s.st.d1.d0 + j2 * s.st.d2.d0 + s.tix * s.st.d3.d0

/-- After a transfer the transfer index advances modulo the T count (R87). -/
def Side.nextTransfer (s : Side) : Side := { s with tix := (s.tix + 1) % s.cnt.d3 }

/-! ### The order of a run (R99) -/

/-- An open `REPEAT` body: first instruction, the index after its last, passes left with the one in hand. -/
structure Rep where
  first : Nat
  stop : Nat
  left : Nat
  deriving DecidableEq, Repr

/-- Where the run goes after index `pc` has been reached: back to the body's start, or out of finished bodies. [Log 46 DEDUCED] -/
def settle (pc : Nat) : List Rep → Nat × List Rep
  | [] => (pc, [])
  | r :: rs => if r.stop ≠ pc then (pc, r :: rs) else if r.left > 1 then (r.first, { r with left := r.left - 1 } :: rs) else settle pc rs

/-- The program counter and open bodies after performing instruction `i` at `pc` (R99). -/
def advance (i : FInsn) (pc : Nat) (rs : List Rep) : Nat × List Rep :=
  match i with
  | .repeat_ c l => (pc + 1, ⟨pc + 1, pc + 1 + l, c⟩ :: rs)
  | _ => settle (pc + 1) rs

/-- Who performs an instruction (Table FYUSH-1): the fetch engine. -/
def FInsn.fetches : FInsn → Bool
  | .drain | .post _ _ _ _ | .deadline _ => false
  | .swap w _ => !w
  | _ => true

/-- Who performs an instruction (Table FYUSH-1): the execute engine, from the lane's queue. -/
def FInsn.executes : FInsn → Bool
  | .drain | .post _ _ _ _ | .deadline _ | .phase _ | .xform _ | .scale _ | .endRun _ => true
  | .swap w _ => w
  | _ => false

/-- The states that hold at the EMITs of a run, in run order (R81, R85); `fuel` bounds the instructions performed. [Log 48 DEDUCED] -/
def emitsOf (code : List FInsn) : Nat → Nat → List Rep → RunState → List RunState
  | 0, _, _, _ => []
  | fuel + 1, pc, rs, st =>
    match code[pc]? with
    | none => []
    | some (.endRun _) => []
    | some i =>
      let (pc', rs') := advance i pc rs
      match i with
      | .emit => st :: emitsOf code fuel pc' rs' { st with rd := st.rd.nextTransfer, wr := st.wr.nextTransfer }
      | _ => emitsOf code fuel pc' rs' (st.apply i)

/-- More instructions than any run performs: four nested bodies of at most 65,535 passes (R77, R99). -/
def runBound : Nat := 8192 * 65536 ^ 4

/-- Every EMIT of a run with the state that holds there. -/
def runEmits (code : List FInsn) : List RunState := emitsOf code runBound 0 [] RunState.start

/-- The decoded instructions of an image; none when some word is a reserved encoding. -/
def decodeAll : List Insn → Option (List FInsn)
  | [] => some []
  | w :: ws => match decodeInsn w.toNat, decodeAll ws with
    | some i, some is => some (i :: is)
    | _, _ => none

/-- The REPEAT bodies of an image are nested: none passes its enclosing body or END, and at most 4 are open (Table FYUSH-2). -/
def bodiesOk (last : Nat) : List FInsn → Nat → List Nat → Bool
  | [], _, _ => true
  | i :: is, pc, stops =>
    let open_ := stops.filter fun s => decide (s > pc)
    match i with
    | .repeat_ _ l =>
      let s := pc + 1 + l
      decide (s ≤ last) && (open_.all fun t => decide (s ≤ t)) && decide (open_.length < 4) && bodiesOk last is (pc + 1) (s :: open_)
    | _ => bodiesOk last is (pc + 1) open_

/-- The indices after the last instruction of every REPEAT body. -/
def bodyStops : List FInsn → Nat → List Nat
  | [], _ => []
  | .repeat_ _ l :: is, pc => (pc + 1 + l) :: bodyStops is (pc + 1)
  | _ :: is, pc => bodyStops is (pc + 1)

/-- Every EMIT is followed directly by a DRAIN in the same bodies, and every DRAIN preceded by an EMIT (Table FYUSH-2). -/
def emitDrainOk (code : List FInsn) : Bool :=
  (List.range code.length).all fun pc =>
    match code[pc]? with
    | some .emit => decide (code[pc + 1]? = some .drain) && !(bodyStops code 0).contains (pc + 1)
    | some .drain => decide (pc ≠ 0) && decide (code[pc - 1]? = some .emit)
    | _ => true

end Sys2Proof
end

