-- ==== Sys2Proof/Machine/Parts.lean ====
section
/-! DEFINITION. The parts of the block's state: plain data, one structure for each unit. `State` (Machine/State.lean)
joins them and gives their values at reset. -/
namespace Sys2Proof.Machine

/-! ### Build, fuses and pins -/

/-- The three configurations (R4). [Log 1 DESIGN CHOICE] -/
inductive Cfg where
  | l2 | l4 | l8
  deriving DecidableEq, Repr

/-- The build options (Table PORTS-16, R402): configuration, read/write sideband options, reference clock code and the
JTAG manufacturer identity. [Logs 1, 4 DESIGN CHOICE] -/
structure Build where
  cfg : Cfg
  sideband : BitVec 4
  refclk : BitVec 2
  mfrId : BitVec 11
  deriving DecidableEq, Repr

/-- The fuses (R22): disabled physical lanes, leakage (W), wear references in ps at 25 and 105 degrees for each monitor
and point (key 8 * monitor + point), energy coefficients and the hash of the firmware key. [Log 4 DESIGN CHOICE] -/
structure Otp where
  laneDisable : BitVec 10
  leak7 : Rat
  wearRef : Tbl (Nat × Nat)
  coef : List Rat
  keyHash : Nat
  deriving DecidableEq, Repr

/-- The pins the block keeps the level of, input and output (Tables PORTS-3, PORTS-10, PORTS-12, PORTS-13). [Log 3 DESIGN CHOICE] -/
structure Pins where
  rstN : Bool
  isoEn : Bool
  testMode : Bool
  dreq : BitVec 32
  dack : BitVec 32
  capIn : BitVec 8
  evIn : BitVec 64
  vrAlertN : Bool
  plLinkUp : Bool
  quiesced : Bool
  evOut : BitVec 64
  trigOut : BitVec 16
  deriving DecidableEq, Repr

/-- Whether the rail is off, on with the state undefined, or on after a domain reset (R353). -/
inductive Power where
  | off | undefined | up
  deriving DecidableEq, Repr

/-- The life of the block: the rail, the start (R354), the halt of the Tecon core after a DETACH (R365), and the test-mode
strap as sampled at reset (R348). -/
structure Life where
  power : Power
  started : Bool
  halted : Bool
  testSampled : Bool
  deriving DecidableEq, Repr

/-! ### Halyards (08) -/

/-- One Halyard with its attributes (R215, Table SYNC-1). -/
structure HalWord where
  count : BitVec 16
  gen : BitVec 16
  barrier : Bool
  target : BitVec 16
  relay : Bool
  peer : BitVec 15
  deriving DecidableEq, Repr

/-- A Halyard after a domain reset (R215). -/
def HalWord.zero : HalWord := ⟨0, 0, false, 0, false, 0⟩

/-- The Halyard unit: words, `EV_IN` bindings by line, unusable Halyards, bits in error by Halyard, the event-in and event-out crossings
(Table ARCH-6), the streams' writes that a reader of a Halyard knows to be complete (R34, R67), Pennants discarded (R334). [Logs 10, 29 DESIGN CHOICE; log 82 DEDUCED] -/
structure Hal where
  words : Tbl HalWord
  evBind : Tbl Nat
  unusable : Tbl Bool
  upset : Tbl Nat
  evInQ : List Nat
  evOutQ : List (BitVec 6)
  knows : Tbl (Tbl Nat)
  discarded : Nat
  deriving DecidableEq, Repr

/-! ### Fault collector (12) -/

/-- A Burgee (Table FAULT-1) without its severity, which the kind gives. -/
structure Burgee where
  cls : Nat
  inst : Nat
  kind : Nat
  addr : Nat
  deriving DecidableEq, Repr

/-- An entry of the history (R328): the Burgee word and the time. -/
structure HistEntry where
  word : BitVec 64
  time : BitVec 64
  deriving DecidableEq, Repr

/-- A recovery in progress (R336, R342, R343, R345): a lane check, a warm restart after a Burgee of a kind, or a substitution on sensor
loss. -/
inductive Recovery where
  | laneCheck (phys : Nat)
  | warmRestart (kind : Nat)
  | subst (phys : Nat)
  deriving DecidableEq, Repr

/-- The fault collector (Tables FAULT-10, FAULT-11, FAULT-14, FAULT-15), with the crossings that bring it Burgees and what their sources hold
(Table ARCH-6), by the number of the domain, the checkpoint that firmware writes next (R341), and the
Burgees whose firmware action waits for a warm restart to end (R350). [Log 29 DESIGN CHOICE; log 69 DEDUCED] -/
structure Flt where
  safe : Bool
  fatal : Bool
  selfF : Bool
  copiesDiffer : Bool
  recov : List Recovery
  inj : Bool
  auto : Bool
  hold : Bool
  pulse : Bool
  seq : BitVec 32
  hist : Tbl HistEntry
  ce : BitVec 32
  de : BitVec 32
  ue : BitVec 32
  first : BitVec 64
  failed : BitVec 10
  downNs : Nat
  cross : Tbl (List Burgee)
  held : Tbl (List Burgee)
  clkFlag : BitVec 5
  causes : List Burgee
  recent : Tbl Nat
  laneTimes : Tbl (List Nat)
  injSel : BitVec 32
  injArg : BitVec 32
  unlock : Nat
  checkpoint : Nat
  todo : List Burgee
  deriving DecidableEq, Repr

/-! ### Control port and mailboxes (09) -/

/-- A reply with its place in the words not yet decided: token, code, status and payload. -/
structure Reply where
  token : BitVec 16
  code : BitVec 16
  status : Nat
  payload : List Word
  deriving DecidableEq, Repr

/-- What the command in hand waits for (R248). [Log 16 DESIGN CHOICE] -/
inductive Waiting where
  | pause (sctx : Nat)
  | abandon (sctx : Nat)
  | detach
  | linkUp
  | linkDown
  deriving DecidableEq, Repr

/-- The command that firmware has accepted and not yet replied to (R247, R252): waiting, or its reply not yet placed. [Log 16 DESIGN CHOICE] -/
inductive Hand where
  | waiting (token code : BitVec 16) (w : Waiting)
  | reply (r : Reply)
  deriving DecidableEq, Repr

/-- The asynchronous kinds (Table CTRL-22). -/
inductive AsyncKind where
  | page | fault | wideRerun | deadline | linkState
  deriving DecidableEq, Repr

/-- A queued asynchronous reply (R263). -/
structure Async where
  kind : AsyncKind
  payload : List Word
  deriving DecidableEq, Repr

/-- A FAULT reply not yet numbered (Table CTRL-23): cause, lane, reason, response, P2, P3 and the listed streams. [Log 17 DEDUCED] -/
structure FaultMsg where
  cause : Nat
  lane : Nat
  reason : Nat
  resp : Nat
  p2 : Nat
  p3 : Nat
  streams : List (Nat × Nat × Bool)
  deriving DecidableEq, Repr

/-- The control port's mailboxes (word w of mailbox n under key 16 n + w) and firmware's message state (Tables CTRL-7 to CTRL-9, R247, R258, R263), with
the message accepted last (R340). -/
structure Ctl where
  cmd : Tbl Word
  rpl : Tbl Word
  cmdOwn : BitVec 8
  rplFull : BitVec 8
  rplEn : BitVec 8
  dropped : BitVec 8
  fwReady : Bool
  submitted : List Nat
  hand : Option Hand
  async : List Async
  fseq : BitVec 16
  unacked : List (BitVec 16)
  faultWait : List FaultMsg
  pause : BitVec 8
  mail : List Word
  deriving DecidableEq, Repr

/-! ### Firmware objects -/

/-- A live tensor handle: its descriptor and, for a split tensor, the owner-table copy (R58) and the Plate space it is held in. -/
structure Tensor where
  d : Desc
  owner : List Byte
  heldAt : Option (Nat × Nat)
  deriving DecidableEq, Repr

/-- A member of a Bunting (R235, R237). -/
structure Member where
  handle : Nat
  credit : Nat
  depth : Nat
  v : Nat
  j : Nat
  evicted : Bool
  deriving DecidableEq, Repr

/-- A Bunting (R235): its skew bound in ns, its members, and its transfer count. -/
structure Bunting where
  skew : Nat
  members : List Member
  xfers : Nat
  deriving DecidableEq, Repr

/-- A program of a lane's store (R77, R78): its words, first cell of its area, image address, whether it makes a
stream remote-end (R283), and its cells that fail their check value. -/
structure Prog where
  code : List Insn
  area : Nat
  img : Nat
  remote : Bool
  bad : List Nat
  deriving DecidableEq, Repr

/-- A loaded model (R151): format code, blocks, weight store handle and first block. -/
structure Model where
  fmt : Nat
  nb : Nat
  handle : Nat
  first : Nat
  deriving DecidableEq, Repr

/-- A weight-slot binding of a stream (R152): unbound, a fixed model, or a model table with the entries read. -/
inductive WBind where
  | unbound
  | fixed (mid : Nat)
  | table (handle : Nat) (entries : List Nat)
  deriving DecidableEq, Repr

/-- Why a stream is Held (Table CTRL-19). -/
inductive HeldBy where
  | error | page | proof | skew | size | noMember | peer | safe | lane
  deriving DecidableEq, Repr

/-- The state of a stream context (Table CTRL-19). -/
inductive SState where
  | bound | queued | active | parked | held
  deriving DecidableEq, Repr

/-- An instruction in the queue from the fetch to the execute engine (R108); a DRAIN names its transfer. -/
structure QInsn where
  i : FInsn
  pc : Nat
  xfer : Nat
  deriving DecidableEq, Repr

/-- The data of an input cell: asked for, in with its check value (R36), answered other than `OK`, or of a coded block that failed a check of
Table DICT-4, with the reason and the address of the block's header. -/
inductive Cell where
  | waiting
  | data (bytes : List Byte) (chk : Nat)
  | bad (r : Resp)
  | fail (reason header : Nat)
  deriving DecidableEq, Repr

/-- A consumer's scale cursor (R188): block, slot, and the index of the block's first row. -/
structure Cursor where
  blk : Nat
  slot : Nat
  row : Nat
  deriving DecidableEq, Repr

/-- What is saved of a stream's position when an `EMIT` begins (R110, Table FYUSH-9). [Log 41 DEDUCED] -/
structure Snapshot where
  pc : Nat
  reps : List Rep
  rs : RunState
  cursors : List (BitVec 16)
  pending : List Nat
  wide : Bool
  scaleSlot : Nat
  scaleBlock : Nat
  scaleRow : Nat
  prodBlock : Nat
  units : Nat
  deriving DecidableEq, Repr

/-- A transfer from its `EMIT` until its last write has completed (R84, R110): its number within the stream, the state that
holds at the `EMIT`, the position to restore and the trigger firings since, its start time, whether it has missed its deadline;
the read side (next unit, burst cells left, input cells and list and header cells by place); the write side (next unit, next
cell and next row of it, next chunk and the accumulators so far, a split member's partial accumulators by unit); the kind and the vector of a Proof-stage
failure whose tile is being written (R167); the cells that failed reads kept from
issue; writes not yet complete, the first response other than `OK`; the narrow rows counted and the scale block under construction; and, of a Bunting, the grant and the
members that take part, once the transfer is ready. [Log 40 DESIGN CHOICE] -/
structure Transfer where
  id : Nat
  tl : Option (List Word)
  rs : RunState
  snap : Snapshot
  fired : List Nat
  start : Nat
  missed : Bool
  unit0 : Nat
  rdNext : Nat
  rdDone : Bool
  burst : Nat
  cells : Tbl Cell
  lists : Tbl Cell
  wrNext : Nat
  wrCell : Nat
  rowNext : Nat
  chunk : Nat
  acc : List (List Val)
  partials : Tbl (List (List Val))
  failed : Option (Nat × Nat)
  wrBegun : Bool
  wrIssued : Bool
  lost : Nat
  outstanding : Nat
  err : Option Resp
  inPlace : Bool
  nr : Nat
  nf : Nat
  codes : List Nat
  codeRow : Nat
  granted : Bool
  party : Option (List Nat)
  skewFrom : Option Nat
  deriving DecidableEq, Repr

/-- A phase occurrence of a stream that has begun (R302): phase, first transfer, the ACLK cycle of its first `EMIT` and that of its last `DRAIN`
so far, and its activity counts. -/
structure OpenOcc where
  phase : Nat
  first : Nat
  start : Rat
  last : Option Rat
  counts : List Nat
  deriving DecidableEq, Repr

/-- A transfer that was begun and is held after an error, until it runs again (R138): its number, start time, deadline, and whether it has
raised its miss. [Log 55 DEDUCED] -/
structure Undone where
  id : Nat
  start : Nat
  deadline : Nat
  missed : Bool
  deriving DecidableEq, Repr

/-- A bound stream context (R257, Tables CTRL-16, CTRL-19, CTRL-21, FYUSH-9), with the message that last set it going (R340); `owed` says that its record is due (R262), `bufs` names what each
input buffer in use holds (transfer and part, R111), `fetchCur` is the fetch engine's scale cursor, `tlDone` a TL-64
descriptor whose writes are issued, `uid` its own number among all streams bound, and `knows` the streams' Plate writes that Halyards order before it (R67). [Log 10 DESIGN CHOICE] -/
structure Stream where
  first : Nat
  g : Nat
  idx : Nat
  lane : Nat
  rt : Bool
  quantum : Nat
  depth : Nat
  pid : Nat
  tl : Option (Nat × List (List Word))
  recAddr : Nat
  st : SState
  heldBy : List HeldBy
  inError : Bool
  denied : Bool
  paused : Bool
  armed : Bool
  fpc : Nat
  reps : List Rep
  rs : RunState
  xrs : RunState
  emitting : Bool
  fetchEnd : Bool
  xq : List QInsn
  xfers : List Transfer
  nextXfer : Nat
  cursors : List (BitVec 16)
  pending : List Nat
  epoch : BitVec 8
  wide : Bool
  scaleSlot : Nat
  scaleBlock : Nat
  scaleRow : Nat
  fetchCur : Cursor
  bufs : List (Nat × Nat)
  prodBlock : Nat
  subst : Tbl Nat
  remote : Bool
  wbind : List WBind
  relay : BitVec 4
  tblHeld : Tbl (Nat × Nat)
  reserve : List Nat
  units : Nat
  regrant : Nat
  undone : List Undone
  tlNext : Nat
  tlDone : Option (List Word)
  stats : Tbl Nat
  statsSent : Tbl Nat
  missUnsent : Nat
  missReplied : Option Nat
  energy : Rat
  occs : List OpenOcc
  uid : Nat
  knows : Tbl Nat
  boundAt : Nat
  savedPos : List Nat
  owed : Bool
  mail : List Word
  deriving DecidableEq, Repr

/-- Everything firmware keeps about the host's objects (02, 03, 05, 07, 08, 09). [Log 9 DESIGN CHOICE] -/
structure Fw where
  attached : Bool
  root : Nat
  compat : BitVec 8
  reg : Tbl (Nat × Nat)
  tensors : Tbl Tensor
  buntings : Tbl Bunting
  programs : Tbl Prog
  streams : Tbl Stream
  models : Tbl Model
  books : Tbl (Nat × List Byte)
  held : List (Nat × Nat)
  admitQ : List Nat
  runlist : Tbl (List Nat)
  laneMap : Tbl Nat
  spares : List Nat
  outOfService : Tbl Bool
  deriving DecidableEq, Repr

/-! ### Lanes (04, 05) -/

/-- A descriptor in a lane's queue (R107, R340, R409): stream, whether the lane has begun it, whether its quantum has expired, whether it
has ended, the number of the first transfer that is no longer its own; the mailbox words it was built from with the message's CRC, and the
two copies of the fields that firmware derives. -/
structure DescEntry where
  sctx : Nat
  begun : Bool
  expired : Bool
  ended : Bool
  upTo : Nat
  mail : List Word
  crc : Nat
  derived : List Nat
  copy : List Nat
  deriving DecidableEq, Repr

/-- A page fault found by a lane (R133). -/
structure PageFault where
  sctx : Nat
  addr : Nat
  write : Bool
  reason : Nat
  deriving DecidableEq, Repr

/-- Why a lane stops (R118, R127, R133, R334, R189, R208, R239, R283, R343). -/
inductive Stop where
  | hostPause
  | fwPause
  | error
  | page (f : PageFault)
  | halt (by_ : HeldBy)
  | safe
  | subst
  deriving DecidableEq, Repr

/-- A page-table walk in progress (R131): the access it serves, its level, the address of the entry it reads, and whether
an invalidation (R132) has made it stale. -/
structure Walk where
  sctx : Nat
  xfer : Nat
  va : Nat
  write : Bool
  level : Nat
  addr : Nat
  stale : Bool
  deriving DecidableEq, Repr

/-- An entry of the translation cache (R132): virtual page, physical page, permissions. -/
structure XlatEntry where
  vpage : Nat
  ppage : Nat
  r : Bool
  w : Bool
  deriving DecidableEq, Repr

/-- The block of weights a slot or the shadow buffer holds (R149, R154): model and block, with the weight cells and
checksum column. -/
structure WBlock where
  mid : Nat
  blk : Nat
  bytes : List Byte
  deriving DecidableEq, Repr

/-- A lane report (Table ARCH-6, R118, R133, R184): why the lane holds, with the held streams, the first response code, the reason
and the address of a `FAULT` reply; or a transfer to run again wide. -/
inductive LaneReport where
  | held (by_ : Stop) (streams : List (Nat × Nat × Bool)) (resp : Nat) (reason : Nat) (addr : Nat)
  | wideRerun (sctx xfer : Nat)
  deriving DecidableEq, Repr

/-- A physical lane with its Burin. `beats` keeps the write-beat counter of the head transfer (R115) while the lane holds; `used` says
that it has taken a descriptor since the domain reset; `haltAddr` is the header of the coded block that halted it (R208); `skip` names the write (stream, transfer, address) whose page-table walk failed. [Logs 29, 40 DESIGN CHOICE; logs 38, 56 DEDUCED] -/
structure Lane where
  queue : List DescEntry
  report : List LaneReport
  stops : List Stop
  reported : List Stop
  draining : Bool
  holding : Bool
  xst : Nat
  beats : Nat
  used : Bool
  xlat : List XlatEntry
  walk : Option Walk
  skip : Option (Nat × Nat × Nat)
  slots : Tbl WBlock
  shadow : Option (Nat × WBlock)
  loading : Option (Nat × Nat × Nat)
  level : Nat
  flawProduct : Bool
  flawDrain : Bool
  reason : Nat
  resp : Nat
  errAddr : Nat
  haltAddr : Nat
  deriving DecidableEq, Repr

/-! ### Ports and Plates (01, 07, 14) -/

/-- Who issued a port request: an input cell, a list cell or a coded block's header or body of a lane's transfer (with the key of
the first cell; `sel` 1 names the scale tensor), a page-table walk, a lane's write, a `READ` frame of the peer (with the address, the index and the number of
the cells), or a frame's write. -/
inductive Owner where
  | cell (phys sctx xfer key n : Nat)
  | list (phys sctx xfer key n : Nat)
  | head (phys sctx xfer key : Nat)
  | body (phys sctx xfer sel st blk : Nat)
  | walk (phys : Nat)
  | store (phys sctx xfer : Nat)
  | rxRead (uid addr idx n : Nat)
  | rxWrite (uid : Nat)
  deriving DecidableEq, Repr

/-- A read of one requester as it enters a port (R105, R109): owner, first byte and bytes asked for. -/
structure ReadPart where
  owner : Owner
  addr : Nat
  n : Nat
  deriving DecidableEq, Repr

/-- An outstanding read request (R377, R378): its parts in ascending address, merged by R105; the beats in and their response; the time at
which its first part entered the queue, and whether the engine run in hand made it. -/
structure ReadReq where
  parts : List ReadPart
  got : List (List Byte)
  resp : Resp
  since : Nat
  fresh : Bool
  deriving DecidableEq, Repr

/-- The write of one cell as it enters a port (R381, R382): owner, cell address, the 64 bytes as driven, byte enables, poison mark, and
the cell's check value. -/
structure WCell where
  owner : Owner
  addr : Nat
  data : List Byte
  be : BitVec 64
  poison : Bool
  chk : Nat
  deriving DecidableEq, Repr

/-- An outstanding write request: its cells in ascending address, merged by R105, with the time and the mark of a read request. -/
structure WriteReq where
  cells : List WCell
  since : Nat
  fresh : Bool
  deriving DecidableEq, Repr

/-- A read tag that is held though its request has ended (R378, R384): the index of the last beat, the request's address, and whether its
timer has expired. -/
structure LateRead where
  last : Nat
  addr : Nat
  timedOut : Bool
  deriving DecidableEq, Repr

/-- A coded block whose body read has been issued, in the expander's order (R206, R210): its super-tile and block, and its stored body once it is in. -/
structure ExpandJob where
  phys : Nat
  sctx : Nat
  xfer : Nat
  sel : Nat
  st : Nat
  blk : Nat
  body : Option (List Byte)
  deriving DecidableEq, Repr

/-- A block that the compressor holds assembled (R202, R203): its codebook, the physical addresses of the block and of its
header, the raw bytes, and whether the block is marked `POISON` (R167). [Log 40 DESIGN CHOICE] -/
structure CompressJob where
  phys : Nat
  sctx : Nat
  xfer : Nat
  book : Nat
  body : Nat
  head : Nat
  raw : List Byte
  poison : Bool
  deriving DecidableEq, Repr

/-- A memory port with its expander and compressor: outstanding requests by tag, requests that wait in its crossings for a tag (R385), tags held
by requests that have ended, the count of timeouts, the expander's and the compressor's queues, an injected flaw. -/
structure Port where
  reads : Tbl ReadReq
  writes : Tbl WriteReq
  waitR : List ReadPart
  waitW : List WCell
  lateR : Tbl LateRead
  lateW : Tbl Bool
  tmo : BitVec 16
  expand : List ExpandJob
  compress : List CompressJob
  flawIn : Bool
  deriving DecidableEq, Repr

/-- The Plate pool (R25, R36, R331): bytes, the check value stored with each written cell, poisoned 64-bit words (by word index), bits in error by word, scrub
pointers; the model's own count of streams' writes, and by byte which streams last wrote it and when (R67). [Log 5 DESIGN CHOICE] -/
structure Plate where
  bytes : Tbl Byte
  chk : Tbl Nat
  poison : Tbl Bool
  upset : Tbl Nat
  scrub : Tbl Nat
  clock : Nat
  writers : Tbl (Tbl Nat)
  deriving DecidableEq, Repr

/-! ### Peer link (10) -/

/-- Who is told when a sequenced frame completes (R274). -/
structure FrameOwner where
  phys : Nat
  sctx : Nat
  xfer : Nat
  n : Nat
  deriving DecidableEq, Repr

/-- A sequenced frame to send or held in the retry buffer: type, tag, bytes 16 to 47 of its header, payload, poison, and the transfers
whose cells it carries. -/
structure TxFrame where
  type : Nat
  tag : Nat
  spec : List Byte
  payload : List Byte
  poison : Bool
  owners : List FrameOwner
  deriving DecidableEq, Repr

/-- The `WRITE` frame the framer holds open (R278). A frame is poisoned as a whole (Table LINK-2). -/
structure OpenWrite where
  phys : Nat
  tag : Nat
  sti : Nat
  first : Nat
  cells : List (List Byte)
  fbe : BitVec 64
  lbe : BitVec 64
  poison : Bool
  owners : List FrameOwner
  deriving DecidableEq, Repr

/-- A transport frame that waits for the MAC-side output (R269): a `TRAIN` frame by its `OP`, or a sequenced frame by its number, sent for the
first time or again. An `ACK` waits in a queue of its own. -/
inductive TxItem where
  | train (op : Nat)
  | seq (n : Nat) (again : Bool)
  deriving DecidableEq, Repr

/-- The frame in transmission on the MAC side: its bytes, whether it is a transport frame, and the number of a sequenced one. -/
structure Sending where
  bytes : List Byte
  transport : Bool
  seq : Option Nat
  deriving DecidableEq, Repr

/-- A frame in a pass-through queue (R268, R289): its bytes, the stamp Ti in units of 2^-16 ns, and whether the time-stamp unit was locked
then. [Log 20 DESIGN CHOICE] -/
structure PassFrame where
  bytes : List Byte
  ti : Nat
  locked : Bool
  deriving DecidableEq, Repr

/-- An accepted frame of the peer that `CMP` does not cover yet (R272): session and sequence number as one key, type, port requests
outstanding and cells still to issue (address, data, enables; index, address, count), the first failure code, the number of the `STATUS`
frame sent for it, and whether it has been served; of a `READ` its identifier and the cells in; of an `HADD` index and value. -/
structure RxFrame where
  uid : Nat
  seq : Nat
  type : Nat
  poison : Bool
  outstanding : Nat
  todoW : List (Nat × List Byte × BitVec 64)
  todoR : List (Nat × Nat × Nat)
  err : Nat
  statusSeq : Option Nat
  done : Bool
  rid : Nat
  rdata : Tbl (List Byte)
  hadd : Nat × Nat
  deriving DecidableEq, Repr

/-- A read asked of the peer (R277): requester and the keys of the cells it brings. -/
structure PeerRead where
  owner : FrameOwner
  keys : List Nat
  sti : Nat
  seq : Nat
  deriving DecidableEq, Repr

/-- The peer-link port (R268, R269, Tables LINK-2 to LINK-10, LINK-14): `waitQ` waits for the window, `txQ` and `ackQ` for the MAC-side output;
`lossNews` is a `LINK_STATE` that waits for the lanes' replies (R283). [Log 68 DEDUCED; log 88 DESIGN CHOICE] -/
structure Link where
  st : Nat
  trains : BitVec 16
  loss : Nat
  cnt : Tbl Nat
  etype : BitVec 16
  dmac : BitVec 48
  smac : BitVec 48
  reducedReq : Bool
  peerCtr : BitVec 16
  helloBack : Bool
  reducedNow : Bool
  seriesSent : Bool
  egressOk : Bool
  peerIntact : Nat
  peerReduced : Bool
  seq : BitVec 16
  rcv : BitVec 16
  cmp : BitVec 16
  peerRcv : BitVec 16
  peerCmp : BitVec 16
  retry : Tbl TxFrame
  waitQ : List TxFrame
  txQ : List TxItem
  ackQ : List Bool
  toMac : List PassFrame
  toHost : List PassFrame
  hostTurn : Bool
  sending : Option Sending
  open_ : Option OpenWrite
  rx : List RxFrame
  reads : Tbl PeerRead
  nakFor : Option Nat
  ackDue : Bool
  expiries : Nat
  lossNews : Option Nat
  flawCrc : Bool
  flawCell : Bool
  buf : Option Nat
  deriving DecidableEq, Repr

/-! ### Time unit (10) -/

/-- A trigger setting (R291): next firing time, period, firings left after the next (none: no end), output line + 1. -/
structure Trig where
  next : BitVec 64
  period : Nat
  left : Option Nat
  out : Nat
  late : Bool
  deriving DecidableEq, Repr

/-- The time unit (Tables LINK-11, LINK-12). -/
structure Time where
  run : Bool
  tclkOk : Bool
  tsLock : Bool
  ns : BitVec 64
  frac : BitVec 32
  incInt : BitVec 4
  incFrac : BitVec 32
  incPending : Bool
  curInt : BitVec 4
  curFrac : BitVec 32
  ofsNs : BitVec 30
  ofsLo : BitVec 32
  ofsHi : BitVec 16
  ofsPending : Option (Nat × Nat)
  curOfsNs : Nat
  curOfsSec : Nat
  smpNs : BitVec 64
  smpPtpNs : BitVec 30
  smpPtpSec : BitVec 48
  capcfg : BitVec 16
  capValid : BitVec 8
  capOvf : BitVec 8
  cap : Tbl (BitVec 64)
  trig : Tbl Trig
  trigLate : BitVec 32
  pulse : Tbl Nat
  evOvf : BitVec 64
  deriving DecidableEq, Repr

/-! ### Power manager (11) -/

/-- One phase occurrence (R302): energy in mJ, the voltage in mV at which it was measured, ACLK cycles. -/
structure Occ where
  mj : Rat
  mv : Nat
  cycles : Rat
  deriving DecidableEq, Repr

/-- A raise in progress (R296, R297): the point, the point in force and its voltage as a LINEAR16 word, and how far the raise is:
its command acknowledged, its first read-back failed, the PLL slewing. -/
structure Raise where
  top : Nat
  from_ : Nat
  old : Nat
  acked : Bool
  second : Bool
  slewing : Bool
  deriving DecidableEq, Repr

/-- A PMBus transaction in progress or queued (Table POWER-3): command code, data, and whether it is the repeat. -/
structure Pmb where
  code : Nat
  data : Nat
  again : Bool
  deriving DecidableEq, Repr

/-- One second's fit sample (R313): the seven counts scaled by (v/0.75)^2, and the measured energy, of one interval. -/
structure FitSample where
  x : List Rat
  mj : Rat
  deriving DecidableEq, Repr

/-- What the `PWR` registers show that are updated at the end of a control interval alone (R321). -/
structure PwrShown where
  cal : Bool
  pmb : Nat
  vout : Nat
  iout : Nat
  dur : List Nat
  ofs : List Nat
  retired : List Bool
  wearDrift : Int
  wearMon : Nat
  wdata : Tbl (Nat × Nat)
  vrTemp : Int
  vrValid : Bool
  deriving DecidableEq, Repr

/-- The activity of a control interval (R302, R312-R314): the seven counts of the block, of each phase and of each stream; the ACLK cycles since
reset; by `16 * phase + lane` the phases that were active and how many of their occurrences ended; the ns in which each phase and stream was active;
and the Burin-ns of ramp and filler. [Log 99 DESIGN CHOICE] -/
structure Activity where
  block : List Nat
  phases : Tbl (List Nat)
  streams : Tbl (List Nat)
  clk : Rat
  inPhase : List Nat
  ended : Tbl Nat
  ns : Tbl Rat
  rampNs : Rat
  deriving DecidableEq, Repr

/-- The power manager (Tables POWER-8, POWER-9): `vset` is the LINEAR16 word of the last acknowledged voltage command, `whole` the reasons that hold for
the whole interval in force, `txFailed` the code of the interval's failed transaction, and durations are in ns. -/
structure Pwr where
  op : Nat
  target : Nat
  duty : Nat
  fast : Bool
  cal : Bool
  pmb : Nat
  active : BitVec 6
  whole : BitVec 6
  seen : BitVec 6
  cap : Nat
  pmbReg : BitVec 32
  tj : Int
  sensor : Nat
  tjMax : Option (Int × Nat)
  vout : Nat
  iout : Nat
  durNs : List Rat
  ofs : List Nat
  retired : List Bool
  wearDrift : Int
  wearMon : Nat
  wsel : BitVec 7
  wdata : Tbl (Nat × Nat)
  vrTemp : Int
  vrValid : Bool
  hist : List Rat
  prefs : Tbl Nat
  learned : Tbl (List Occ)
  perLane : Tbl (List Nat)
  act : Activity
  vset : Option Nat
  raise : Option Raise
  slewTo : Option Nat
  failedRaises : Nat
  failedIntervals : Nat
  txFailed : Option Nat
  tx : List Pmb
  confirmed : Nat
  alertHold : Bool
  emerg : Bool
  thermal : Option (Nat × Nat)
  clkFault : Bool
  prods : List Nat
  invalid : Tbl Bool
  raiseHold : Tbl Nat
  coef : List Rat
  samples : List FitSample
  total : Rat
  byPhase : Tbl Rat
  scopeDur : Tbl (List Rat)
  marks : Tbl (List Rat)
  shown : PwrShown
  flawSensor : Option Nat
  flawWear : Option Nat
  windowOp : Nat
  deriving DecidableEq, Repr

/-! ### Boot and test (13, 14) -/

/-- The boot logic (Tables START-2, START-3). -/
structure Boot where
  journalBase : BitVec 32
  imgA : BitVec 32
  imgB : BitVec 32
  done : Bool
  stop : Bool
  jfail : Bool
  jnew : Bool
  restarts : Nat
  level : Nat
  step : Nat
  result : BitVec 22
  bistFail : BitVec 10
  bistRows : BitVec 16
  slotActive : Bool
  slotRunning : Bool
  begun : Bool
  burin : Nat
  slotFail : BitVec 2
  startNo : Nat
  nextSeq : Nat
  levels : List Nat
  journal : Bool
  image : Option (List Byte)
  digest : Option (Nat × Nat)
  fwver : BitVec 32
  linkReduced : Bool
  cutBurin : Option Nat
  deriving DecidableEq, Repr

/-- The JTAG TAP (R397, R398). [Log 27 DEDUCED] -/
structure Tap where
  ir : BitVec 5
  destroyed : Bool
  deriving DecidableEq, Repr

/-- A firmware write to host memory: the port of its 4 KiB (R30), address and bytes, in order. [Log 6 DESIGN CHOICE] -/
structure FwWrite where
  port : Nat
  addr : Nat
  bytes : List Byte
  deriving DecidableEq, Repr

end Sys2Proof.Machine
end

