-- ==== Sys2Proof/Machine/State.lean ====
section
/-! DEFINITION. The reasons a step stops, the state of the block, and its value right after reset. -/
namespace Sys2Proof.Machine

/-- The reasons a step ends in a fault. -/
inductive Fault where
  /-- Raised by any command that meets a state the spec leaves undefined: after power-on and before a domain reset (R353), or
  after a scan or BIST instruction of the TAP (R398). Safe: the model stops where the block goes on from any state. -/
  | undefinedState
  deriving DecidableEq, Repr

/-- The reasons a step is refused. -/
inductive Refusal where
  /-- Raised by a dispatch arm of a command without a meaning; safe: the model stops. -/
  | notModelled (mnemonic : String)
  deriving DecidableEq, Repr

/-- The state of the block. `pending`, `free`, `fwWrites`, `macOut` and `hostOut` are the model's own: the queue of waiting
commands, the counter of free values, what firmware has written to host memory, and the frames put out on the two sides
of the peer-link port. [Log 22 DESIGN CHOICE] -/
structure State where
  build : Build
  otp : Otp
  pins : Pins
  life : Life
  boot : Boot
  ctl : Ctl
  fw : Fw
  hal : Hal
  lanes : Tbl Lane
  ports : Tbl Port
  plate : Plate
  link : Link
  time : Time
  pwr : Pwr
  flt : Flt
  tap : Tap
  free : Nat
  fwWrites : List FwWrite
  macOut : List (List Byte)
  hostOut : List (List Byte)
  pending : List Instr
  deriving DecidableEq, Repr

/-- A lane after a domain reset. -/
def Lane.reset : Lane :=
  { queue := [], report := [], stops := [], reported := [], draining := false, holding := false, xst := 0, beats := 0, used := false, xlat := [], walk := none, skip := none
    slots := [], shadow := none, loading := none, level := 0, flawProduct := false, flawDrain := false
    reason := 0, resp := 0, errAddr := 0, haltAddr := 0 }

/-- A memory port after a domain reset. -/
def Port.reset : Port :=
  { reads := [], writes := [], waitR := [], waitW := [], lateR := [], lateW := [], tmo := 0, expand := [], compress := [], flawIn := false }

/-- The peer link after a domain reset (R267, R271, R279). [Log 7 DESIGN CHOICE] -/
def Link.reset : Link :=
  { st := 0, trains := 0, loss := 0, cnt := [], etype := 0x88B5, dmac := 0, smac := 0, reducedReq := false, peerCtr := 0xFFFF
    helloBack := false, reducedNow := false, seriesSent := false, egressOk := false, peerIntact := 0, peerReduced := false
    seq := 0, rcv := 0xFFFF, cmp := 0xFFFF, peerRcv := 0xFFFF, peerCmp := 0xFFFF, retry := [], waitQ := [], txQ := [], ackQ := []
    toMac := [], toHost := [], hostTurn := false, sending := none, open_ := none, rx := []
    reads := [], nakFor := none, ackDue := false, expiries := 0, lossNews := none, flawCrc := false, flawCell := false, buf := none }

/-- The time unit after a domain reset (Tables LINK-11, LINK-12). -/
def Time.reset : Time :=
  { run := false, tclkOk := false, tsLock := false, ns := 0, frac := 0, incInt := 4, incFrac := 0, incPending := false, curInt := 4
    curFrac := 0, ofsNs := 0, ofsLo := 0, ofsHi := 0, ofsPending := none, curOfsNs := 0, curOfsSec := 0, smpNs := 0, smpPtpNs := 0
    smpPtpSec := 0, capcfg := 0, capValid := 0, capOvf := 0, cap := [], trig := [], trigLate := 0, pulse := [], evOvf := 0 }

/-- The cap range of a configuration (Table POWER-5): lowest, highest, after reset, in mW. -/
def Cfg.capRange : Cfg → Nat × Nat × Nat
  | .l2 => (1000, 4900, 3300)
  | .l4 => (1000, 8500, 6000)
  | .l8 => (1000, 16000, 11600)

/-- No activity. -/
def Activity.none : Activity := ⟨List.replicate 7 0, [], [], 0, [], [], [], 0⟩

/-- The power manager after a domain reset (Tables POWER-8, POWER-9; R306). -/
def Pwr.reset (c : Cfg) (otpCoef : List Rat) : Pwr :=
  { op := 0, target := 0, duty := 8, fast := false, cal := false, pmb := 0, active := 0, whole := 0, seen := 0, cap := c.capRange.2.2
    pmbReg := 0x00192E00, tj := 0, sensor := 0, tjMax := none, vout := 0, iout := 0, durNs := [0, 0, 0, 0, 0, 0]
    ofs := List.replicate 8 0, retired := List.replicate 8 false, wearDrift := 0, wearMon := 0, wsel := 0, wdata := []
    vrTemp := 0, vrValid := false, hist := List.replicate 1000 (c.capRange.2.2 / 1000 : Rat), prefs := [], learned := []
    perLane := [], act := .none, vset := none, raise := none, slewTo := none, failedRaises := 0, failedIntervals := 0, txFailed := none, tx := []
    confirmed := 0, alertHold := false, emerg := false, thermal := none, clkFault := false, prods := [], invalid := [], raiseHold := []
    coef := otpCoef, samples := [], total := 0, byPhase := [], scopeDur := [], marks := [], flawSensor := none
    shown := ⟨false, 0, 0, 0, [0, 0, 0, 0, 0, 0], List.replicate 8 0, List.replicate 8 false, 0, 0, [], 0, false⟩
    flawWear := none, windowOp := 0 }

/-- The fault collector after a domain reset (Table FAULT-11). -/
def Flt.reset : Flt :=
  { safe := false, fatal := false, selfF := false, copiesDiffer := false, recov := [], inj := false, auto := true, hold := false, pulse := false
    seq := 0, hist := [], ce := 0, de := 0, ue := 0, first := 0, failed := 0, downNs := 0, cross := [], held := []
    clkFlag := 0, causes := [], recent := [], laneTimes := [], injSel := 0, injArg := 0, unlock := 0, checkpoint := 0, todo := [] }

/-- The boot logic after a domain reset (Tables START-2, START-3). -/
def Boot.reset : Boot :=
  { journalBase := 0, imgA := 0, imgB := 0, done := false, stop := false, jfail := false, jnew := false, restarts := 0, level := 0
    step := 0, result := 0, bistFail := 0, bistRows := 0, slotActive := false, slotRunning := false, begun := false, burin := 0
    slotFail := 0, startNo := 0, nextSeq := 0, levels := [], journal := false, image := none, digest := none, fwver := 0
    linkReduced := false, cutBurin := none }

/-- The mailboxes after a domain reset (Tables CTRL-7 to CTRL-9). [Log 96 DESIGN CHOICE] -/
def Ctl.reset : Ctl :=
  { cmd := [], rpl := [], cmdOwn := 0, rplFull := 0, rplEn := 0, dropped := 0, fwReady := false, submitted := [], hand := none
    async := [], fseq := 0, unacked := [], faultWait := [], pause := 0, mail := [] }

/-- The active logical lanes of a configuration (Table SCOPE-1). -/
def Cfg.lanes : Cfg → Nat
  | .l2 => 2 | .l4 => 4 | .l8 => 8

/-- The spare physical lanes of a configuration (Table SCOPE-1, Table FAULT-2). -/
def Cfg.spareLanes : Cfg → List Nat
  | .l8 => [8, 9] | _ => [8]

/-- The logical-to-physical map before any substitution (R403): logical lanes over the enabled active lanes, ascending. -/
def identityMap (c : Cfg) (dis : BitVec 10) : Tbl Nat :=
  ((List.range c.lanes).filter fun n => !dis.getLsbD n).mapIdx fun i n => (i, n)

/-- Firmware's objects when the block is not attached (R256, R343). -/
def Fw.reset (c : Cfg) (dis : BitVec 10) : Fw :=
  { attached := false, root := 0, compat := 0, reg := [], tensors := [], buntings := [], programs := [], streams := [], models := []
    books := [], held := [], admitQ := [], runlist := [], laneMap := identityMap c dis
    spares := c.spareLanes.filter fun p => !dis.getLsbD p, outOfService := [] }

/-- The state after a domain reset of a block with build `b`, fuses `o` and pins `p`. [Log 1 DESIGN CHOICE] -/
def State.afterReset (b : Build) (o : Otp) (p : Pins) (sampled : Bool) (free : Nat) (q : List Instr) (fwW : List FwWrite)
    (mac host : List (List Byte)) : State :=
  { build := b
    otp := o
    pins := { p with dack := 0, evOut := 0, trigOut := 0, quiesced := true }
    life := { power := .up, started := false, halted := false, testSampled := sampled }
    boot := Boot.reset
    ctl := Ctl.reset
    fw := Fw.reset b.cfg o.laneDisable
    hal := ⟨[], [], [], [], [], [], [], 0⟩
    lanes := []
    ports := []
    plate := ⟨[], [], [], [], [], 0, []⟩
    link := Link.reset
    time := Time.reset
    pwr := Pwr.reset b.cfg o.coef
    flt := Flt.reset
    tap := ⟨1, false⟩
    free := free
    fwWrites := fwW
    macOut := mac
    hostOut := host
    pending := q }

/-- The machine right after reset: the L4 reference build (R6), the domain reset completed and `RST_N` released, before
`BOOT.CTL.START` (R353, R354). DESIGN CHOICE (logs 1, 3, 4, 5): the standpoint, input pins, fuses and Plate bytes. [Logs 1, 3, 4 DESIGN CHOICE] -/
def State.reset : State :=
  State.afterReset ⟨.l4, 0b0011, 2, 0⟩ ⟨0, 3 / 10, [], [0, 0, 0, 0, 0, 0, 0], 0⟩
    { rstN := true, isoEn := false, testMode := false, dreq := 0, dack := 0, capIn := 0, evIn := 0, vrAlertN := true, plLinkUp := true
      quiesced := true, evOut := 0, trigOut := 0 } false 0 [] [] [] []

end Sys2Proof.Machine
end

