-- ==== Sys2Proof/Machine/Ops.lean ====
section
/-! DEFINITION. The operations every meaning shares: the gate a command passes, sizes of the build, access to the sparse
parts of the state, free values, Burgees into their crossings, and updates of Halyards. -/
namespace Sys2Proof.Machine

/-- The outcome type of a step. -/
abbrev Out := Host.Outcome State Fault Refusal

/-- The state of the block is defined: the rail is not in its first rise before a domain reset (R353), and no scan or BIST
run has destroyed it (R398). [Log 14 DEDUCED] -/
def State.defined (s : State) : Bool := decide (s.life.power ≠ .undefined) && !s.tap.destroyed

/-- Inputs reach the block: the rail is on, the domain is out of reset and the port ring is not isolated (R353, R370). [Log 26 DEDUCED] -/
def State.awake (s : State) : Bool := decide (s.life.power ≠ .off) && s.pins.rstN && !s.pins.isoEn

/-- What a command may change of the block. The queue, the build, the fuses, the rail, the TAP and the levels that the outside drives
through `RST_N`, `ISO_EN` and the strap are not the command's: in `t`, they stand as they do in `s`. -/
def State.keep (s t : State) : State :=
  { t with
    pending := s.pending, build := s.build, otp := s.otp, tap := s.tap
    life := { t.life with power := s.life.power, testSampled := s.life.testSampled }
    pins := { t.pins with rstN := s.pins.rstN, isoEn := s.pins.isoEn, testMode := s.pins.testMode } }

/-- The gate of a command that needs the block awake: a sleeping block ignores the command; a state the spec leaves undefined
stops the model; otherwise `f` gives the effect on everything but the queue. [Log 13 DESIGN CHOICE; logs 14, 26 DEDUCED] -/
def gated (s : State) (f : State → State) : Out :=
  if !s.awake then .next s
  else if !s.defined then .fault .undefinedState
  else .next (s.keep (f s))

/-- The gate of a level change of an input pin: the pin takes its new level at any time; a block that is asleep does not see it. [Logs 3, 13 DESIGN CHOICE; logs 14, 26 DEDUCED] -/
def onPin (s : State) (level : Pins → Pins) (f : State → State) : Out :=
  let t := { s with pins := level s.pins }
  if !s.awake then .next t
  else if !s.defined then .fault .undefinedState
  else .next (t.keep (f t))

/-- The block has been started, its boot has not stopped (R354, R357), and no detach has ended (R366). -/
def State.alive (s : State) : Bool := s.life.started && !s.boot.stop && !s.life.halted

/-- The gate of a command of an engine: it also needs the block to be started (R354). [Log 13 DESIGN CHOICE] -/
def running (s : State) (f : State → State) : Out := gated s fun s => if s.alive then f s else s

/-- What a command's own checks and effect answer: the state, the status (Table CTRL-12) and the reply payload words. -/
abbrev Ans := State × Nat × List Nat

/-- An answer with a status other than `OK`: no payload, no change (R250). -/
def Ans.err (s : State) (status : Nat) : Ans := (s, status, [])
/-- An `OK` answer. -/
def Ans.ok (s : State) (payload : List Nat) : Ans := (s, 0, payload)

/-! ### Sizes (Table SCOPE-1) -/

/-- Halyards of the build (R215). -/
def Cfg.halyards : Cfg → Nat
  | .l8 => 32768 | _ => 16384

/-- Stream contexts of the build. -/
def Cfg.contexts : Cfg → Nat
  | .l2 => 1024 | .l4 => 2048 | .l8 => 4096

/-- Plates of the build. -/
def Cfg.plates : Cfg → Nat
  | .l2 => 16 | .l4 => 32 | .l8 => 64

/-- Memory ports of the build. -/
def Cfg.ports : Cfg → Nat
  | .l2 => 1 | .l4 => 2 | .l8 => 4

/-- Bytes of the Plate pool (R25). -/
def Cfg.pool (c : Cfg) : Nat := c.plates * 1048576

/-- The active logical lanes, `BLK.CAPS0.LANES` (R403): the active physical lanes that OTP does not disable. -/
def State.nLanes (s : State) : Nat := ((List.range s.build.cfg.lanes).filter fun n => !s.otp.laneDisable.getLsbD n).length

/-- The physical lanes that exist in the build. -/
def Cfg.physLanes (c : Cfg) : List Nat := List.range c.lanes ++ c.spareLanes

/-- The port of a physical host address (R30). -/
def State.portFor (s : State) (a : Nat) : Nat := portOf s.build.cfg.ports a

/-! ### Sparse parts -/

/-- A physical lane. -/
def State.lane (s : State) (p : Nat) : Lane := Tbl.get Lane.reset s.lanes p
/-- Replace a physical lane. -/
def State.setLane (s : State) (p : Nat) (l : Lane) : State := { s with lanes := Tbl.set Lane.reset s.lanes p l }
/-- A memory port. -/
def State.port (s : State) (p : Nat) : Port := Tbl.get Port.reset s.ports p
/-- Replace a memory port. -/
def State.setPort (s : State) (p : Nat) (q : Port) : State := { s with ports := Tbl.set Port.reset s.ports p q }
/-- A bound stream context. -/
def State.stream (s : State) (c : Nat) : Option Stream := Tbl.find s.fw.streams c
/-- Replace a stream context. -/
def State.setStream (s : State) (c : Nat) (x : Stream) : State := { s with fw := { s.fw with streams := Tbl.put c x s.fw.streams } }
/-- Change a bound stream context. -/
def State.modStream (s : State) (c : Nat) (f : Stream → Stream) : State :=
  match s.stream c with
  | some x => s.setStream c (f x)
  | none => s
/-- Change a physical lane. -/
def State.modLane (s : State) (p : Nat) (f : Lane → Lane) : State := s.setLane p (f (s.lane p))
/-- Change a memory port. -/
def State.modPort (s : State) (p : Nat) (f : Port → Port) : State := s.setPort p (f (s.port p))
/-- The physical lane that serves a logical lane (R265); none when it is absent or out of service. -/
def State.physOf (s : State) (n : Nat) : Option Nat := Tbl.find s.fw.laneMap n
/-- The logical lane a physical lane serves. -/
def State.logicalOf (s : State) (p : Nat) : Option Nat := (s.fw.laneMap.find? fun e => decide (e.2 = p)).map (·.1)
/-- Add to a statistic of a stream (Table CTRL-21), saturating. [Log 33 DEDUCED] -/
def Stream.count (x : Stream) (w n : Nat) : Stream := { x with stats := Tbl.modify 0 x.stats w fun c => satAdd32 c n }
/-- A statistic of a stream. -/
def Stream.stat (x : Stream) (w : Nat) : Nat := Tbl.get 0 x.stats w

/-! ### Free values -/

/-- Take the next free value. [Log 2 DESIGN CHOICE] -/
def State.nextFree (s : State) : Nat × State := (s.free, { s with free := s.free + 1 })

/-- `n` free bytes and the state after them. [Log 2 DESIGN CHOICE; log 24 DEDUCED] -/
def State.freeBytes (s : State) (n : Nat) : List Byte × State :=
  ((List.range n).map fun i => Config.freeByte (s.free + i), { s with free := s.free + n })

/-! ### Outstanding on the ports (R374) -/

/-- No memory-port request is outstanding or waits for a tag, but those that have timed out. -/
def State.portsQuiet (s : State) : Bool :=
  s.ports.all fun e => decide (e.2.reads = []) && decide (e.2.writes = []) && decide (e.2.waitR = []) && decide (e.2.waitW = []) &&
    e.2.lateR.all fun r => r.2.timedOut

/-- What `QUIESCED` states (R353, R374): no request outstanding on a memory port, no frame on its way to a peer-link stream, and no SMBus
transaction in progress. [Log 79 DEDUCED] -/
def State.quiet (s : State) : Bool :=
  s.portsQuiet && decide (s.pwr.tx = []) && s.link.sending.isNone && decide (s.link.txQ = []) && decide (s.link.ackQ = [])

/-! ### Lanes stop; the safe state (R118, R332) -/

/-- Mark a lane to stop for reason `x` (R118, R127, R133, R334): it drains, and holds once its last response is in. A lane that holds
already is drained, and only keeps the reason (Table STREAM-12). -/
def Lane.stop (l : Lane) (x : Stop) : Lane :=
  if l.stops.contains x then l
  else { l with stops := l.stops ++ [x], draining := l.draining || !l.holding }

/-- Stop a physical lane. -/
def State.stopLane (s : State) (p : Nat) (x : Stop) : State := s.modLane p fun l => l.stop x

/-- The lanes hold descriptors. -/
def State.busyLanes (s : State) : List Nat := s.build.cfg.physLanes.filter fun p => decide ((s.lane p).queue ≠ [])

/-- A transfer of a stream changes. -/
def Stream.modXfer (x : Stream) (id : Nat) (f : Transfer → Transfer) : Stream :=
  { x with xfers := x.xfers.map fun t => if t.id = id then f t else t }

/-- A transfer of stream `c` changes. -/
def State.modXfer (s : State) (c id : Nat) (f : Transfer → Transfer) : State := s.modStream c fun x => x.modXfer id f

/-- The first byte of a write request: a multiple of 128. -/
def WriteReq.addr (w : WriteReq) : Nat := ((w.cells.head?.map WCell.addr).getD 0) / 128 * 128

/-- The beats a write request covers (R375, R381). -/
def WriteReq.nbeat (w : WriteReq) : Nat := (((w.cells.getLast?.map WCell.addr).getD 0) - w.addr) / 128 + 1

/-- The transfer of a write that the safe state overtook ends in error (R334); `gone` says that the write will get no response. -/
def State.spoiled (s : State) (o : Owner) (gone : Bool) : State :=
  match o with
  | .store _ c id => s.modXfer c id fun t => { t with err := some (t.err.getD .fail), outstanding := if gone then t.outstanding - 1 else t.outstanding }
  | _ => s

/-- The write-request channel of port `q` at entry to the safe state (R332): of each request a free number of beats has been sent, and the
later ones go out marked `POISON`; lanes' requests that wait for a tag are not issued. [Log 19 DESIGN CHOICE] -/
def State.cutWrites (s : State) (q : Nat) : State :=
  let p := s.port q
  let cut := fun i (w : WriteReq) => (Config.freeWord (s.free + i)).toNat % (w.nbeat + 1)
  let late := fun i (w : WriteReq) (c : WCell) => decide ((c.addr - w.addr) / 128 ≥ cut i w)
  let dead := (p.writes.mapIdx fun i e => (e.2.cells.filter (late i e.2)).map WCell.owner).flatten
  let gone := p.waitW.filterMap fun c => match c.owner with
    | .store .. => some c.owner
    | _ => none
  let p' := { p with
    writes := p.writes.mapIdx fun i e => (e.1, { e.2 with cells := e.2.cells.map fun c => { c with poison := c.poison || late i e.2 c } })
    waitW := p.waitW.filter fun c => match c.owner with
      | .store .. => false
      | _ => true }
  let s := { s.setPort q p' with free := s.free + p.writes.length }
  gone.foldl (fun s o => s.spoiled o true) (dead.foldl (fun s o => s.spoiled o false) s)

/-- The frame in transmission ends with its `FCRC` inverted. -/
def Sending.spoil (f : Sending) : Sending :=
  { f with bytes := f.bytes.take (f.bytes.length - 4) ++ (f.bytes.drop (f.bytes.length - 4)).map (~~~ ·) }

/-- The peer link at entry to the safe state (Table FAULT-7): a transport frame in transmission is spoiled, and a sequenced one is resent
poisoned. -/
def Link.cutFrame (l : Link) : Link :=
  match l.sending with
  | none => l
  | some f =>
    if f.transport then { l with
      sending := some f.spoil
      retry := match f.seq with
        | some n => l.retry.map fun (e : Nat × TxFrame) => if e.1 = n then (e.1, { e.2 with poison := true }) else e
        | none => l.retry }
    else l

/-- Entry to the safe state (R332, R334, R335, Table FAULT-7): outputs low, `HOLD` set when `AUTO` asks for it, every lane with
work drains and holds, writes not yet sent go out poisoned, and a frame in transmission ends with its `FCRC` inverted. [Log 18 DEDUCED] -/
def State.enterSafe (s : State) : State :=
  if s.flt.safe then s
  else
    let s := { s with
      flt := { s.flt with safe := true, hold := s.flt.hold || s.flt.auto }
      pins := { s.pins with evOut := 0, trigOut := 0 }
      link := s.link.cutFrame }
    let s := (List.range s.build.cfg.ports).foldl State.cutWrites s
    s.busyLanes.foldl (fun s p => s.stopLane p .safe) s

/-! ### Burgees -/

/-- The severity of a kind (Table FAULT-4): 0 corrected, 1 deferred, 2 uncorrected, 3 fatal. -/
def kindSev (k : Nat) : Nat :=
  if [17, 20, 35, 40, 42, 47, 57, 61].contains k then 0
  else if [14, 16, 18, 22, 23, 24, 25, 26, 27, 28, 29, 30, 31, 37, 38, 39, 41, 43, 45, 48, 50, 51, 54, 55, 56, 58].contains k then 2
  else if [49, 53].contains k then 3
  else 1

/-- The 64-bit word of a Burgee (Table FAULT-1). [Log 67 DESIGN CHOICE] -/
def Burgee.word (b : Burgee) : Nat :=
  b.addr % 2 ^ 46 + kindSev b.kind * 2 ^ 46 + b.kind % 64 * 2 ^ 48 + b.inst % 64 * 2 ^ 54 + b.cls % 16 * 2 ^ 60

/-- The `SOURCE` field of a Burgee. -/
def Burgee.source (b : Burgee) : Nat := b.cls * 64 + b.inst

/-- The number of the domain a Burgee comes from: 0 ACLK, 1 to 4 the PCLK of a port, 5 LCLK, 6 TCLK, 7 CCLK (Tables ARCH-6, FAULT-2). -/
def Burgee.dom (b : Burgee) : Nat := if b.cls = 3 ∨ b.cls = 4 then 1 + b.inst else if b.cls = 5 then 5 else if b.cls ≥ 7 then 7 else 0

/-- The entries of a domain's Burgee crossing, and how many of them are kept for uncorrected and fatal kinds (Table ARCH-6). The
collector's own domain has no crossing. -/
def crossDepth (d : Nat) : Nat × Nat := if d = 0 then (16, 4) else if d = 6 then (4, 1) else (8, 2)

/-- The crossing of domain `d` takes a Burgee of kind `k` while it holds `n`. -/
def crossRoom (d k n : Nat) : Bool :=
  decide (d = 7) || decide (n + (if kindSev k ≥ 2 then 0 else (crossDepth d).2) < (crossDepth d).1)

/-- A Burgee enters the crossing of its domain; a source that finds it full holds the Burgee (R40). [Log 69 DEDUCED] -/
def Flt.enter (f : Flt) (b : Burgee) : Flt :=
  let q := Tbl.get [] f.cross b.dom
  if crossRoom b.dom b.kind q.length then { f with cross := Tbl.put b.dom (q ++ [b]) f.cross }
  else { f with held := Tbl.put b.dom (Tbl.get [] f.held b.dom ++ [b]) f.held }

/-- The first Burgee that a source of domain `d` holds and its crossing now takes enters. -/
def Flt.refill (f : Flt) (d : Nat) : Flt :=
  let q := Tbl.get [] f.cross d
  let h := Tbl.get [] f.held d
  match h.find? fun b => crossRoom d b.kind q.length with
  | some b => { f with cross := Tbl.put d (q ++ [b]) f.cross, held := Tbl.put d (h.erase b) f.held }
  | none => f

/-- What the collector learns of a Burgee by level, as it is raised (R332, R335, Tables FAULT-8, FAULT-9, FAULT-11): the pulse timer of an uncorrected or fatal one
starts, a fatal one sets `FATAL`, and a clock kind is a cause until its clock is back. [Log 71 DEDUCED] -/
def Flt.note (f : Flt) (b : Burgee) : Flt :=
  { f with
    pulse := f.pulse || decide (kindSev b.kind ≥ 2)
    fatal := f.fatal || decide (kindSev b.kind = 3)
    causes := if 49 ≤ b.kind ∧ b.kind ≤ 54 ∧ !f.causes.contains b then f.causes ++ [b] else f.causes }

/-- A unit raises a Burgee. An uncorrected or fatal one puts the block into the safe state by a level that waits for no queue
(R333). -/
def State.raise (s : State) (b : Burgee) : State :=
  let t := { s with flt := (s.flt.enter b).note b }
  if kindSev b.kind ≥ 2 then t.enterSafe else t

/-- Raise several Burgees in order. -/
def State.raiseAll (s : State) (bs : List Burgee) : State := bs.foldl State.raise s

/-! ### Recoveries -/

/-- The recovery is a warm restart. -/
def Recovery.isRestart : Recovery → Bool
  | .warmRestart _ => true
  | _ => false

/-- A warm restart runs (R345). -/
def Flt.restarting (f : Flt) : Bool := f.recov.any Recovery.isRestart

/-! ### Link counters -/

/-- Add to a link counter (Table LINK-14), saturating. -/
def Link.bump (l : Link) (k n : Nat) : Link := { l with cnt := Tbl.modify 0 l.cnt k fun c => satAdd32 c n }

/-- Add to a link counter. -/
def State.linkBump (s : State) (k n : Nat) : State := { s with link := s.link.bump k n }

/-- The link is `UP` or `UP_REDUCED` (Table LINK-7). -/
def Link.up (l : Link) : Bool := decide (l.st = 2) || decide (l.st = 3)

/-! ### Time (R285, R11) -/

/-- `NS_CNT` as a natural. -/
def State.now (s : State) : Nat := s.time.ns.toNat

/-- `a` is equal to or later than `b` on the 64-bit counter (R11). -/
def reached64 (a b : Nat) : Bool := decide ((a + 2 ^ 64 - b % 2 ^ 64) % 2 ^ 64 ≤ 2 ^ 63 - 1)

end Sys2Proof.Machine
end

