-- ==== Sys2Proof/Machine/Flags.lean ====
section
/-! DEFINITION. Flag computations: bits packed into a register, write-1-to-clear bits (R15), and the levels that the state drives on the
outputs of the port ring (R253, R335, R353, R370). -/
namespace Sys2Proof.Machine

/-- A list of bits as a number, bit 0 first. -/
def packBits (l : List Bool) : Nat := l.foldr (fun b n => (if b then 1 else 0) + 2 * n) 0

/-- Clear the bits of a W1C register that a write names (R15). -/
def w1c {n : Nat} (v : BitVec n) (w : Nat) : BitVec n := v &&& ~~~ (BitVec.ofNat n w)

/-- `IRQ_MBX` is high (R253). -/
def Ctl.irq (c : Ctl) : Bool := decide (c.rplFull &&& c.rplEn ≠ 0)

/-- `FAULT_N` is asserted (R335). -/
def State.faultAsserted (s : State) : Bool := s.flt.pulse || s.flt.hold

/-- The levels of the outputs of the port ring that are held in the state (Tables PORTS-3, PORTS-9, PORTS-10). -/
structure Ring where
  evOut : BitVec 64
  trigOut : BitVec 16
  dack : BitVec 32
  quiesced : Bool
  faultN : Bool
  irqMbx : Bool
  deriving DecidableEq, Repr

/-- The reset values that the clamps give (R370). -/
def Ring.clamped : Ring := ⟨0, 0, 0, true, true, false⟩

/-- The outputs at the port ring (R353, R370): clamped to their reset values while `ISO_EN` is 1 or the rail is off. [Log 29 DESIGN CHOICE] -/
def State.ringOutputs (s : State) : Ring :=
  if s.pins.isoEn ∨ s.life.power = .off then Ring.clamped
  else ⟨s.pins.evOut, s.pins.trigOut, s.pins.dack, s.pins.quiesced, !s.faultAsserted, s.ctl.irq⟩

/-- The outputs of the port ring (Tables PORTS-3 to PORTS-5 and PORTS-9 to PORTS-13); those of a memory port name it. -/
inductive OutPin where
  | quiesced | faultN | irqMbx | evOut | dack | trigOut
  | rqOffer (p : Nat) | rqAddr (p : Nat) | rqNbeat (p : Nat) | rqTag (p : Nat)
  | wqOffer (p : Nat) | wqAddr (p : Nat) | wqNbeat (p : Nat) | wqTag (p : Nat)
  | wcTake (p : Nat) | rbTake (p : Nat)
  | wbOffer (p : Nat) | wbData (p : Nat) | wbBen (p : Nat) | wbTag (p : Nat) | wbIdx (p : Nat) | wbPoison (p : Nat) | wbChk (p : Nat)
  | cpQTake | cpAOffer | cpARdata
  | mtxOffer | mtxData | mtxBytes | mtxEof | htxOffer | htxData | htxBytes | htxEof | hrxTake
  | sclOe | sdaOe | tdo | tdoEn
  deriving DecidableEq, Repr

/-- The reset value of an output, which is the value it is clamped to (R370, the reset columns of the signal tables). -/
def OutPin.resetLevel (o : OutPin) : Nat :=
  match o with
  | .quiesced | .faultN | .wcTake _ | .rbTake _ => 1
  | _ => 0

/-- An output that shows a field of the state, at the ring. -/
def Ring.level (r : Ring) (o : OutPin) : Option Nat :=
  match o with
  | .quiesced => some r.quiesced.toNat
  | .faultN => some r.faultN.toNat
  | .irqMbx => some r.irqMbx.toNat
  | .evOut => some r.evOut.toNat
  | .dack => some r.dack.toNat
  | .trigOut => some r.trigOut.toNat
  | _ => none

/-- The level of an output: every output is clamped to its reset value while `ISO_EN` is 1 or the rail is off (R353, R370), and stands at it while
`RST_N` is low; the levels of a handshake between commands are not held. [Log 92 DESIGN CHOICE] -/
def State.pinLevel (s : State) (o : OutPin) : Option Nat :=
  if s.pins.isoEn ∨ s.life.power = .off ∨ !s.pins.rstN then some o.resetLevel else s.ringOutputs.level o

end Sys2Proof.Machine
end

