-- ==== Sys2Proof/Machine/Operands.lean ====
section
/-! DEFINITION. What the operands of a command stand for, beyond plain numbers: the view of host memory that firmware's own accesses meet
(R256, R262), and an address that two payload words spell (R255). -/
namespace Sys2Proof.Machine

/-! ### Firmware's view of host memory -/

/-- The memory ports that an access to `n` bytes from `a` goes through, in a build with `np` ports: R30 names one for each 4 KiB. -/
def portsOf (np a n : Nat) : List Nat := (List.range ((a + n - 1) / 4096 + 1 - a / 4096)).map fun i => portOf np (a + 4096 * i)

/-- The response that a port of the view gives every access. [Log 6 DESIGN CHOICE] -/
def portResp (h : HostView) (p : Nat) : Option Resp := (h.ports.find? fun e => decide (e.1.val = p)).map (·.2)

/-- A range of the view, or a port that R30 names for it, answers with another response than `OK`. [Log 6 DESIGN CHOICE] -/
def hostBad (np : Nat) (h : HostView) (a n : Nat) : Option Resp :=
  match h.bad.find? fun b => decide (b.1 < a + n) && decide (a ≤ b.2.1) && decide (b.2.2 ≠ .ok) with
  | some b => some b.2.2
  | none => (portsOf np a n).findSome? (portResp h)

/-- A physical read by firmware through the ports of R30 (R49, R256, R262, R352): none when a response is other than `OK`. [Log 6 DESIGN CHOICE] -/
def hostRead (np : Nat) (h : HostView) (a n : Nat) : Option (List Byte) :=
  if (hostBad np h a n).isSome then none else some (Tbl.getRun 0 h.cells a n)

/-- A 52-bit address in two payload words (R255). -/
def addr52 (lo hi : Nat) : Nat := lo + bits hi 19 0 * 2 ^ 32

end Sys2Proof.Machine
end

