-- ==== Sys2Proof/Machine/Activity.lean ====
section
/-! DEFINITION. Operating points, and what the activity counters and the hardware edges give the power manager: time, activity counts
and phase occurrences (R98, R173, R295, R302, R312-R314). -/
namespace Sys2Proof.Machine

/-! ### Operating points (R295) -/

/-- The ACLK of a point in MHz (Table POWER-1). -/
def pointMHz (p : Nat) : Nat := nth 300 [300, 500, 700, 900, 1100, 1300, 1550, 1800] p
/-- The base voltage of a point in mV (Table POWER-1). -/
def pointBase (p : Nat) : Nat := nth 500 [500, 530, 560, 600, 630, 660, 700, 750] p
/-- ACLK cycles per activity window (Table BURIN-12). -/
def windowCycles (p : Nat) : Nat := nth 10 [10, 16, 23, 29, 36, 42, 50, 58] p
/-- The planned voltage of a point: base plus wear offset, in mV (R295). -/
def Pwr.planned (w : Pwr) (p : Nat) : Nat := pointBase p + nth 0 w.ofs p
/-- The regulator's address (Table POWER-9). -/
def Pwr.addr (w : Pwr) : Nat := bits w.pmbReg.toNat 6 0
/-- The voltage in force at a point, in mV: 0.80 V with no regulator (R299). -/
def Pwr.volts (w : Pwr) (p : Nat) : Nat := if w.addr = 0 then 800 else w.planned p
/-- ACLK in MHz: the divider of an alert or emergency keeps it at or below 300 MHz (R301). -/
def Pwr.mhz (w : Pwr) : Nat := if w.fast then min 300 (pointMHz w.op) else pointMHz w.op

/-! ### The energy model (R313) -/

/-- Sum of rationals. -/
def ratSum (l : List Rat) : Rat := l.foldl (· + ·) 0
/-- Mean of rationals; 0 of none. -/
def ratMean (l : List Rat) : Rat := if l = [] then 0 else ratSum l / (l.length : Rat)

/-- The activity model (R313): counts by coefficients and by `(v / 0.75)^2`, in mJ. -/
def modelMj (coef : List Rat) (counts : List Nat) (mv : Nat) : Rat :=
  ((coef.zip counts).foldl (fun (a : Rat) cx => a + cx.1 * (cx.2 : Rat)) 0) * ((mv : Rat) / 750) * ((mv : Rat) / 750)

/-! ### Activity counts (R98, R313) -/

/-- The class of a vector of elements of a format (R313): INT4, INT8 and FP8; 16-bit real; complex. A vector of 32-bit elements has no class
of its own there and counts with the 16-bit ones. [Log 99 DESIGN CHOICE] -/
def activityClass (f : Fmt) : Nat :=
  match f with
  | .int4 | .int8 | .e4m3 | .e5m2 => 0
  | .ci8 | .ci16 | .cbf16 => 2
  | _ => 1

/-- Filler cycles (R313). -/
def fillerClass : Nat := 3
/-- Plate accesses. -/
def plateClass : Nat := 4
/-- Memory-port beats. -/
def portClass : Nat := 5
/-- Link beats. -/
def linkClass : Nat := 6

/-- Count `n` of class `k`. -/
def addCount (k n : Nat) (l : List Nat) : List Nat := (List.range 7).map fun i => nth 0 l i + if i = k then n else 0

/-- The block's own count of class `k` goes up by `n`. -/
def State.tallyBlock (s : State) (k n : Nat) : State :=
  { s with pwr := { s.pwr with act := { s.pwr.act with block := addCount k n s.pwr.act.block } } }

/-- The place among a stream's occurrences of the one that transfer `id` belongs to. -/
def occOf (l : List OpenOcc) (id : Nat) : Nat := (l.filter fun o => decide (o.first ≤ id)).length - 1

/-- `n` of class `k` are counted to stream `c`, to the phase that transfer `id` is in (R98), and to the occurrence of that phase. -/
def State.charge (s : State) (c id k n : Nat) : State :=
  match (s.stream c).bind fun x => x.xfers.find? fun t => decide (t.id = id) with
  | none => s
  | some t =>
    let a := s.pwr.act
    let a := { a with
      phases := Tbl.modify [] a.phases t.rs.phase (addCount k n)
      streams := Tbl.modify [] a.streams c (addCount k n) }
    { s with pwr := { s.pwr with act := a } }.modStream c fun x =>
      { x with occs := x.occs.modify (occOf x.occs id) fun o => { o with counts := addCount k n o.counts } }

/-- `n` of class `k` are counted to the block and to the stream of a transfer. -/
def State.tally (s : State) (c id k n : Nat) : State := (s.tallyBlock k n).charge c id k n

/-! ### Streams on lanes -/

/-- The stream whose descriptor the lane runs, of each lane (R314): contexts. -/
def State.onLanes (s : State) : List Nat :=
  s.lanes.filterMap fun e => (e.2.queue.find? fun d => d.begun && !d.ended).map fun d => d.sctx

/-- The stream that lane `p` runs. -/
def State.runsOn (s : State) (p : Nat) : Option Nat := ((s.lane p).queue.find? fun d => d.begun && !d.ended).map fun d => d.sctx

/-- The phase that stream `c` is in: that of its oldest open occurrence. -/
def State.phaseOf (s : State) (c : Nat) : Option Nat := (s.stream c).bind fun x => x.occs.head?.map fun o => o.phase

/-- The scope keys of `ENERGY_READ` (R314) for phases and streams that are active: phases above 65,536, streams above 131,072. -/
def State.scopeKeys (s : State) : List Nat :=
  (s.onLanes.filterMap s.phaseOf).eraseDups.map (65536 + ·) ++ s.onLanes.eraseDups.map (131072 + ·)

/-! ### Throttle durations (R312, R314) -/

/-- Reason `k` accrues now from hardware edges (R312): `ALERT`, an emergency's `THERMAL`, `CLOCK`. -/
def Pwr.edge (w : Pwr) (k : Nat) : Bool :=
  (decide (k = 1) && w.active.getLsbD 1) || (decide (k = 2) && w.active.getLsbD 2 && !w.whole.getLsbD 2) || (decide (k = 5) && w.active.getLsbD 5)

/-- Add `d` ns to each of the six durations whose reason satisfies `on`. -/
def addDur (on : Nat → Bool) (d : Rat) (l : List Rat) : List Rat := (List.range 6).map fun k => nth 0 l k + if on k then d else 0

/-- Add durations to the scopes `keys`. -/
def Pwr.accrueTo (w : Pwr) (keys : List Nat) (on : Nat → Bool) (d : Rat) : Pwr :=
  if (List.range 6).any on then { w with scopeDur := keys.foldl (fun t k => Tbl.modify [] t k (addDur on d)) w.scopeDur } else w

/-- `d` ns pass (R312, R314): edge reasons accrue, ACLK runs, and the phases and streams on a lane are active. -/
def State.accrue (s : State) (d : Nat) : State :=
  if d = 0 then s
  else
    let keys := s.scopeKeys
    let w := s.pwr.accrueTo (0 :: keys) s.pwr.edge d
    let a := w.act
    { s with pwr := { w with
      durNs := addDur w.edge d w.durNs
      act := { a with clk := a.clk + (d : Rat) * w.mhz / 1000, ns := keys.foldl (fun t k => Tbl.modify 0 t k fun (x : Rat) => x + d) a.ns } } }

/-! ### Phase occurrences (R302) -/

/-- The place of a phase on a logical lane. -/
def phaseKey (phase lane : Nat) : Nat := 16 * phase + lane

/-- An occurrence of stream `c` begins at the `EMIT` of transfer `id` in phase `ph`, unless one of that phase is under way. -/
def State.beginOcc (s : State) (c id ph : Nat) : State :=
  match s.stream c with
  | none => s
  | some x =>
    let a := s.pwr.act
    let s := { s with pwr := { s.pwr with act := { a with inPhase := (a.inPhase ++ [phaseKey ph x.lane]).eraseDups } } }
    if (x.occs.getLast?.map fun o => o.phase) = some ph then s
    else s.modStream c fun x => { x with occs := x.occs ++ [⟨ph, id, a.clk, none, List.replicate 7 0⟩] }

/-- Append to a list and keep the last 16 (R302). -/
def keepLast16 {α : Type} (o : α) (l : List α) : List α := (l ++ [o]).drop (l.length + 1 - 16)

/-- An occurrence on a logical lane has ended (R302): its energy by the model at the voltage in force, and its cycles; one without a `DRAIN` is none. -/
def Pwr.endOcc (w : Pwr) (lane : Nat) (o : OpenOcc) : Pwr :=
  match o.last with
  | none => w
  | some e =>
    let mv := w.volts w.op
    { w with
      learned := Tbl.modify [] w.learned o.phase (keepLast16 ⟨modelMj w.coef o.counts mv, mv, e - o.start⟩)
      act := { w.act with ended := Tbl.modify 0 w.act.ended (phaseKey o.phase lane) (· + 1) } }

/-- The occurrences of stream `c` that satisfy `out` have ended. -/
def State.closeOccs (s : State) (c : Nat) (out : OpenOcc → Bool) : State :=
  match s.stream c with
  | none => s
  | some x =>
    { s with pwr := (x.occs.filter out).foldl (fun w o => w.endOcc x.lane o) s.pwr }.modStream c fun x => { x with occs := x.occs.filter fun o => !out o }

/-- The `DRAIN` of transfer `id` of stream `c`, in phase `ph`, has ended: the occurrences of the phases before have ended, and this is the last `DRAIN`
of its own so far. -/
def State.drainOcc (s : State) (c id ph : Nat) : State :=
  match s.stream c with
  | none => s
  | some x =>
    let s := if x.occs.any fun o => decide (o.first ≤ id) then s.closeOccs c (x.occs.take (occOf x.occs id)).contains else s.beginOcc c id ph
    s.modStream c fun x => { x with occs := x.occs.modify (occOf x.occs id) fun o => { o with last := some s.pwr.act.clk } }

/-- The run or the descriptor of stream `c` ends: an occurrence that has had a `DRAIN` ends with its last one. -/
def State.endOccs (s : State) (c : Nat) : State := s.closeOccs c fun o => o.last.isSome

/-- A lane begins a descriptor of stream `c`: what has begun but not drained begins here. -/
def State.restartOccs (s : State) (c : Nat) : State :=
  s.modStream c fun x => { x with occs := x.occs.map fun o => { o with start := s.pwr.act.clk } }

/-- The phases of the streams that lanes run, with their logical lanes. -/
def State.openPhases (s : State) : List Nat :=
  (s.onLanes.filterMap fun c => (s.stream c).bind fun x => x.occs.head?.map fun o => phaseKey o.phase x.lane).eraseDups

end Sys2Proof.Machine
end

