-- ==== Sys2Proof/Machine/Power.lean ====
section
/-! DEFINITION. The power manager: the regulator, the cap, heat, energy and ageing (R295-R322, R172). -/
namespace Sys2Proof.Machine

/-- A point has been withdrawn (R318). -/
def Pwr.withdrawn (w : Pwr) (p : Nat) : Bool := nth false w.retired p
/-- The LINEAR16 exponent (Table POWER-9). -/
def Pwr.vexp (w : Pwr) : Int := signed 5 (bits w.pmbReg.toNat 13 9)
/-- The PMBus is running (`PMB` = 1). -/
def Pwr.busOk (w : Pwr) : Bool := decide (w.pmb = 1)

/-- Two to an integer power, as a rational. -/
def ratPow2 (e : Int) : Rat := if e ≥ 0 then ((2 ^ e.toNat : Nat) : Rat) else 1 / ((2 ^ (-e).toNat : Nat) : Rat)
/-- The nearest integer to a non-negative rational, ties upward. -/
def ratRound (x : Rat) : Nat := (x + 1 / 2).floor.toNat
/-- A LINEAR16 reading in mV, exact (Table POWER-3). -/
def Pwr.linear16 (w : Pwr) (n : Nat) : Rat := (n : Rat) * ratPow2 w.vexp * 1000
/-- The LINEAR16 word of a voltage in mV. -/
def Pwr.toLinear16 (w : Pwr) (mv : Nat) : Nat := ratRound ((mv : Rat) / 1000 / ratPow2 w.vexp)
/-- A LINEAR11 reading (Table POWER-3): 5-bit exponent, 11-bit mantissa, both two's complement. [Log 85 PRESUMED] -/
def linear11 (n : Nat) : Rat := (signed 11 n : Rat) * ratPow2 (signed 5 (n / 2048))

/-! ### The voltage and the point (R296, R297, R301) -/

/-- Queue a PMBus transaction, behind those waiting (R298). -/
def Pwr.send (w : Pwr) (code data : Nat) : Pwr := { w with tx := w.tx ++ [⟨code, data, false⟩] }
/-- Command a voltage as a LINEAR16 word when a regulator is on the bus and PMBus is not failed (R299, R300). -/
def Pwr.commandWord (w : Pwr) (v : Nat) : Pwr := if w.busOk then w.send 0x21 v else w
/-- Command a voltage of `mv`. -/
def Pwr.command (w : Pwr) (mv : Nat) : Pwr := w.commandWord (w.toLinear16 mv)

/-- The word of the planned voltage of a point. -/
def Pwr.plannedWord (w : Pwr) (p : Nat) : Nat := w.toLinear16 (w.planned p)
/-- The word of the voltage in force: the last one acknowledged. -/
def Pwr.wordNow (w : Pwr) : Nat := w.vset.getD (w.plannedWord w.op)

/-- Command the voltage of a raise to point `p` (R296). -/
def Pwr.beginRaise (w : Pwr) (p : Nat) : Pwr :=
  { (w.command (w.planned p)) with raise := some ⟨p, w.op, w.wordNow, false, false, false⟩ }

/-- Begin a move to point `p` (R296): a raise commands the voltage first, a lower slews first. With no regulator the PLL
slews at once (R299). -/
def Pwr.moveTo (w : Pwr) (p : Nat) : Pwr :=
  if p < w.op then { w with slewTo := some p }
  else if p > w.op then
    if w.busOk then w.beginRaise p
    else if w.addr = 0 then { w with slewTo := some p, windowOp := p }
    else w
  else w

/-- The choice of an interval meets a move that is under way (R305, R310): what is to end at or below the choice goes on, and what would end above
it is turned to the choice. [Log 93 DESIGN CHOICE] -/
def Pwr.steer (w : Pwr) (p : Nat) : Pwr :=
  match w.raise, w.slewTo with
  | none, none => w.moveTo p
  | _, some q => if p < q then { w with slewTo := some p, raise := none } else w
  | some r, none =>
    if r.top = w.op then (if p < w.op then { w with raise := none }.moveTo p else w)
    else if p ≥ r.top then w
    else if p = w.op then { (w.commandWord r.old) with raise := none }
    else { w with raise := none }.moveTo p

/-- The forced move to OP0 of an alert or a thermal emergency (R301, R311): the divider takes over, a raise is abandoned with its voltage commands that
have not begun (Table POWER-10), the PLL slews to OP0. -/
def Pwr.force0 (w : Pwr) : Pwr :=
  { w with fast := true, raise := none, slewTo := some 0, tx := w.tx.take 1 ++ (w.tx.drop 1).filter fun t => decide (t.code ≠ 0x21) }

/-! ### The choice of an interval (R303, R305-R307, R310, R312) -/

/-- `leak(v)` of R305 in mJ per interval, `v` in mV. -/
def leakAt (leak7 : Rat) (mv : Nat) : Rat := leak7 * ((mv : Rat) / 750) * ((mv : Rat) / 750) * ((mv : Rat) / 750)

/-- What the predictor of R305 uses of one active phase: occurrences, lanes, mean energy, voltage and cycles. -/
structure PhaseUse where
  n : Rat
  k : Nat
  e : Rat
  v : Rat
  c : Rat
  deriving DecidableEq, Repr

/-- The logical lanes of a block. -/
def lanesMax : List Nat := List.range 8

/-- The use of phase `h` from the learned means (R302, R305): the lanes are those that were in it in the interval just ended. [Log 99 DESIGN CHOICE] -/
def Pwr.phaseUse (w : Pwr) (h : Nat) : PhaseUse :=
  let l := Tbl.get [] w.learned h
  { n := ratSum (lanesMax.map fun n => ratMean ((Tbl.get [] w.perLane (phaseKey h n)).map fun c : Nat => (c : Rat)))
    k := (lanesMax.filter fun n => w.act.inPhase.contains (phaseKey h n)).length
    e := ratMean (l.map (·.mj))
    v := ratMean (l.map fun o => (o.mv : Rat))
    c := ratMean (l.map (·.cycles)) }

/-- `predict(p, d)` of R305. -/
def Pwr.predict (w : Pwr) (leak7 resid : Rat) (vm : Nat) (us : List PhaseUse) (p d : Nat) : Rat :=
  let vp : Rat := w.volts p
  let dyn := ratSum (us.map fun u =>
    let nmax : Rat := if u.c = 0 then u.n else (u.k : Rat) * (pointMHz p * 1000 : Nat) / u.c
    (if u.n ≤ nmax then u.n else nmax) * u.e * (if u.v = 0 then 0 else (vp / u.v) * (vp / u.v)))
  leakAt leak7 (w.volts p) + (resid * (vp / vm) * (vp / vm) + dyn) * d / 8

/-- The last loop of R305: the highest duty limit from `d` down that fits, or 1 (R307). -/
def pickDuty (fits : Nat → Bool) : Nat → Nat
  | 0 => 1
  | d + 1 => if fits (d + 1) then d + 1 else pickDuty fits d

/-- The choice of R305: points from `p` down, skipping withdrawn ones, then the duty limits at OP0. -/
def pickPoint (skip : Nat → Bool) (fits : Nat → Nat → Bool) : Nat → Nat × Nat
  | 0 => if !skip 0 && fits 0 8 then (0, 8) else (0, pickDuty (fits 0) 7)
  | p + 1 => if !skip (p + 1) && fits (p + 1) 8 then (p + 1, 8) else pickPoint skip fits p

/-- The highest point at or below `p` that is not withdrawn (R303). -/
def Pwr.notWithdrawn (w : Pwr) : Nat → Nat
  | 0 => 0
  | p + 1 => if w.withdrawn (p + 1) then w.notWithdrawn p else p + 1

/-- The phases active in the interval just ended. -/
def Pwr.activePhases (w : Pwr) : List Nat := (w.act.inPhase.map (· / 16)).eraseDups

/-- The target point of the next interval (R303). -/
def Pwr.nextTarget (w : Pwr) : Nat :=
  if w.activePhases = [] then w.target
  else w.notWithdrawn ((w.activePhases.map fun h => Tbl.get 7 w.prefs h).foldl max 0)

/-- Points and duty limits on one scale: duty below 8 exists only at OP0. -/
def rank (x : Nat × Nat) : Nat := x.1 * 8 + x.2

/-- The lower of two allowances. -/
def lowerOf (x y : Nat × Nat) : Nat × Nat := if rank x ≤ rank y then x else y

/-- The control region has fewer than 2 valid sensors (R309). -/
def Pwr.controlLost (w : Pwr) : Bool := decide (([40, 41, 42, 43].filter fun i => (Tbl.find w.invalid i).isNone).length < 2)

/-- The thermal limit after an interval whose Tj is `tj` sixteenths of a degree (R310). -/
def Pwr.thermalNext (w : Pwr) (tj : Int) : Option (Nat × Nat) :=
  if tj ≥ 105 * 16 then some (if w.op > 0 then (w.op - 1, 8) else (0, max 1 (w.duty - 1)))
  else match w.thermal with
    | none => none
    | some (p, d) =>
      if tj < 103 * 16 then (if d < 8 then some (p, d + 1) else if p + 1 ≥ w.target then none else some (p + 1, 8))
      else some (p, d)

/-- The highest point whose planned voltage does not exceed the last confirmed reading (R300). -/
def Pwr.confirmedPoint (w : Pwr) : Nat → Nat
  | 0 => 0
  | p + 1 => if w.planned (p + 1) ≤ w.confirmed then p + 1 else w.confirmedPoint p

/-- PMBus becomes failed (R300): the state, and the calibration lost; of the transactions, `keep` are left. -/
def Pwr.fail (w : Pwr) (keep : List Pmb) : Pwr := { w with pmb := 2, cal := false, vrValid := false, raise := none, tx := keep }

/-- The Burgee of a failed PMBus with the code of the command that failed (Table FAULT-4, kind 59). -/
def pmbusBurgee (code : Nat) : Burgee := ⟨9, 0, 59, code⟩

/-- The allowances, reasons and target of the interval that begins (R305, R307, R310, R312). -/
structure Choice where
  applied : Nat × Nat
  reasons : BitVec 6
  thermal : Option (Nat × Nat)
  target : Nat
  deriving DecidableEq, Repr

/-- What the control interval decides (R305, R307, R310, R312). `tj` is the interval's temperature, `alert` whether the
alert or its hold is in force, `fits` whether a point and a duty limit meet the credit of R305. -/
def Pwr.choose (w : Pwr) (fits : Nat → Nat → Bool) (tj : Int) (alert : Bool) : Choice :=
  let target := w.nextTarget
  let cap := pickPoint w.withdrawn fits target
  let th := { w with target := target }.thermalNext tj
  let free : Nat × Nat := (target, 8)
  let thA : Nat × Nat := if w.emerg then (0, 8) else th.getD free
  let alA : Nat × Nat := if alert then (0, 8) else free
  let ckA : Nat × Nat := if w.clkFault then (w.op, 8) else free
  let pmA : Nat × Nat := if w.pmb = 2 then (min w.op (w.confirmedPoint 7), 8) else free
  let app := lowerOf (lowerOf (lowerOf cap thA) (lowerOf alA ckA)) (lowerOf free pmA)
  let binds := fun a : Nat × Nat => decide (rank a < rank free) && decide (a.1 = app.1) && (decide (a.2 = 8) || decide (a.2 = app.2))
  let rs : List Bool := [decide (cap.1 < target) && decide (cap.1 = app.1), alert, binds thA || w.emerg, decide (w.act.rampNs > 0),
    decide (cap.2 < 8) && decide (cap = app), binds ckA]
  { applied := app
    reasons := BitVec.ofNat 6 ((List.range 6).foldl (fun a k => if nth false rs k then a + 2 ^ k else a) 0)
    thermal := th
    target := target }

/-- The interval's Tj in sixteenths of a degree and its sensor (R308, R309). -/
def Pwr.intervalTj (w : Pwr) : Int × Nat := w.tjMax.getD (w.tj, w.sensor)

/-! ### Energy of the interval (R302, R305, R312-R314) -/

/-- The interval's energy was measured (R313): a regulator answers, and products were read. -/
def Pwr.measured (w : Pwr) : Bool := w.busOk && decide (w.prods ≠ [])

/-- The energy of the interval just ended in mJ (R313): the mean of the products read in it, or the model's estimate. -/
def Pwr.intervalMj (w : Pwr) (vm : Nat) : Rat :=
  if w.measured then ratMean (w.prods.map fun p : Nat => (p : Rat)) / 1000000 else modelMj w.coef w.act.block vm

/-- The occurrences of the interval just ended, of each phase on each lane that was in it, join the last 16 (R302). [Log 99 DESIGN CHOICE] -/
def Pwr.countOccs (w : Pwr) : Pwr :=
  { w with perLane := w.act.inPhase.foldl (fun t k => Tbl.modify [] t k (keepLast16 (Tbl.get 0 w.act.ended k))) w.perLane }

/-- The reasons that hold for whole intervals (R312): `CAP`, `THERMAL` outside an emergency, `CAP_FLOOR`. -/
def Pwr.wholeOf (w : Pwr) (reasons : BitVec 6) : BitVec 6 := reasons &&& (if w.emerg then 0b010001 else 0b010101)

/-- The interval just ended accrues its whole reasons: 1 ms to the block, and to each phase and stream the time it was active in it; and the
Burin-time of `RAMP` (R312, R314). -/
def Pwr.accrueInterval (w : Pwr) : Pwr :=
  let on := fun k => w.whole.getLsbD k
  let ramp := fun k : Nat => decide (k = 3)
  let w := { (w.accrueTo [0] on 1000000) with durNs := addDur ramp w.act.rampNs (addDur on 1000000 w.durNs) }
  w.act.ns.foldl (fun w e => w.accrueTo [e.1] on e.2) (if w.act.rampNs = 0 then w else w.accrueTo [0] ramp w.act.rampNs)

/-- The fit sample of an interval whose energy was measured (R313); the last 1,000 are kept. -/
def Pwr.addSample (w : Pwr) (vm : Nat) (em : Rat) : Pwr :=
  if w.measured then
    let x : FitSample := ⟨w.act.block.map fun n : Nat => (n : Rat) * ((vm : Rat) / 750) * ((vm : Rat) / 750), em⟩
    { w with samples := (w.samples ++ [x]).drop ((w.samples.length + 1) - 1000) }
  else w

/-- Account the interval's energy to the block, its phases and its streams (R313, R314). -/
def State.account (s : State) (em : Rat) (vm : Nat) : State :=
  let w := s.pwr
  let byP := w.act.phases.foldl (fun t e => Tbl.modify 0 t e.1 fun (x : Rat) => x + modelMj w.coef e.2 vm) w.byPhase
  let s := { s with pwr := { w with total := w.total + em, byPhase := byP } }
  w.act.streams.foldl (fun s e => s.modStream e.1 fun x => { x with energy := x.energy + modelMj w.coef e.2 vm }) s

/-- Six durations in us, saturating (Table POWER-9). -/
def durUs (l : List Rat) : List Nat := (List.range 6).map fun k => min ((nth 0 l k / 1000).floor.toNat) (2 ^ 32 - 1)

/-- What the registers show from the end of an interval on (R321). [Log 99 DESIGN CHOICE] -/
def Pwr.show_ (w : Pwr) : Pwr :=
  { w with shown := ⟨w.cal, w.pmb, w.vout, w.iout, durUs w.durNs, w.ofs, w.retired, w.wearDrift, w.wearMon, w.wdata, w.vrTemp, w.vrValid⟩ }

/-- The counters of an interval begin anew; the phases that lanes are in stay active. -/
def State.restartCounts (s : State) : State :=
  { s with pwr := { s.pwr with act := { Activity.none with clk := s.pwr.act.clk, inPhase := s.openPhases } } }

/-- The alert or its hold is in force (R301). -/
def State.alertOn (s : State) : Bool := !s.pins.vrAlertN || s.pwr.alertHold

/-- `fits(p, d)`: the prediction of R305 does not exceed the credit. -/
def Pwr.fitsCredit (w : Pwr) (leak7 em : Rat) (vm : Nat) (hist : List Rat) (p d : Nat) : Bool :=
  let credit : Rat := (w.cap : Rat) - ratSum (hist.drop (hist.length - 999))
  let us := w.activePhases.map w.phaseUse
  let resid := em - leakAt leak7 vm - ratSum (us.map fun u => u.n * u.e * (if u.v = 0 then 0 else ((vm : Rat) / u.v) * ((vm : Rat) / u.v)))
  decide (w.predict leak7 resid vm us p d ≤ credit)

/-- The interval's PMBus result (R300): after two consecutive intervals with a failed transaction PMBus is failed, and the code of the last failure is
answered. -/
def Pwr.busCheck (w : Pwr) : Pwr × Option Nat :=
  let fi := if w.txFailed.isSome then w.failedIntervals + 1 else 0
  let u := { w with failedIntervals := fi, txFailed := none }
  if w.busOk && decide (fi ≥ 2) then (u.fail (w.tx.take 1), w.txFailed) else (u, none)

/-- `CONTROL_INTERVAL` (R295-R313): measure the interval, learn, choose the next point and duty limit, begin the move. -/
def State.controlInterval (s : State) : State :=
  if s.pwr.pmb = 0 then s
  else
    let vm := s.pwr.volts s.pwr.op
    let em := s.pwr.intervalMj vm
    let w := (s.pwr.accrueInterval.addSample vm em).countOccs
    let hist := (w.hist ++ [em]).drop ((w.hist.length + 1) - 1000)
    let (w, failed) := w.busCheck
    let tjs := w.intervalTj
    let c := w.choose (w.fitsCredit s.otp.leak7 em vm hist) (if w.controlLost then 105 * 16 else tjs.1) s.alertOn
    let w := { w with
      hist := hist, target := c.target, thermal := c.thermal, active := c.reasons, whole := w.wholeOf c.reasons, seen := w.seen ||| c.reasons
      tj := tjs.1, sensor := tjs.2, tjMax := none, prods := [], duty := c.applied.2 }
    let w := if w.busOk then (w.send 0x8B 0).send 0x8C 0 else w
    let s := (({ s with pwr := (w.steer c.applied.1).show_ }).account em vm).restartCounts
    match failed with
    | some k => s.raise (pmbusBurgee k)
    | none => s

/-- `PLL_SLEW_DONE` (R296, R301, R172): the new point and its window length are in force; a lower then commands its voltage, as does a point that is
reached under the voltage of another. [Log 93 DESIGN CHOICE] -/
def State.pllSlewDone (s : State) : State :=
  match s.pwr.slewTo with
  | none => s
  | some p =>
    let w := s.pwr
    let lowered := decide (p < w.op)
    let off := lowered || (w.vset.map fun v => decide (v ≠ w.plannedWord p)).getD false
    let w := { w with op := p, windowOp := p, slewTo := none, fast := false, raise := if lowered then w.raise else none }
    { s with pwr := if off && s.pins.vrAlertN then w.command (w.planned p) else w }

/-- `VOUT_SETTLE_EXPIRY` (R296): `SETTLE` after the voltage command, the manager reads the voltage back. -/
def State.voutSettleExpiry (s : State) : State :=
  match s.pwr.raise with
  | some r => if r.acked && !r.slewing && s.pwr.busOk && !(s.pwr.tx.any fun t => decide (t.code = 0x8B) && decide (t.data = 1))
      then { s with pwr := s.pwr.send 0x8B 1 } else s
  | none => s

/-- The read-back of a raise lies within 15 mV of the plan (R296): the PLL slews, or, for a wear raise at the point in force, the raise is done. -/
def Pwr.raiseGood (w : Pwr) (r : Raise) : Pwr :=
  if r.top = w.op then { w with raise := none, failedRaises := 0 }
  else { w with raise := some { r with slewing := true }, slewTo := some r.top, failedRaises := 0, windowOp := max w.op r.top }

/-- The read-back of a raise lies outside, or none could be had (R297): wait and read again once, else command the old voltage and count a failed raise; the
third fails PMBus. [Log 93 DESIGN CHOICE] -/
def State.raiseBad (s : State) (r : Raise) : State :=
  let w := s.pwr
  if !r.second then { s with pwr := { w with raise := some { r with second := true } } }
  else
    let u : Pwr := { (w.commandWord r.old) with raise := none, failedRaises := w.failedRaises + 1 }
    if u.failedRaises ≥ 3 then ({ s with pwr := u.fail [⟨0x21, r.old, false⟩] }).raise (pmbusBurgee 0x8B) else { s with pwr := u }

/-- The read-back of a raise (R296, R297). -/
def State.readBack (s : State) (mv : Rat) : State :=
  match s.pwr.raise with
  | none => s
  | some r =>
    let want : Rat := s.pwr.planned r.top
    if want - 15 ≤ mv ∧ mv ≤ want + 15 then { s with pwr := s.pwr.raiseGood r } else s.raiseBad r

/-- Steps 2 to 4 of R301: the `VR_ALERT` Burgee with the status word, `CLEAR_FAULTS`, and the OP0 voltage. -/
def State.alertStatus (s : State) (v : Nat) : State :=
  let s := if s.pwr.busOk then { s with pwr := { s.pwr with tx := ⟨0x03, 0, false⟩ :: s.pwr.tx } } else s
  ({ s with pwr := s.pwr.command (s.pwr.planned 0) }).raise ⟨9, 1, 60, v⟩

/-- The status word of an alert cannot be read: the regulator does not answer, or there is none on the bus. The word that the Burgee carries is then a
free value. [Log 93 DESIGN CHOICE] -/
def State.alertNoStatus (s : State) : State :=
  ({ s with free := s.free + 1 }).alertStatus ((Config.freeWord s.free).toNat % 65536)

/-- The effect of a transaction that completed with data `v` (Table POWER-3). -/
def State.pmbusOk (s : State) (t : Pmb) (v : Nat) : State :=
  let w := s.pwr
  match t.code with
  | 0x21 =>
    let w := { w with vset := some t.data }
    match w.raise with
    | some r => { s with pwr := if t.data = w.plannedWord r.top then { w with raise := some { r with acked := true } } else w }
    | none => { s with pwr := w }
  | 0x8B =>
    let mv := w.linear16 v
    let s := { s with pwr := { w with vout := ratRound mv, confirmed := ratRound mv } }
    if t.data = 1 then s.readBack mv
    else if t.data = 2 then { s with pwr := { s.pwr with pmb := 1, failedRaises := 0, failedIntervals := 0, txFailed := none } }
    else s
  | 0x8C =>
    let ma := ratRound (linear11 v * 1000)
    { s with pwr := { w with iout := ma, prods := w.prods ++ [w.vout * ma] } }
  | 0x8D => { s with pwr := { w with vrTemp := ratRound (linear11 v * 16 + 1000000) - 1000000, vrValid := true } }
  | 0x79 =>
    if t.data = 1 then s.alertStatus v
    else if v ≠ 0 then { s with pwr := { w with tx := ⟨0x03, 0, false⟩ :: w.tx } }
    else s
  | _ => s

/-- A transaction has failed twice (R300): the interval ends with a failed transaction. A raise whose voltage could not be commanded is given up at the
point in force; a read-back that could not be had counts as one outside the limits. [Log 93 DESIGN CHOICE] -/
def State.pmbusLost (s : State) (t : Pmb) : State :=
  let s := { s with pwr := { s.pwr with txFailed := some t.code } }
  match t.code, s.pwr.raise with
  | 0x21, some r => if t.data = s.pwr.plannedWord r.top ∧ !r.acked then { s with pwr := { s.pwr with raise := none } } else s
  | 0x8B, some r => if t.data = 1 then s.raiseBad r else s
  | 0x79, _ => if t.data = 1 then s.alertNoStatus else s
  | _, _ => s

/-- `PMBUS_TRANSACTION_DONE` (R298, R300): the transaction in progress completes, or fails and is repeated once. -/
def State.pmbusDone (s : State) (r : Option (BitVec 16)) : State :=
  match s.pwr.tx with
  | [] => s
  | t :: rest =>
    match r with
    | some v => ({ s with pwr := { s.pwr with tx := rest } }).pmbusOk t v.toNat
    | none =>
      if t.again then ({ s with pwr := { s.pwr with tx := rest } }).pmbusLost t
      else { s with pwr := { s.pwr with tx := { t with again := true } :: rest } }

/-- `PMBUS_STATUS_POLL` (R298): every 100 ms the manager reads `STATUS_WORD` and `READ_TEMPERATURE_1`. -/
def State.pmbusPoll (s : State) : State :=
  if s.pwr.busOk then { s with pwr := (s.pwr.send 0x79 0).send 0x8D 0 } else s

/-- `PMBUS_RETRY_TIMER` (R300): while PMBus has failed, one `READ_VOUT` is retried. -/
def State.pmbusRetry (s : State) : State :=
  if s.pwr.pmb = 2 ∧ s.pwr.tx = [] then { s with pwr := s.pwr.send 0x8B 2 } else s

/-- `VR_ALERT` (R301): the forced move, and `STATUS_WORD` read ahead of every queued transaction. -/
def State.vrAlert (s : State) : State :=
  let w := { s.pwr.force0 with alertHold := false, active := setBit s.pwr.active 1 true, seen := setBit s.pwr.seen 1 true }
  if w.busOk then { s with pwr := { w with tx := w.tx.take 1 ++ [⟨0x79, 1, false⟩] ++ w.tx.drop 1 } }
  else { s with pwr := w }.alertNoStatus

/-- `VR_ALERT_RELEASE` (R301): the 10 ms hold begins. -/
def State.vrAlertRelease (s : State) : State :=
  { s with pwr := { s.pwr with alertHold := true } }

/-- `VR_ALERT_HOLD_EXPIRY` (R301, R312): after 10 ms of a high level the hold ends, and with it the reason. -/
def State.vrAlertHoldExpiry (s : State) : State :=
  if s.pins.vrAlertN ∧ s.pwr.alertHold then { s with pwr := { s.pwr with alertHold := false, active := setBit s.pwr.active 1 false } } else s

/-! ### Heat (R308-R311) -/

/-- Insert into an ascending list. -/
def insertInt (x : Int) : List Int → List Int
  | [] => [x]
  | y :: t => if x ≤ y then x :: y :: t else y :: insertInt x t

/-- Twice the median of a list of readings, exact: twice the middle one, or the sum of the two middle ones. -/
def median2 (l : List Int) : Int :=
  let t := l.foldl (fun a x => insertInt x a) []
  nth 0 t (t.length / 2) + nth 0 t ((t.length - 1) / 2)

/-- The group of a sensor (R308): its Burin, or the control region. [Log 75 DEDUCED] -/
def sensorGroup (i : Nat) : List Nat := (List.range 4).map fun j => i / 4 * 4 + j

/-- The physical lane or control region of sensor `i` is present in the build. -/
def State.sensorPresent (s : State) (i : Nat) : Bool := decide (i ≥ 40) || s.build.cfg.physLanes.contains (i / 4)

/-- A reading lies outside -40 to 150 degrees (R309). [Log 75 DEDUCED] -/
def readingOut (x : Int) : Bool := decide (x < -40 * 16) || decide (x > 150 * 16)

/-- The sensor's Burin has not failed: the sensors of a failed one are ignored (Table POWER-10). -/
def State.sensorUsed (s : State) (i : Nat) : Bool := decide (i ≥ 40) || !s.flt.failed.getLsbD (i / 4)

/-- The sensors that a sample shows to be invalid (R309): out of range, or more than 15 degrees from the median of their
group's valid sensors. -/
def State.newInvalid (s : State) (r : List Int) : List Nat :=
  (List.range 44).filter fun i =>
    let valid := fun j : Nat => (Tbl.find s.pwr.invalid j).isNone && !readingOut (nth 0 r j)
    s.sensorPresent i && s.sensorUsed i && (Tbl.find s.pwr.invalid i).isNone &&
      (readingOut (nth 0 r i) ||
        (let m := median2 (((sensorGroup i).filter valid).map fun j => nth 0 r j)
         decide ((2 * nth 0 r i - m).natAbs > 2 * 15 * 16)))

/-- The valid sensors of a state that are in service: a failed Burin's sensors are ignored (Table POWER-10). -/
def State.liveSensors (s : State) : List Nat :=
  (List.range 44).filter fun i => s.sensorPresent i && (Tbl.find s.pwr.invalid i).isNone && s.sensorUsed i

/-- `SENSOR_SAMPLE` (R308, R309, R311): validate every sensor, keep the interval's highest sample, and enter or leave the
thermal emergency. An injected sensor reading (R348, site 10) reads as 160 degrees. -/
def State.sensorSample (s : State) (readings : List Int) : State :=
  let r := match s.pwr.flawSensor with
    | some i => readings.set i (160 * 16)
    | none => readings
  let s := { s with pwr := { s.pwr with flawSensor := none } }
  let bad := s.newInvalid r
  let s := { s with pwr := { s.pwr with invalid := bad.foldl (fun t i => Tbl.set false t i true) s.pwr.invalid } }
  let s := s.raiseAll (bad.map fun i => ⟨9, 2, 61, i⟩)
  let live := s.liveSensors
  let top := live.foldl (fun (a : Option (Int × Nat)) i =>
    match a with
    | some (x, _) => if nth 0 r i > x then some (nth 0 r i, i) else a
    | none => some (nth 0 r i, i)) s.pwr.tjMax
  let s := { s with pwr := { s.pwr with tjMax := top } }
  match live.find? fun i => decide (nth 0 r i ≥ 115 * 16) with
  | some i =>
    if s.pwr.emerg then s
    else ({ s with pwr := { s.pwr.force0 with emerg := true, active := setBit s.pwr.active 2 true, seen := setBit s.pwr.seen 2 true } }).raise
      ⟨9, 2, 62, i⟩
  | none =>
    if s.pwr.emerg && live.all fun i => decide (nth 0 r i < 100 * 16) then
      { s with pwr := { s.pwr with emerg := false, thermal := some (0, 8) } }
    else s

/-! ### Ageing (R315-R318) -/

/-- The wear reference of a monitor at a point and a temperature (sixteenths of a degree): linear between 25 and 105
degrees (R315). -/
def wearReference (o : Otp) (mon p : Nat) (temp : Int) : Option Rat :=
  (Tbl.find o.wearRef (8 * mon + p)).map fun ab =>
    (ab.1 : Rat) + ((ab.2 : Rat) - (ab.1 : Rat)) * ((temp : Rat) / 16 - 25) / 80

/-- The drift of a reading (R315): measured / reference - 1. [Log 75 DEDUCED] -/
def wearDrift (o : Otp) (mon p ps : Nat) (temp : Int) : Option Rat :=
  (wearReference o mon p temp).bind fun ref => if ref = 0 then none else some ((ps : Rat) / ref - 1)

/-- Withdraw point `p` and every point above it (R318). -/
def Pwr.retire (w : Pwr) (p : Nat) : Pwr := { w with retired := w.retired.mapIdx fun i b => b || decide (i ≥ p) }

/-- Raise the offset of `p` by 5 mV, at most to 40 mV (R316); at the point in force the voltage is commanded at once,
as the voltage step of a raise. -/
def Pwr.raiseOfs (w : Pwr) (p : Nat) (quiet : Bool) : Pwr :=
  let w := { w with ofs := w.ofs.set p (min 40 (nth 0 w.ofs p + 5)), raiseHold := Tbl.put p 10 w.raiseHold, vset := some w.wordNow }
  if quiet || decide (w.op ≠ p) || w.raise.isSome || w.slewTo.isSome then w
  else if w.busOk then w.beginRaise p else w

/-! ### The fit of the energy model (R313) -/

/-- Subtract `f` times row `b` from row `a`. -/
def rowSub (a b : List Rat) (f : Rat) : List Rat := (a.zip b).map fun xy => xy.1 - f * xy.2

/-- One pivot of the Gauss-Jordan elimination of an augmented matrix: column `c`, rows not yet used `todo`, rows done. None when
the column has no pivot. -/
def pivot (c : Nat) (todo done : List (List Rat)) : Option (List (List Rat) × List (List Rat)) :=
  match todo.find? fun r => decide (nth 0 r c ≠ 0) with
  | none => none
  | some r =>
    let p := nth 0 r c
    let r := r.map fun x => x / p
    let clear := fun l : List (List Rat) => l.map fun q => rowSub q r (nth 0 q c)
    some (clear (todo.erase (r.map fun x => x * p)), clear done ++ [r])

/-- Solve an augmented square system; none when it is singular. [Log 84 DESIGN CHOICE] -/
def solveRows : Nat → Nat → List (List Rat) → List (List Rat) → Option (List Rat)
  | 0, c, _, done => some (done.map fun r => nth 0 r c)
  | n + 1, c, todo, done =>
    match pivot c todo done with
    | some (t, d) => solveRows n (c + 1) t d
    | none => none

/-- The normal equations of the least-squares fit over the samples, augmented. [Log 84 DESIGN CHOICE] -/
def normalRows (l : List FitSample) : List (List Rat) :=
  (List.range 7).map fun i =>
    ((List.range 7).map fun j => ratSum (l.map fun x => nth 0 x.x i * nth 0 x.x j)) ++ [ratSum (l.map fun x => nth 0 x.x i * x.mj)]

/-- The estimate of a sample by coefficients. -/
def FitSample.estimate (x : FitSample) (coef : List Rat) : Rat := ratSum ((coef.zip x.x).map fun cx => cx.1 * cx.2)

/-- `ENERGY_MODEL_FIT` (R313): once per second the coefficients are fitted by least squares, and the model is calibrated when
its estimate lies within 5 % of the measured energy. Where the fit has no unique solution the coefficients are free
values: the spec does not say which solution is taken. [Log 84 DESIGN CHOICE] -/
def State.energyModelFit (s : State) : State :=
  let w := s.pwr
  if !w.busOk || decide (w.samples = []) then s
  else
    let sol := solveRows 7 0 (normalRows w.samples) []
    let coef := sol.getD ((List.range 7).map fun i => Config.freeRat (s.free + i))
    let est := ratSum (w.samples.map fun x => x.estimate coef)
    let mea := ratSum (w.samples.map (·.mj))
    let ok := decide (est - mea ≤ mea / 20) && decide (mea - est ≤ mea / 20)
    let s := if sol.isNone then { s with free := s.free + 7 } else s
    { s with pwr := { w with coef := if ok then coef else w.coef, cal := ok } }

/-! ### Activity windows (R172, R173) -/

/-- `ACTIVITY_WINDOW` (R172, R173): the level of the next window: one step towards the work presented, the duty limit, and no
issue during a thermal emergency (R311). The window's filler is counted, and its time under `RAMP` while the level lies below the work that may issue, or
above it (R173, R313). -/
def State.activityWindow (s : State) (p work : Nat) : State :=
  let w := s.pwr
  let top := if w.emerg then 0 else min work w.duty
  let l0 := (s.lane p).level
  let level := if l0 < top then l0 + 1 else if l0 > top then l0 - 1 else l0
  let s := s.modLane p fun l => { l with level := level }
  let n := windowCycles w.windowOp
  let filler := n * level / 8 - n * top / 8
  let s := if filler = 0 then s else s.tallyBlock fillerClass filler
  if level = top then s
  else
    let d : Rat := (n : Rat) * 1000 / w.mhz
    let keys := match s.runsOn p with
      | some c => (131072 + c) :: ((s.phaseOf c).map (65536 + ·)).toList
      | none => []
    let w := s.pwr.accrueTo keys (fun k => decide (k = 3)) d
    { s with pwr := { w with act := { w.act with rampNs := w.act.rampNs + d } } }

/-! ### Mailbox commands of the power manager -/

/-- `PHASE_POINT` (R303, Table CTRL-18): set or remove the preferred point of a phase. -/
def phasePointBody (s : State) (p : Nat → Nat) : Ans :=
  let point := bits (p 0) 11 8
  let ph := bits (p 0) 5 0
  if bits (p 0) 31 12 ≠ 0 ∨ bits (p 0) 7 6 ≠ 0 ∨ (8 ≤ point ∧ point ≤ 14) then Ans.err s 2
  else
    let prefs := if point = 15 then Tbl.drop ph s.pwr.prefs else Tbl.put ph point s.pwr.prefs
    Ans.ok { s with pwr := { s.pwr with prefs := prefs } } []

/-- `POWER_CAP` (R304, R306): set the cap and clip the energy history. -/
def powerCapBody (s : State) (p : Nat → Nat) : Ans :=
  let mw := bits (p 0) 15 0
  let r := s.build.cfg.capRange
  if bits (p 0) 31 16 ≠ 0 then Ans.err s 2
  else if mw < r.1 ∨ mw > r.2.1 then Ans.err s 3
  else
    let e : Rat := (mw : Rat) / 1000
    Ans.ok { s with pwr := { s.pwr with cap := mw, hist := s.pwr.hist.map fun x => if x ≤ e then x else e } } [mw]

/-- Energy in uJ, as a 64-bit number of two words. -/
def ujWords (mj : Rat) : List Nat :=
  let u := (mj * 1000).floor.toNat % 2 ^ 64
  [u % 2 ^ 32, u / 2 ^ 32]

/-- `ENERGY_READ` (R314, R257): energy, span, calibration and throttle durations of the block, a phase or a stream. -/
def energyReadBody (s : State) (p : Nat → Nat) : Ans :=
  let sel := bits (p 0) 31 16
  let scope := bits (p 0) 1 0
  let w := s.pwr
  let key := if scope = 0 then 0 else scope * 65536 + sel
  let finish := fun (mj : Rat) (span : Nat) =>
    let cur := Tbl.get [] w.scopeDur key
    let old := Tbl.get [] w.marks key
    let durs := durUs ((List.range 6).map fun k => nth 0 cur k - nth 0 old k)
    Ans.ok { s with pwr := { w with marks := Tbl.put key cur w.marks } }
      (ujWords mj ++ [span % 2 ^ 32, span / 2 ^ 32 % 2 ^ 32, if w.cal then 1 else 0] ++ durs)
  if bits (p 0) 15 2 ≠ 0 ∨ scope = 3 then Ans.err s 2
  else if scope = 0 then finish w.total s.now
  else if scope = 1 then
    if sel > 63 then Ans.err s 3 else finish (if w.cal then Tbl.get 0 w.byPhase sel else 0) s.now
  else match s.stream sel with
    | none => Ans.err s 7
    | some x => finish (if w.cal then x.energy else 0) ((s.now + 2 ^ 64 - x.boundAt) % 2 ^ 64)

end Sys2Proof.Machine
end

