-- ==== Sys2Proof/Machine/Crc.lean ====
section
/-! DEFINITION. The check values: CRC-32C (R382) and the CRC-16 of scale blocks (R183). -/
namespace Sys2Proof

/-- One bit of the reflected Castagnoli division; 0x82F6_3B78 is 0x1EDC_6F41 reflected (R382). -/
def crc32cBit (c : Nat) : Nat := if c % 2 = 1 then (c / 2) ^^^ 0x82F63B78 else c / 2

/-- `n` bits of the division. -/
def crc32cBits : Nat → Nat → Nat
  | 0, c => c
  | n + 1, c => crc32cBits n (crc32cBit c)

/-- The running CRC-32C register over a byte list. -/
def crc32cRun : Nat → List Byte → Nat
  | c, [] => c
  | c, b :: bs => crc32cRun (crc32cBits 8 (c ^^^ b.toNat)) bs

/-- CRC-32C: initial value and final XOR 0xFFFF_FFFF (R382). -/
def crc32c (bs : List Byte) : Nat := crc32cRun 0xFFFFFFFF bs ^^^ 0xFFFFFFFF

/-- One bit of the CCITT division, most significant bit first (R183). -/
def crc16Bit (c : Nat) : Nat := if c ≥ 32768 then ((c * 2) % 65536) ^^^ 0x1021 else (c * 2) % 65536

/-- `n` bits of the division. -/
def crc16Bits : Nat → Nat → Nat
  | 0, c => c
  | n + 1, c => crc16Bits n (crc16Bit c)

/-- CRC-16 with polynomial 0x1021 and initial value 0xFFFF (R183). -/
def crc16 (bs : List Byte) : Nat := bs.foldl (fun c b => crc16Bits 8 (c ^^^ (b.toNat * 256))) 0xFFFF

end Sys2Proof
end

