-- ==== Sys2Proof/Machine/Link.lean ====
section
/-! DEFINITION. Peer-link egress: frames (Tables LINK-2, LINK-3), the window and the retry buffer (R270-R273), the framer (R278). -/
namespace Sys2Proof.Machine

/-- `n` zero bytes. -/
def zeros (n : Nat) : List Byte := List.replicate n 0

/-- The transport header (Table LINK-2); `spec` fills bytes 16 to 47. [Log 21 PRESUMED] -/
def linkHeader (l : Link) (type seq tag plen : Nat) (nak poison : Bool) (spec : List Byte) : List Byte :=
  [BitVec.ofNat 8 (16 + type), BitVec.ofNat 8 ((if nak then 1 else 0) + (if poison then 2 else 0))] ++ toBytes seq 2 ++
    toBytes l.rcv.toNat 2 ++ toBytes l.cmp.toNat 2 ++ toBytes tag 2 ++ toBytes plen 2 ++ toBytes l.trains.toNat 2 ++ zeros 2 ++
    (spec ++ zeros (32 - spec.length)) ++ zeros 2

/-- A whole transport frame (R270): Ethernet header, transport header, payload, `FCRC`. The MAC addresses leave least
significant byte first; the EtherType leaves in the IEEE 802.3 order. -/
def linkFrame (l : Link) (type seq tag : Nat) (nak poison : Bool) (spec payload : List Byte) (badCrc : Bool) : List Byte :=
  let h := linkHeader l type seq tag payload.length nak poison spec
  let c := crc32c (h ++ payload)
  toBytes l.dmac.toNat 6 ++ toBytes l.smac.toNat 6 ++ toBytesBE l.etype.toNat 2 ++ h ++ payload ++
    toBytes (if badCrc then c ^^^ 0xFFFFFFFF else c) 4

/-- An `ACK` waits for the MAC-side output, with `NAK` or without (R272). -/
def State.sendAck (s : State) (nak : Bool) : State :=
  let s := { s with link := { s.link with ackQ := s.link.ackQ ++ [nak] } }
  if nak then s.linkBump 3 1 else s

/-- A `TRAIN` frame waits for the MAC-side output: `op` 0 HELLO, 1 PROBE, 2 BYE. -/
def State.sendTrain (s : State) (op : Nat) : State := { s with link := { s.link with txQ := s.link.txQ ++ [.train op] } }

/-- The payload of a `PROBE` (Table LINK-3). -/
def probePayload : List Byte := (List.range 8192).map fun i => BitVec.ofNat 8 (i % 251)

/-- The bytes of a `TRAIN` frame that begins now (Table LINK-3). -/
def State.trainFrame (s : State) (op : Nat) : List Byte :=
  let l := s.link
  let spec := [BitVec.ofNat 8 op, if l.reducedNow then 1 else 0, 0, 0] ++ toBytes l.trains.toNat 2 ++ toBytes l.peerCtr.toNat 2 ++ toBytes l.peerIntact 4
  linkFrame l 7 0 0 false s.flt.safe spec (if op = 1 then probePayload else []) false

/-- Send one sequenced frame (R271, R273): it takes the next number and a slot of the retry buffer, and waits for the MAC-side output. The
frame that a `STATUS` names learns the number the report has taken (R272). -/
def State.sendSeq (s : State) (f : TxFrame) : State :=
  let l := s.link
  let n := l.seq.toNat
  let reads := if f.type = 3 then Tbl.filterMapVal (fun r (q : PeerRead) => some (if r = fieldLE f.spec 8 2 then { q with seq := n } else q)) l.reads else l.reads
  let rx := if f.type = 6 then l.rx.map fun (r : RxFrame) => if r.seq = fieldLE f.spec 0 2 && r.uid / 65536 = l.trains.toNat then { r with statusSeq := some n } else r else l.rx
  let s := { s with link := { l with seq := l.seq + 1, retry := Tbl.put n f l.retry, txQ := l.txQ ++ [TxItem.seq n false], reads := reads, rx := rx } }
  (s.linkBump 0 1).linkBump 9 (if f.type = 6 then 1 else 0)

/-- The window of R271 allows the next sequenced frame. -/
def Link.window (l : Link) : Bool := decide ((l.seq - l.peerCmp).toNat ≤ 256)

/-- A cell of a frame fails its check in the framer: the frame is withheld (Table ARCH-4, kind 43) and counted, and its transfer ends in
error (R334). [Log 68 DEDUCED] -/
def State.withhold (s : State) (f : TxFrame) : State :=
  let sti := if f.type = 1 then fieldLE f.spec 0 2 else (Config.freeWord s.free).toNat % 65536
  let s := { s with link := { s.link with flawCell := false }, free := if f.type = 1 then s.free else s.free + 1 }
  let s := (s.linkBump 15 1).raise ⟨5, 0, 43, s.link.seq.toNat * 2 ^ 30 + sti⟩
  f.owners.foldl (fun s o => s.modXfer o.sctx o.xfer fun t => { t with outstanding := t.outstanding - o.n, err := some (t.err.getD .fail) }) s

/-- Send what waits in egress, oldest first, while the window allows; `fuel` bounds the frames sent. -/
def State.pumpN : Nat → State → State
  | 0, s => s
  | n + 1, s =>
    match s.link.waitQ with
    | [] => s
    | f :: rest =>
      if s.link.window && s.link.up then
        let s := { s with link := { s.link with waitQ := rest } }
        State.pumpN n (if s.link.flawCell && decide (f.payload ≠ []) then s.withhold f else s.sendSeq f)
      else s

/-- Send everything the window allows. -/
def State.pump (s : State) : State := s.pumpN s.link.waitQ.length

/-- The `WRITE` frame of the cells the framer holds (Table LINK-3). -/
def OpenWrite.frame (o : OpenWrite) : TxFrame :=
  { type := 1
    tag := o.tag
    spec := toBytes o.sti 4 ++ toBytes o.first 4 ++ toBytes o.fbe.toNat 8 ++ toBytes o.lbe.toNat 8
    payload := o.cells.flatten
    poison := o.poison
    owners := o.owners }

/-- Close the open `WRITE` frame into egress (R278). -/
def State.closeWrite (s : State) : State :=
  match s.link.open_ with
  | none => s
  | some o => ({ s with link := { s.link with open_ := none, waitQ := s.link.waitQ ++ [o.frame] } }).pump

/-- Place a sequenced frame in egress. A relayed add and narrow rows follow every cell written before them (R229, R278); other frames pass the
cells that the framer still holds. [Log 88 DESIGN CHOICE] -/
def State.egress (s : State) (f : TxFrame) : State :=
  let s := if f.type = 5 ∨ f.type = 2 then s.closeWrite else s
  ({ s with link := { s.link with waitQ := s.link.waitQ ++ [f] } }).pump

/-- All bytes of a cell are enabled. [Log 21 PRESUMED] -/
def beAll : BitVec 64 := BitVec.allOnes 64

/-- The next cell continues the open frame (R278). Cells between the first and the last are whole, and a frame is poisoned as a whole (Table
LINK-2, Table LINK-3). [Log 88 DESIGN CHOICE] -/
def OpenWrite.takes (o : OpenWrite) (phys tag sti idx : Nat) (poison : Bool) : Bool :=
  decide (o.phys = phys) && decide (o.tag = tag) && decide (o.sti = sti) && decide (idx = o.first + o.cells.length) &&
    decide (o.cells.length < 128) && (decide (o.cells.length = 1) || decide (o.lbe = beAll)) && decide (o.poison = poison)

/-- One more cell of a transfer in a frame. -/
def addOwner (l : List FrameOwner) (o : FrameOwner) : List FrameOwner :=
  match l.getLast? with
  | some q => if q.phys = o.phys ∧ q.sctx = o.sctx ∧ q.xfer = o.xfer then l.dropLast ++ [{ q with n := q.n + o.n }] else l ++ [o]
  | none => [o]

/-- The framer opens a frame with a cell. -/
def State.openFrame (s : State) (o : FrameOwner) (tag sti idx : Nat) (data : List Byte) (be : BitVec 64) (poison : Bool) : State :=
  { s with link := { s.link with open_ := some ⟨o.phys, tag, sti, idx, [data], be, be, poison, [o]⟩ } }

/-- One cell of a lane's write to the peer reaches the framer (R278). -/
def State.frameCell (s : State) (phys sctx xfer tag sti idx : Nat) (data : List Byte) (be : BitVec 64) (poison : Bool) : State :=
  let own : FrameOwner := ⟨phys, sctx, xfer, 1⟩
  match s.link.open_ with
  | some o =>
    if o.takes phys tag sti idx poison then
      let o' := { o with cells := o.cells ++ [data], lbe := be, owners := addOwner o.owners own }
      let s := { s with link := { s.link with open_ := some o' } }
      if o'.cells.length = 128 then s.closeWrite else s
    else s.closeWrite.openFrame own tag sti idx data be poison
  | none => s.openFrame own tag sti idx data be poison

/-- A relayed add leaves for peer Halyard `i` (R229), or is discarded and counted while the link is down. -/
def State.relayAdd (s : State) (i a : Nat) : State :=
  if s.link.up then s.egress ⟨5, 0, toBytes i 4 ++ toBytes a 4, [], false, []⟩ else s.linkBump 10 1

/-- The frames sent and not covered by `RCV`, oldest first: from `RCV` + 1 to the last sent (R273). -/
def Link.unreceived (l : Link) : List Nat :=
  (List.range (l.seq - l.peerRcv - 1).toNat).map fun i => (l.peerRcv.toNat + 1 + i) % 65536

/-- Some frame that has been sent is not covered by `RCV`: the retry timer runs (R273). -/
def Link.sentOpen (l : Link) : Bool := l.unreceived.any fun n => !l.txQ.contains (.seq n false)

/-- Resend every sent frame from `RCV` + 1 onward (R273): after the frame in progress they leave again in order, before the frames that have
not been sent yet. -/
def State.resend (s : State) : State :=
  let l := s.link
  let fresh := fun n => l.txQ.contains (.seq n false)
  let rest := l.txQ.filter fun x => match x with
    | .train _ => true
    | .seq .. => false
  { s with link := { l with txQ := rest ++ l.unreceived.map fun n => .seq n (!fresh n) } }

/-- Relayed adds among frames. -/
def haddCount (l : List TxFrame) : Nat := (l.filter fun f => decide (f.type = 5)).length

/-- Relayed adds the peer has not acknowledged (R231): those in the retry buffer that `CMP` does not cover, and those waiting. -/
def Link.unackedAdds (l : Link) : Nat := haddCount (l.retry.map (·.2)) + haddCount l.waitQ

end Sys2Proof.Machine
end

