-- ==== Sys2Proof/Machine/Halyard.lean ====
section
/-! DEFINITION. The Halyard unit (R215-R231, R242): adds, sets, initialisation, event lines. -/
namespace Sys2Proof.Machine

/-- An add of `a` in the mode of the Halyard (R217, R218). -/
def HalWord.add (h : HalWord) (a : Nat) : HalWord :=
  if h.barrier ∧ h.target ≠ 0 then
    let x := h.count.toNat + a
    { h with count := BitVec.ofNat 16 (x % h.target.toNat), gen := h.gen + BitVec.ofNat 16 (x / h.target.toNat) }
  else { h with count := h.count + BitVec.ofNat 16 a }

/-- A set of `c` (R217, R218): in barrier mode a set to 0 followed by an add of `c`. -/
def HalWord.setTo (h : HalWord) (c : Nat) : HalWord :=
  if h.barrier then HalWord.add { h with count := 0 } c else { h with count := BitVec.ofNat 16 c }

/-- A Halyard's word. -/
def State.hword (s : State) (i : Nat) : HalWord := Tbl.get HalWord.zero s.hal.words i

/-- The value a read of a Halyard returns: generation and count (Table SYNC-6). -/
def HalWord.value (h : HalWord) : Nat := h.gen.toNat * 65536 + h.count.toNat

/-- Replace a Halyard's word. -/
def State.setHword (s : State) (i : Nat) (h : HalWord) : State :=
  { s with hal := { s.hal with words := Tbl.set HalWord.zero s.hal.words i h } }

/-- The Halyard exists (R215). -/
def State.halExists (s : State) (i : Nat) : Bool := decide (i < s.build.cfg.halyards)

/-- A Halyard an uncorrectable error has made unusable (R242, R334). -/
def State.halDead (s : State) (i : Nat) : Bool := Tbl.get false s.hal.unusable i

/-- What a read or an update finds in the Halyard's storage (R242): a single bit in error is corrected and logged; more make the
Halyard unusable. -/
def State.halCheck (s : State) (i : Nat) : State :=
  match Tbl.get 0 s.hal.upset i with
  | 0 => s
  | 1 => ({ s with hal := { s.hal with upset := Tbl.drop i s.hal.upset } }).raise ⟨6, i / 1024, 47, i⟩
  | _ => ({ s with hal := { s.hal with upset := Tbl.drop i s.hal.upset, unusable := Tbl.put i true s.hal.unusable } }).raise ⟨6, i / 1024, 48, i⟩

/-! ### Grants (R237, R238) -/

/-- The handle a side names for this stream: the one substituted for its base slot, else its own (R102). -/
def Stream.handleOf (x : Stream) (d : Side) : Nat := (Tbl.find x.subst d.slot).getD d.handle

/-- Member `m`'s grant (R237): its credit Halyard has reached the value needed. [Log 42 DEDUCED] -/
def State.memberGrants (s : State) (m : Member) : Bool :=
  !s.halDead m.credit && reached16 (s.hword m.credit).count.toNat ((m.v + m.j + 1 + 65536 - m.depth) % 65536)

/-- Transfer `t` of stream `c` is ready to write to a Bunting and waits for its grants while the stream runs on its lane (R238). -/
def State.awaitsGrant (s : State) (c : Nat) (x : Stream) (t : Transfer) : Bool :=
  t.party.isSome && !t.granted && decide (x.st = .active) && (match s.physOf x.lane with
    | some p => decide ((s.lane p).stops = []) && (s.lane p).queue.any fun e => decide (e.sctx = c) && e.begun && !e.ended
    | none => false)

/-- A member of the transfer's Bunting grants it. -/
def State.someGrant (s : State) (x : Stream) (t : Transfer) : Bool :=
  match Tbl.find s.fw.buntings (x.handleOf t.rs.wr) with
  | some b => (t.party.getD []).any fun i => (b.members[i]?.map s.memberGrants).getD false
  | none => false

/-- Transfer `t` of stream `c`, its skew timer started once a member has granted. -/
def State.skewed (s : State) (c : Nat) (x : Stream) (t : Transfer) : Transfer :=
  if s.awaitsGrant c x t && t.skewFrom.isNone && s.someGrant x t then { t with skewFrom := some s.now } else t

/-- After an update of a Halyard, the skew timer starts of every ready transfer to which a member's first grant has just come (R238). -/
def State.armSkew (s : State) : State :=
  { s with fw := { s.fw with streams := s.fw.streams.map fun e => (e.1, { e.2 with xfers := e.2.xfers.map (s.skewed e.1 e.2) }) } }

/-! ### Updates -/

/-- An add to Halyard `i` (R217, R218, R229): applied in the Halyard's mode, and sent on when its relay is on and the add is
not itself from the peer. [Log 10 DESIGN CHOICE] -/
def State.halAdd (s : State) (i a : Nat) (fromPeer : Bool) : State :=
  let s := s.halCheck i
  if s.halDead i then { s with hal := { s.hal with discarded := s.hal.discarded + 1 } }
  else
    let h := s.hword i
    let s := (s.setHword i (h.add a)).armSkew
    if h.relay && !fromPeer then s.relayAdd h.peer.toNat a else s

/-- The value of Halyard `i` comes from no Pennant any more: it orders no stream's writes. [Log 10 DESIGN CHOICE] -/
def State.forgetOrder (s : State) (i : Nat) : State := { s with hal := { s.hal with knows := Tbl.drop i s.hal.knows } }

/-- A set of Halyard `i` (R217, R218); never relayed. [Log 10 DESIGN CHOICE] -/
def State.halSet (s : State) (i c : Nat) : State :=
  let s := s.halCheck i
  if s.halDead i then s else ((s.setHword i ((s.hword i).setTo c)).forgetOrder i).armSkew

/-- Later writes of each stream known to be complete. -/
def joinKnown (a b : Tbl Nat) : Tbl Nat := b.foldl (fun t e => if Tbl.get 0 t e.1 < e.2 then Tbl.put e.1 e.2 t else t) a

/-- Stream `c` posts to Halyard `i` (R34, R67): who observes the value knows the stream's writes, and those it knows itself. -/
def State.postOrder (s : State) (c i : Nat) : State :=
  match s.stream c with
  | none => s
  | some x =>
    let k := Tbl.put x.uid s.plate.clock (joinKnown (Tbl.get [] s.hal.knows i) x.knows)
    { s with hal := { s.hal with knows := Tbl.put i k s.hal.knows } }

/-- Stream `c` has observed Halyard `i` (R67). -/
def State.learnOrder (s : State) (c i : Nat) : State :=
  s.modStream c fun x => { x with knows := joinKnown x.knows (Tbl.get [] s.hal.knows i) }

/-- The selected half of a Halyard meets a condition (R94): the target, and whether it is reached. -/
def State.halMeets (s : State) (c : HalCond) (cursors : List (BitVec 16)) : Nat × Bool :=
  let t := if c.rel then ((nth 0 cursors c.cur).toNat + c.value) % 65536 else c.value
  let h := s.hword c.hal
  (t, !s.halDead c.hal && reached16 (if c.gen then h.gen.toNat else h.count.toNat) t)

/-- One Halyard's initialisation (R220, R221): count, generation and attributes at once; the Halyard is usable again (R334). -/
def State.halInit (s : State) (i : Nat) (h : HalWord) (line : Option Nat) : State :=
  let bind := s.hal.evBind.filter fun e => decide (e.2 ≠ i)
  let bind := match line with
    | some k => Tbl.put k i bind
    | none => bind
  let s := s.setHword i h
  { s with hal := { s.hal with evBind := bind, unusable := Tbl.drop i s.hal.unusable, upset := Tbl.drop i s.hal.upset, knows := Tbl.drop i s.hal.knows } }.armSkew

/-- Initialise `n` Halyards from `first` on, in ascending order (R220). -/
def halInitRange (h : Nat → HalWord) (line : Option Nat) : Nat → Nat → State → State
  | 0, _, s => s
  | n + 1, k, s => halInitRange h line n (k + 1) (s.halInit k (h k) line)

/-- `HALYARD_INIT` (R219, Table SYNC-2). -/
def halyardInitBody (s : State) (p : Nat → Nat) : Ans :=
  let num := bits (p 0) 31 16
  let first := bits (p 0) 15 0
  let mode := bits (p 2) 31 30
  let relay := bitOn (p 2) 29
  let evin := bits (p 2) 22 16
  let target := bits (p 2) 15 0
  let peer := bits (p 3) 15 0
  let cnt := bits (p 1) 15 0
  if bits (p 2) 28 23 ≠ 0 ∨ bits (p 3) 31 16 ≠ 0 ∨ mode > 1 then Ans.err s 2
  else if num = 0 ∨ first + num > s.build.cfg.halyards then Ans.err s 3
  else if relay ∧ peer + num > 32768 then Ans.err s 3
  else if mode = 1 ∧ (target = 0 ∨ cnt ≥ target) then Ans.err s 2
  else if mode = 0 ∧ target ≠ 0 then Ans.err s 2
  else if (evin ≠ 0 ∧ num > 1) ∨ evin > 64 then Ans.err s 2
  else
    let h := fun k : Nat => (⟨BitVec.ofNat 16 cnt, BitVec.ofNat 16 (bits (p 1) 31 16), decide (mode = 1), BitVec.ofNat 16 target, relay,
      if relay then BitVec.ofNat 15 (peer + (k - first)) else 0⟩ : HalWord)
    Ans.ok (halInitRange h (if evin = 0 then none else some (evin - 1)) num first s) []

/-- The control port serves the Halyard window: the block is started (R354) and the Halyard exists (R224). -/
def State.halWindow (s : State) (n : Nat) : Bool := s.alive && s.halExists n

/-- `HALYARD_ADD` (R224, R225): a window write with `OP` 0. Bits [29:16] must be 0; an add of 0 changes nothing. -/
def execHalyardAdd (n : BitVec 15) (v : BitVec 30) (s : State) : Out :=
  gated s fun s => if s.halWindow n.toNat ∧ v.toNat < 65536 ∧ v.toNat ≠ 0 then s.halAdd n.toNat v.toNat false else s

/-- `HALYARD_SET` (R224, R225): a window write with `OP` 1. -/
def execHalyardSet (n : BitVec 15) (v : BitVec 30) (s : State) : Out :=
  gated s fun s => if s.halWindow n.toNat ∧ v.toNat < 65536 then s.halSet n.toNat v.toNat else s

/-- Entries of the event-in crossing (Table ARCH-6). -/
def evInRoom : Nat := 32

/-- The events of a sample, in ascending line order (R390): each enters the crossing, or sets the line's overflow bit when no entry is free. -/
def State.evEnter (s : State) (events : BitVec 64) : State :=
  ((List.range 64).filter fun k => events.getLsbD k).foldl (fun s k =>
    if s.hal.evInQ.length < evInRoom then { s with hal := { s.hal with evInQ := s.hal.evInQ ++ [k] } }
    else { s with time := { s.time with evOvf := setBit s.time.evOvf k true } }) s

/-- The Halyard unit takes an entry of the crossing (R228): an add of 1 to the Halyard bound to the line, or none. -/
def State.evApply (s : State) (k : Nat) : State :=
  match Tbl.find s.hal.evBind k with
  | some i => s.halAdd i 1 false
  | none => s

/-- The Halyard unit takes the `n` oldest entries of the crossing. -/
def State.evTake (s : State) (n : Nat) : State :=
  (s.hal.evInQ.take n).foldl State.evApply { s with hal := { s.hal with evInQ := s.hal.evInQ.drop n } }

/-- `EV_IN` (R228, R390): one CCLK sample of the lines. A 0 followed by a 1 is an event; the Halyard unit then takes entries until no more than `left`
wait. [Log 82 DEDUCED] -/
def execEvIn (lines : BitVec 64) (left : Fin 33) (s : State) : Out :=
  onPin s (fun p => { p with evIn := lines }) fun t =>
    if !t.alive then t
    else
      let u := t.evEnter (lines &&& ~~~s.pins.evIn)
      u.evTake (u.hal.evInQ.length - left.val)

/-- `EV_OUT_PULSE` (R227, Table FAULT-7): one CCLK cycle of the event-out logic. It takes one entry, and `pins.evOut` shows its line for the
cycle; the line stays low in the safe state, in a cycle without an entry, and in the cycle between two entries of one line. [Log 82 DEDUCED] -/
def execEvOutPulse (s : State) : Out :=
  running s fun s =>
    match s.hal.evOutQ with
    | [] => { s with pins := { s.pins with evOut := 0 } }
    | k :: rest =>
      if s.pins.evOut.getLsbD k.toNat then { s with pins := { s.pins with evOut := 0 } }
      else { s with
        hal := { s.hal with evOutQ := rest }
        pins := { s.pins with evOut := if s.flt.safe then 0 else setBit 0 k.toNat true } }

end Sys2Proof.Machine
end

