-- ==== Sys2Proof/Machine/TimeUnit.lean ====
section
/-! DEFINITION. The time unit (R285-R287, R291-R293): the counter, PTP time, triggers and captures. -/
namespace Sys2Proof.Machine

/-- One TCLK tick (R285, R286): an increment and an offset that wait take force, then `NS_CNT` advances. [Log 11 DESIGN CHOICE] -/
def Time.tick (t : Time) : Time :=
  let t := if t.incPending then { t with incPending := false, curInt := t.incInt, curFrac := t.incFrac } else t
  let t := match t.ofsPending with
    | some (ns, sec) => { t with ofsPending := none, curOfsNs := ns, curOfsSec := sec }
    | none => t
  if t.run then
    let sum := t.frac.toNat + t.curFrac.toNat
    { t with frac := BitVec.ofNat 32 sum, ns := t.ns + BitVec.ofNat 64 (t.curInt.toNat + sum / 2 ^ 32) }
  else t

/-- The total of R286: `NS_CNT` plus the offset in force. -/
def Time.ptpTotal (t : Time) : Nat := t.ns.toNat + t.curOfsSec * 1000000000 + t.curOfsNs

/-- The block is unavailable (R346): in the safe state, in a warm restart, or with no logical lane in service. -/
def State.unavailable (s : State) : Bool :=
  s.flt.safe || s.flt.restarting || decide (s.fw.laneMap = [])

/-- What a tick does to the clock: the time unit advances, time out of service is counted while attached (R346), and throttle durations
accrue (R312). [Log 11 DESIGN CHOICE] -/
def State.timeTick (s : State) : State :=
  let t := s.time.tick
  let d := (t.ns - s.time.ns).toNat
  { s with time := t, flt := if s.fw.attached && s.unavailable then { s.flt with downNs := s.flt.downNs + d } else s.flt }.accrue d

/-- `INC_FRAC_WRITE` (R285): the write stores the fraction; the new increment applies from the next tick. -/
def State.incFracWrite (s : State) (w : Word) : State :=
  { s with time := { s.time with incFrac := w, incPending := true } }

/-- `INC_FRAC_WRITE`. -/
def execIncFracWrite (w : Word) (s : State) : Out := running s fun s => s.incFracWrite w

/-- `OFS_APPLY` (R286): a write of 1 puts the staged offset in force at the next tick, unless `OFS_NS` is out of range. -/
def State.ofsApply (s : State) (w : Word) : State :=
  if w.getLsbD 0 ∧ s.time.ofsNs.toNat ≤ 999999999 then
    { s with time := { s.time with ofsPending := some (s.time.ofsNs.toNat, s.time.ofsLo.toNat + s.time.ofsHi.toNat * 2 ^ 32) } }
  else s

/-- `OFS_APPLY`. -/
def execOfsApply (w : Word) (s : State) : Out := running s fun s => s.ofsApply w

/-- `NS_LO_READ` (R286, R287): sample `NS_CNT` and the PTP time. -/
def execNsLoRead (s : State) : Out :=
  running s fun s =>
    let t := s.time
    { s with time := { t with
        smpNs := t.ns
        smpPtpNs := BitVec.ofNat 30 (t.ptpTotal % 1000000000)
        smpPtpSec := BitVec.ofNat 48 (t.ptpTotal / 1000000000) } }

/-- `CAP_IN_EDGE` (R293): a selected edge stores `NS_CNT` less two increments, or sets the overflow bit. -/
def execCapInEdge (n : Fin 8) (rising : Bool) (s : State) : Out :=
  onPin s (fun p => { p with capIn := setBit p.capIn n.val rising }) fun s =>
    let t := s.time
    let sel := bits t.capcfg.toNat (2 * n.val + 1) (2 * n.val)
    if !s.alive || !bitOn sel (if rising then 0 else 1) then s
    else if t.capValid.getLsbD n.val then { s with time := { t with capOvf := setBit t.capOvf n.val true } }
    else { s with time := { t with
        capValid := setBit t.capValid n.val true
        cap := Tbl.put n.val (t.ns - BitVec.ofNat 64 (2 * t.incInt.toNat)) t.cap } }

/-! ### Triggers (R291, R292, R407) -/

/-- A trigger setting as it takes effect at a tick whose predecessor read `now` (R292): passed firings but the latest are
skipped and use up their places; the latest passed firing is made at once, late. -/
def armTrigger (now time period nrep out : Nat) : Trig :=
  let unlimited := decide (nrep = 0) && decide (period ≠ 0)
  let passed := reached64 now time
  let behind := (now + 2 ^ 64 - time) % 2 ^ 64
  let k := if passed ∧ period ≠ 0 then (if unlimited then behind / period else min (behind / period) nrep) else 0
  { next := BitVec.ofNat 64 (time + k * period), period := period, left := if unlimited then none else some (nrep - k), out := out, late := passed }

/-- `TRIGGER_SET` (Table LINK-13): every word but P0 is used whole; `CANCEL` = 1 is the row `TRIGGER_CANCEL`. -/
def triggerSetBody (s : State) (p : Nat → Nat) : Ans :=
  let cancel := bitOn (p 0) 16
  let out := bits (p 0) 12 8
  let k := bits (p 0) 4 0
  let time := p 1 + p 2 * 2 ^ 32
  let period := p 3
  let nrep := bits (p 4) 15 0
  if bits (p 0) 31 17 ≠ 0 ∨ bits (p 0) 15 13 ≠ 0 ∨ bits (p 0) 7 5 ≠ 0 ∨ bits (p 4) 31 16 ≠ 0 ∨ out > 16 ∨
      (cancel ∧ (out ≠ 0 ∨ time ≠ 0 ∨ period ≠ 0 ∨ nrep ≠ 0)) ∨ (nrep ≠ 0 ∧ period = 0) then Ans.err s 2
  else if period ≠ 0 ∧ period < 1000 then Ans.err s 3
  else if cancel then
    if (Tbl.find s.time.trig k).isNone then Ans.err s 7
    else Ans.ok { s with time := { s.time with trig := Tbl.drop k s.time.trig } } []
  else Ans.ok { s with time := { s.time with trig := Tbl.put k (armTrigger s.now time period nrep out) s.time.trig } } []

/-- The run of a stream is in progress (R407): Active or Held. -/
def Stream.inRun (x : Stream) : Bool := decide (x.st = .active) || decide (x.st = .held)

/-- A firing of trigger `k` adds its programmed time to a stream whose trigger in force it is; at 255 pending it is lost and
counted (Table FYUSH-8, R407). -/
def Stream.fire (x : Stream) (k time : Nat) : Stream :=
  let x := { x with xfers := x.xfers.map fun t => if x.inRun && decide (t.snap.rs.pace = .trigger k) then { t with fired := t.fired ++ [time] } else t }
  if x.inRun && decide (x.rs.pace = .trigger k) then
    if x.pending.length ≥ 255 then x.count 6 1 else { x with pending := x.pending ++ [time] }
  else x

/-- Trigger `g` after a firing (R292): the next firing, or none after the last. -/
def Trig.after (g : Trig) : Option Trig :=
  if g.period = 0 then none
  else match g.left with
    | none => some { g with next := g.next + BitVec.ofNat 64 g.period, late := false }
    | some 0 => none
    | some (n + 1) => some { g with next := g.next + BitVec.ofNat 64 g.period, left := some n, late := false }

/-- The output pulse of a firing (R292): the line goes high, and stays low in the safe state. -/
def State.trigPulse (s : State) (out : Nat) : State :=
  if out = 0 then s
  else { s with
    time := { s.time with pulse := Tbl.modify 0 s.time.pulse (out - 1) (· + 1) }
    pins := { s.pins with trigOut := if s.flt.safe then s.pins.trigOut else setBit s.pins.trigOut (out - 1) true } }

/-- The firing of trigger `k` with setting `g` (R292, R407). -/
def State.fireTrigger (s : State) (k : Nat) (g : Trig) : State :=
  let t := { s.time with
    trig := match g.after with
      | some g' => Tbl.put k g' s.time.trig
      | none => Tbl.drop k s.time.trig
    trigLate := if g.late then setBit s.time.trigLate k true else s.time.trigLate }
  let s := { s with time := t, fw := { s.fw with streams := s.fw.streams.map fun (e : Nat × Stream) => (e.1, e.2.fire k g.next.toNat) } }
  s.trigPulse g.out

/-- `TRIGGER_FIRING` (R292): trigger `k` fires once `NS_CNT` has reached its next firing time. -/
def execTriggerFiring (k : Fin 32) (s : State) : Out :=
  running s fun s =>
    match Tbl.find s.time.trig k.val with
    | some g => if reached64 s.now g.next.toNat then s.fireTrigger k.val g else s
    | none => s

/-- `TRIG_OUT_PULSE_END` (R292): four TCLK cycles after a firing the line goes low, unless another firing's pulse still runs. -/
def execTrigOutPulseEnd (line : Fin 16) (s : State) : Out :=
  running s fun s =>
    let n := Tbl.get 0 s.time.pulse line.val
    { s with
      time := { s.time with pulse := Tbl.set 0 s.time.pulse line.val (n - 1) }
      pins := { s.pins with trigOut := if n ≤ 1 then setBit s.pins.trigOut line.val false else s.pins.trigOut } }

/-- `LK_CLEAR` (Table LINK-12): a write of 1 clears the link counters. -/
def State.lkClear (s : State) (w : Word) : State :=
  if w.getLsbD 0 then { s with link := { s.link with cnt := [] } } else s

/-- `LK_CLEAR`. -/
def execLkClear (w : Word) (s : State) : Out := running s fun s => s.lkClear w

end Sys2Proof.Machine
end

