-- ==== Sys2Proof/Machine/Mailbox.lean ====
section
/-! DEFINITION. Mailboxes (R245-R253), message checks (Table CTRL-11), replies and asynchronous replies (R258, R263, R264). -/
namespace Sys2Proof.Machine

/-! ### Replies -/

/-- The lowest-numbered free reply mailbox (R252). -/
def Ctl.freeReply (c : Ctl) : Option Nat := (List.range 8).find? fun n => !c.rplFull.getLsbD n

/-- The words of a message: two header words, the payload and the CRC (Table CTRL-10). -/
def messageWords (token code status : Nat) (payload : List Word) : List Word :=
  let h : List Word := [BitVec.ofNat 32 (token * 65536 + code), BitVec.ofNat 32 (5 * 2 ^ 24 + status * 65536 + 4 * payload.length)] ++ payload
  h ++ [BitVec.ofNat 32 (crc32c (bytesOfWords h))]

/-- Write a message into reply mailbox `n` and set its full bit (R252). -/
def Ctl.putReply (c : Ctl) (n : Nat) (ws : List Word) : Ctl :=
  { c with rpl := Tbl.setRun 0 c.rpl (16 * n) ws, rplFull := setBit c.rplFull n true }

/-- Place a command reply, or keep it in hand while no reply mailbox is free (R252). -/
def Ctl.reply (c : Ctl) (r : Reply) : Ctl :=
  match c.freeReply with
  | some n => { (c.putReply n (messageWords r.token.toNat r.code.toNat r.status r.payload)) with hand := none }
  | none => { c with hand := some (.reply r) }

/-- The code of an asynchronous kind (Table CTRL-22). -/
def AsyncKind.code : AsyncKind → Nat
  | .page => 0x8001 | .fault => 0x8002 | .wideRerun => 0x8003 | .deadline => 0x8004 | .linkState => 0x8005

/-- Place the oldest asynchronous reply (R263). -/
def Ctl.placeAsync (c : Ctl) : Ctl :=
  match c.async, c.freeReply with
  | a :: rest, some n => { (c.putReply n (messageWords 0xFFFF a.kind.code 0 a.payload)) with async := rest }
  | _, _ => c

/-- The end of a detach (R365 step 5): with its reply placed, `QUIESCED` rises, `FW_READY` falls, and the Tecon core halts. [Log 79 DEDUCED] -/
def State.quiesce (s : State) : State :=
  { s with
    pins := { s.pins with quiesced := true }
    ctl := { s.ctl with fwReady := false }
    life := { s.life with halted := true } }

/-- Place the reply in hand. The reply of a `DETACH` ends the detach, and waits until what `QUIESCED` states holds (R365, R374). [Log 79 DEDUCED] -/
def State.placeHand (s : State) (r : Reply) : State :=
  if r.code = 0x11 ∧ r.status = 0 then
    if s.quiet then
      let s := { s with ctl := s.ctl.reply r }
      if s.ctl.hand.isNone then s.quiesce else s
    else { s with ctl := { s.ctl with hand := some (.reply r) } }
  else { s with ctl := s.ctl.reply r }

/-- `REPLY_PLACEMENT` (R247, R252, R263): once a reply mailbox is free, firmware places the reply it holds: the command reply in
hand first, else the oldest asynchronous reply. [Log 16 DESIGN CHOICE] -/
def execReplyPlacement (s : State) : Out :=
  running s fun s =>
    if !s.ctl.fwReady then s
    else match s.ctl.hand with
      | some (.reply r) => s.placeHand r
      | _ => { s with ctl := s.ctl.placeAsync }

/-! ### Asynchronous replies -/

/-- Words of naturals. -/
def toWords (l : List Nat) : List Word := l.map (BitVec.ofNat 32)

/-- The payload of a FAULT reply with its sequence number (Table CTRL-23). [Log 17 DEDUCED] -/
def FaultMsg.payload (f : FaultMsg) (seq : Nat) : List Word :=
  let ent := fun i => match f.streams[i]? with
    | some (c, e, bad) => c * 65536 + e * 256 + (if bad then 1 else 0)
    | none => 0
  toWords [seq * 65536 + f.cause * 256 + f.lane, f.reason * 2 ^ 24 + f.resp * 65536 + f.streams.length * 256, f.p2, f.p3, ent 0, ent 1, ent 2, ent 3]

/-- Number and queue the FAULT replies that find one of the 16 places free (R258); `fuel` bounds them. -/
def Ctl.promote : Nat → Ctl → Ctl
  | 0, c => c
  | n + 1, c =>
    match c.faultWait with
    | [] => c
    | f :: rest =>
      if c.unacked.length < 16 then
        Ctl.promote n { c with
          faultWait := rest
          fseq := c.fseq + 1
          unacked := c.unacked ++ [c.fseq]
          async := c.async ++ [⟨.fault, f.payload c.fseq.toNat⟩] }
      else c

/-- Send a FAULT reply (R258, R263). [Log 17 DEDUCED; log 96 DESIGN CHOICE] -/
def State.faultReply (s : State) (f : FaultMsg) : State :=
  let c := { s.ctl with faultWait := s.ctl.faultWait ++ [f] }
  { s with ctl := c.promote c.faultWait.length }

/-- Send several FAULT replies. [Log 17 DEDUCED] -/
def State.faultReplies (s : State) (fs : List FaultMsg) : State := fs.foldl State.faultReply s

/-- Entries of the asynchronous queue free for `WIDE_RERUN` and `DEADLINE` replies: 64 less one per lane for `PAGE`, 16 for
`FAULT` and one for `LINK_STATE` (R263). -/
def State.asyncRoom (s : State) : Nat := 64 - s.nLanes - 16 - 1

/-- Queue a `WIDE_RERUN` or `DEADLINE` reply, or drop and count it when no entry is free (R263). -/
def State.queueAsync (s : State) (a : Async) : State :=
  let used := (s.ctl.async.filter fun b => decide (b.kind = .wideRerun) || decide (b.kind = .deadline)).length
  if used < s.asyncRoom then { s with ctl := { s.ctl with async := s.ctl.async ++ [a] } }
  else { s with ctl := { s.ctl with dropped := if s.ctl.dropped = 255 then 255 else s.ctl.dropped + 1 } }

/-- Queue a `PAGE` reply (R133, R263). -/
def State.pageReply (s : State) (payload : List Nat) : State :=
  { s with ctl := { s.ctl with async := s.ctl.async ++ [⟨.page, toWords payload⟩] } }

/-- P0 of `LINK_STATE` (R279). -/
def Link.stateWord (l : Link) (reason : Nat) : Nat := l.st % 16 + reason % 16 * 256 + l.trains.toNat * 65536

/-- Send `LINK_STATE` with P0 (R263): it replaces one not yet placed. -/
def State.sendLinkState (s : State) (p0 : Nat) : State :=
  let keep := s.ctl.async.filter fun b => decide (b.kind ≠ .linkState)
  { s with ctl := { s.ctl with async := keep ++ [⟨.linkState, toWords [p0]⟩] } }

/-- Send `LINK_STATE` at a change of the state (R279). -/
def State.linkStateReply (s : State) (reason : Nat) : State := s.sendLinkState (s.link.stateWord reason)

/-! ### Commands -/

/-- A row of Table CTRL-13: opcode, payload length, whether it needs `ATTACH`, and whether the safe state admits it (R250). -/
structure CmdRow where
  op : Nat
  len : Nat
  after : Bool
  safeOk : Bool
  deriving DecidableEq, Repr

/-- The commands of interface version 5 (Table CTRL-13). [Log 15 DESIGN CHOICE] -/
def cmdRows : List CmdRow :=
  [⟨0x01, 0, false, true⟩, ⟨0x10, 20, false, false⟩, ⟨0x11, 0, false, true⟩, ⟨0x20, 8, true, false⟩, ⟨0x21, 4, true, false⟩,
   ⟨0x30, 16, true, false⟩, ⟨0x31, 20, true, false⟩, ⟨0x32, 4, true, false⟩, ⟨0x33, 20, true, false⟩, ⟨0x34, 4, true, false⟩,
   ⟨0x35, 4, true, false⟩, ⟨0x36, 4, true, false⟩, ⟨0x40, 20, true, false⟩, ⟨0x41, 8, true, false⟩, ⟨0x50, 16, true, false⟩,
   ⟨0x60, 48, true, false⟩, ⟨0x70, 20, true, false⟩, ⟨0x71, 0, true, false⟩, ⟨0x80, 4, false, false⟩, ⟨0x81, 4, false, false⟩,
   ⟨0x82, 4, false, true⟩, ⟨0x90, 4, false, true⟩, ⟨0xA0, 16, true, false⟩, ⟨0xB0, 20, true, false⟩, ⟨0xC0, 4, true, false⟩,
   ⟨0xF0, 20, false, true⟩]

/-- The row of an opcode. -/
def cmdRow (op : Nat) : Option CmdRow := cmdRows.find? fun r => decide (r.op = op)

/-- Word `w` of command mailbox `n`. -/
def Ctl.cmdWord (c : Ctl) (n w : Nat) : Nat := (Tbl.get 0 c.cmd (16 * n + w)).toNat

/-- The message checks of Table CTRL-11, in order; 0 when the command's own checks follow. -/
def State.messageStatus (s : State) (n : Nat) : Nat :=
  let w := s.ctl.cmdWord n
  let len := bits (w 1) 7 0
  let op := bits (w 0) 15 0
  if len > 52 ∨ len % 4 ≠ 0 then 2
  else if crc32c (((List.range (2 + len / 4)).map fun i => toBytes (w i) 4).flatten) ≠ w (2 + len / 4) then 10
  else match cmdRow op with
    | none => 2
    | some r =>
      if bits (w 1) 23 8 ≠ 0 then 2
      else if bits (w 1) 31 24 ≠ 5 ∧ op ≠ 1 then 2
      else if len ≠ r.len then 2
      else if r.after ∧ !s.fw.attached then 9
      else if s.flt.safe ∧ !r.safeOk then 8
      else 0

/-- What a command's own checks and effect answer: a reply, or a wait that a later event ends (R248). [Log 16 DESIGN CHOICE] -/
inductive Verdict where
  | done (status : Nat) (payload : List Nat)
  | wait (w : Waiting)
  deriving DecidableEq, Repr

/-- A command's own checks and effect on its payload words. -/
abbrev Body := State → (Nat → Nat) → State × Verdict

/-- An answer as a verdict. -/
def Ans.verdict (a : Ans) : State × Verdict := (a.1, .done a.2.1 a.2.2)

/-- The words of the message in command mailbox `n`, without its CRC (Table CTRL-10). -/
def Ctl.message (c : Ctl) (n : Nat) : List Word := (List.range (2 + bits (c.cmdWord n 1) 7 0 / 4)).map fun i => Tbl.get 0 c.cmd (16 * n + i)

/-- Firmware takes the mailbox at the head of the queue (R247): it copies it and clears its ownership bit. -/
def Ctl.accept (c : Ctl) (n : Nat) (rest : List Nat) : Ctl :=
  { c with submitted := rest, cmdOwn := setBit c.cmdOwn n false, mail := c.message n }

/-- The reply to the command whose token and opcode are given. [Log 16 DESIGN CHOICE] -/
def State.answer (s : State) (token code : BitVec 16) (status : Nat) (payload : List Nat) : State :=
  { s with ctl := s.ctl.reply ⟨token, code, status, if status = 0 then toWords payload else []⟩ }

/-- The reply of a command that was waiting (R248). [Log 16 DESIGN CHOICE] -/
def State.finishHand (s : State) (status : Nat) (payload : List Nat) : State :=
  match s.ctl.hand with
  | some (.waiting t c _) => ({ s with ctl := { s.ctl with hand := none } }).answer t c status payload
  | _ => s

/-- The row `op` (and, where two rows share an opcode, `mine` of the first payload word) is the one that takes a message. An
opcode of no command is taken by any row and answered `INVALID`. [Log 15 DESIGN CHOICE] -/
def takesRow (op : Nat) (mine : Nat → Bool) (code p0 : Nat) : Bool :=
  (cmdRow code).isNone || (decide (code = op) && mine p0)

/-- A mailbox command (R247, R250): firmware accepts the oldest submitted mailbox when it holds this row's command, checks the
message by Table CTRL-11, carries the command out by `body`, and replies. [Logs 13, 15 DESIGN CHOICE] -/
def serve (op : Nat) (mine : Nat → Bool) (body : Body) (s : State) : State :=
  if !s.ctl.fwReady || s.ctl.hand.isSome then s
  else match s.ctl.submitted with
    | [] => s
    | n :: rest =>
      let w := s.ctl.cmdWord n
      let code := bits (w 0) 15 0
      if !takesRow op mine code (w 2) then s
      else
        let token := BitVec.ofNat 16 (bits (w 0) 31 16)
        let st := s.messageStatus n
        let s := { s with ctl := s.ctl.accept n rest }
        if st ≠ 0 then s.answer token (BitVec.ofNat 16 code) st []
        else
          match body s (fun k => w (2 + k)) with
          | (s', .done status payload) => s'.answer token (BitVec.ofNat 16 code) status payload
          | (s', .wait x) => { s' with ctl := { s'.ctl with hand := some (.waiting token (BitVec.ofNat 16 code) x) } }

/-- Every message of the opcode is this row's. [Log 15 DESIGN CHOICE] -/
def anyVariant : Nat → Bool := fun _ => true

/-- A mailbox command of the table. [Log 15 DESIGN CHOICE] -/
def command (op : Nat) (mine : Nat → Bool) (body : Body) (s : State) : Out := running s (serve op mine body)

/-- `MBX_GO` (R246, R247): each `SUBMIT` bit of a mailbox the host owns hands it to firmware, in ascending order. -/
def State.mbxGo (s : State) (w : Word) : State :=
  if !s.ctl.fwReady then s
  else
    let ns := (List.range 8).filter fun n => w.getLsbD n && !s.ctl.cmdOwn.getLsbD n
    { s with ctl := { s.ctl with
        cmdOwn := ns.foldl (fun o n => setBit o n true) s.ctl.cmdOwn
        submitted := s.ctl.submitted ++ ns } }

/-- `MBX_GO`. -/
def execMbxGo (w : Word) (s : State) : Out := gated s fun s => s.mbxGo w

/-- `MBX_RELEASE` (R252): each bit returns its reply mailbox to firmware. -/
def State.mbxRelease (s : State) (w : Word) : State :=
  { s with ctl := { s.ctl with rplFull := s.ctl.rplFull &&& ~~~ (w.setWidth 8) } }

/-- `MBX_RELEASE`. -/
def execMbxRelease (w : Word) (s : State) : Out := gated s fun s => s.mbxRelease w

/-- `HELLO` (R2, R255). -/
def helloBody (s : State) (_ : Nat → Nat) : Ans :=
  Ans.ok s [s.boot.fwver.toNat, (if s.boot.slotRunning then 256 else 0) + 5, if s.fw.attached then 1 else 0]

/-- `HELLO`. -/
def execHello (s : State) : Out := command 0x01 anyVariant (fun s p => (helloBody s p).verdict) s

/-- `PHASE_POINT`. -/
def execPhasePoint (s : State) : Out := command 0x80 anyVariant (fun s p => (phasePointBody s p).verdict) s

/-- `POWER_CAP`. -/
def execPowerCap (s : State) : Out := command 0x81 anyVariant (fun s p => (powerCapBody s p).verdict) s

/-- `ENERGY_READ`. -/
def execEnergyRead (s : State) : Out := command 0x82 anyVariant (fun s p => (energyReadBody s p).verdict) s

/-- `HALYARD_INIT`. -/
def execHalyardInit (s : State) : Out := command 0x50 anyVariant (fun s p => (halyardInitBody s p).verdict) s

/-- `TRIGGER_SET`: the messages with `CANCEL` = 0. -/
def execTriggerSet (s : State) : Out := command 0xB0 (fun p0 => !bitOn p0 16) (fun s p => (triggerSetBody s p).verdict) s

/-- `TRIGGER_CANCEL`: the messages with `CANCEL` = 1. -/
def execTriggerCancel (s : State) : Out := command 0xB0 (fun p0 => bitOn p0 16) (fun s p => (triggerSetBody s p).verdict) s

/-- `FAULT_ACK` (R258): acknowledge a FAULT reply and free its place. -/
def faultAckBody (s : State) (p : Nat → Nat) : Ans :=
  let q := BitVec.ofNat 16 (bits (p 0) 15 0)
  if bits (p 0) 31 16 ≠ 0 then Ans.err s 2
  else if !s.ctl.unacked.contains q then Ans.err s 7
  else
    let c := { s.ctl with unacked := s.ctl.unacked.erase q }
    Ans.ok { s with ctl := c.promote c.faultWait.length } []

/-- `FAULT_ACK`. -/
def execFaultAck (s : State) : Out := command 0x90 anyVariant (fun s p => (faultAckBody s p).verdict) s

end Sys2Proof.Machine
end

