-- ==== Sys2Proof/Machine/Collector.lean ====
section
/-! DEFINITION. The fault collector (R323-R338, R346, R348): history, counts, severities, the safe state, `FAULT_N`, injection. -/
namespace Sys2Proof.Machine

/-- The key of a kind and source pair (R328). -/
def Burgee.pairKey (b : Burgee) : Nat := b.kind * 1024 + b.source

/-- A Burgee enters the history at once, or not: a corrected Burgee or a `DEADLINE_MISS` at most once per 1 ms of `NS_CNT` for each
pair of kind and source (R328). -/
def State.entersHistory (s : State) (b : Burgee) : Bool :=
  if kindSev b.kind = 0 ∨ b.kind = 32 then
    match Tbl.find s.flt.recent b.pairKey with
    | some t => decide ((s.now + 2 ^ 64 - t) % 2 ^ 64 ≥ 1000000)
    | none => true
  else true

/-- Write a Burgee into the history (R328, R339): entry `seq` mod 16, with the time. -/
def State.logBurgee (s : State) (b : Burgee) : State :=
  let f := s.flt
  { s with flt := { f with
      hist := Tbl.put (f.seq.toNat % 16) ⟨BitVec.ofNat 64 b.word, s.time.ns⟩ f.hist
      seq := f.seq + 1
      recent := if kindSev b.kind = 0 ∨ b.kind = 32 then Tbl.put b.pairKey s.now f.recent else f.recent } }

/-- Count a Burgee by its severity (Table FAULT-5). -/
def Flt.tally (f : Flt) (sev : Nat) : Flt :=
  let up := fun c : BitVec 32 => BitVec.ofNat 32 (satAdd32 c.toNat 1)
  match sev with
  | 0 => { f with ce := up f.ce }
  | 1 => { f with de := up f.de }
  | _ => { f with ue := up f.ue }

/-- The collector takes a Burgee (R327, R328): history and count; the uncorrected or fatal one that `first` names is in `FLT.FIRST`. What it does to
the block, it did as it was raised. [Log 18 DEDUCED] -/
def State.collect (s : State) (b : Burgee) (first : Bool) : State :=
  let s := if s.entersHistory b then s.logBurgee b else s
  let f := s.flt.tally (kindSev b.kind)
  { s with flt := if first then { f with first := BitVec.ofNat 64 b.word } else f }

end Sys2Proof.Machine

namespace Sys2Proof

/-- The number of the domain of a crossing, as `Burgee.dom` gives it. -/
def Dom.num : Dom → Nat
  | .aclk => 0 | .pclk p => 1 + p.val | .lclk => 5 | .tclk => 6 | .cclk => 7

end Sys2Proof

namespace Sys2Proof.Machine

/-- The Burgee that the crossing of domain `d` delivers next, and the collector without it: a source that holds one fills the place. -/
def Flt.pop (f : Flt) (d : Nat) : Option (Burgee × Flt) :=
  match Tbl.get [] f.cross d with
  | b :: t => some (b, ({ f with cross := Tbl.set [] f.cross d t } : Flt).refill d)
  | [] => none

/-- Burgee `a` goes before `b` in one CCLK cycle: higher severity, then lower source (R328). -/
def Burgee.before (a b : Burgee) : Bool :=
  decide (kindSev a.kind > kindSev b.kind) || (decide (kindSev a.kind = kindSev b.kind) && decide (a.source < b.source))

/-- Put a Burgee into its place behind those that go before it or came first. -/
def insertBurgee (b : Burgee) : List Burgee → List Burgee
  | [] => [b]
  | x :: t => if b.before x then b :: x :: t else x :: insertBurgee b t

/-- The Burgees that reach the collector in one CCLK cycle, one of each named crossing, in the order in which they enter, and the state without
them (R328). [Log 18 DEDUCED] -/
def State.arrive (s : State) (doms : List Dom) : State × List Burgee :=
  doms.foldl (fun (a : State × List Burgee) d => match a.1.flt.pop d.num with
    | some (b, f) => ({ a.1 with flt := f }, insertBurgee b a.2)
    | none => a) (s, [])

/-- The Burgees of one CCLK cycle enter (R328, R350): the first uncorrected or fatal one of them is in `FLT.FIRST` (Table FAULT-16). -/
def State.collectAll (s : State) (bs : List Burgee) : State :=
  let first := bs.find? fun b => decide (kindSev b.kind ≥ 2)
  bs.foldl (fun s b => s.collect b (decide (first = some b))) s

/-- Kinds after which firmware runs a lane check on the physical lane of the source (R342). -/
def laneCheckKind (k : Nat) : Bool := [22, 23, 24, 25, 26, 27, 29, 30, 31].contains k

/-- Kinds after which the block restarts its firmware (R345). [Log 83 DESIGN CHOICE] -/
def restartKind (k : Nat) : Bool := [28, 55, 56, 58].contains k

/-- Deferred kinds that firmware reports with cause 11 (Table FAULT-4, R329). -/
def cause11Kind (k : Nat) : Bool := [21, 46, 59, 60, 62, 63].contains k

/-- The physical lane a lane check concerns (R342): the Burgee's source, or for kind 31 the lane of member 0 of the stream it names. [Log 72 DEDUCED] -/
def State.checkedLane (s : State) (b : Burgee) : Nat :=
  if b.kind ≠ 31 then b.inst
  else
    let c := bits b.addr 45 34
    (((s.stream c).bind fun x => s.stream (c - x.idx)).bind fun y => s.physOf y.lane).getD b.inst

/-! ### Leaving the safe state (R336, Table FAULT-9) -/

/-- The Burgees whose cause is still present (Table FAULT-9): a fatal kind since the domain reset, and a clock kind whose monitor still
flags its clock. [Log 71 DEDUCED] -/
def Flt.presentCauses (f : Flt) : List Burgee := f.causes.filter fun b => decide (kindSev b.kind = 3) || f.clkFlag.getLsbD b.inst

/-- Some cause is still present (Table FAULT-9). [Log 71 DEDUCED] -/
def Flt.causePresent (f : Flt) : Bool := f.fatal || decide (f.clkFlag ≠ 0) || (f.selfF && f.copiesDiffer)

/-- `SELF_CLEAR` (R337): the collector reloads its control state from reset values and compares its copies again; history and
counts stay. -/
def State.selfClear (s : State) : State :=
  if s.flt.selfF then { s with flt := { s.flt with auto := true, hold := false, pulse := false, selfF := s.flt.copiesDiffer } } else s

/-- `SELF_CLEAR`. -/
def execSelfClear (s : State) : Out := running s fun s => s.selfClear

/-- `CNT_CLEAR` (Table FAULT-11): a write of 1 clears the three counts. -/
def State.cntClear (s : State) (w : Word) : State :=
  if w.getLsbD 0 then { s with flt := { s.flt with ce := 0, de := 0, ue := 0 } } else s

/-- `CNT_CLEAR`. -/
def execCntClear (w : Word) (s : State) : Out := running s fun s => s.cntClear w

/-- `FAULT_PIN_TIMER` (R335): the pulse timer ends and the pin follows `HOLD`. -/
def execFaultPinTimer (s : State) : Out := running s fun s => { s with flt := { s.flt with pulse := false } }

/-- The core monitor (R341): a checkpoint write whose signature is the one the ROM's table predicts for that checkpoint passes; a wrong one, or none
in time, raises its kind. [Log 83 DESIGN CHOICE] -/
def State.monitor (s : State) (write : Option Word) : State :=
  match write with
  | none => s.raise ⟨8, 0, 55, 0⟩
  | some w =>
    if w = Config.signature s.flt.checkpoint then { s with flt := { s.flt with checkpoint := s.flt.checkpoint + 1 } }
    else s.raise ⟨8, 0, 56, 0⟩

/-- `TECON_WDOG` (R341): the checkpoint write that the core monitor sees, or none in 10 us. [Log 83 DESIGN CHOICE] -/
def execTeconWdog (write : Option Word) (s : State) : Out := running s fun s => s.monitor write

/-- The ACLK monitor flags its clock (R330, Table FAULT-4): after a frequency fault the PLL relocks at OP0, and `CLOCK` accrues
while that lies below the target (R312). [Log 71 DEDUCED] -/
def State.aclkFault (s : State) (loss : Bool) : State :=
  let f := { s.flt with clkFlag := setBit s.flt.clkFlag 0 true }
  let w : Pwr := { s.pwr with clkFault := true }
  let w : Pwr := if loss || decide (0 < w.target) then { w with active := setBit w.active 5 true, seen := setBit w.seen 5 true } else w
  { s with flt := f, pwr := if loss then w else { w with op := 0, windowOp := 0, slewTo := none, raise := none, fast := false } }

/-! ### Fault injection (R348) -/

/-- The keys of the unlock sequence. -/
def unlockKey (n : Nat) : Nat := nth 0 [0x5A5A, 0xA5A5, 0x0F0F] n

/-- `TEST_UNLOCK` (R348): the next key of the sequence advances it, the third opens injection; any other write closes it. -/
def State.testUnlock (s : State) (w : Word) : State :=
  if !s.life.testSampled then s
  else if w.toNat = unlockKey s.flt.unlock then
    if s.flt.unlock = 2 then { s with flt := { s.flt with unlock := 0, inj := true } }
    else { s with flt := { s.flt with unlock := s.flt.unlock + 1 } }
  else { s with flt := { s.flt with unlock := if w.toNat = 0x5A5A then 1 else 0, inj := false } }

/-- `TEST_UNLOCK`. -/
def execTestUnlock (w : Word) (s : State) : Out := running s fun s => s.testUnlock w

/-- One injection at the selected site (Table FAULT-15). Of `INJ_ARG` the Plate sites take bits [31:3] as the pool offset. [Log 38 DEDUCED] -/
def State.inject (s : State) : State :=
  let unit := bits s.flt.injSel.toNat 11 8
  let arg := s.flt.injArg.toNat
  let word := arg / 8 / 8
  match bits s.flt.injSel.toNat 3 0 with
  | 0 => if arg / 8 < s.build.cfg.pool then { s with plate := { s.plate with upset := Tbl.modify 0 s.plate.upset word (· + 1) } } else s
  | 1 => if arg / 8 < s.build.cfg.pool then { s with plate := { s.plate with upset := Tbl.modify 0 s.plate.upset word (· + 2) } } else s
  | 2 => s.modLane unit fun l => { l with flawProduct := true }
  | 3 => s.modLane unit fun l => { l with flawDrain := true }
  | 4 => s.modPort unit fun p => { p with flawIn := true }
  | 5 => { s with link := { s.link with flawCrc := true } }
  | 6 => if s.halExists arg then { s with hal := { s.hal with upset := Tbl.modify 0 s.hal.upset arg (· + 1) } } else s
  | 7 => s.raise ⟨8, 0, 55, 0⟩
  | 8 => s.raise ⟨8, 0, 56, 0⟩
  | 9 => (s.aclkFault false).raise ⟨7, 0, 50, 0⟩
  | 10 => { s with pwr := { s.pwr with flawSensor := some arg } }
  | 11 => { s with pwr := { s.pwr with flawWear := some arg } }
  | _ => s

/-- `INJ_GO` (R348): with injection open, a write of 1 corrupts the selected site once. -/
def State.injGo (s : State) (w : Word) : State :=
  let s := if s.life.testSampled then { s with flt := { s.flt with unlock := 0 } } else s
  if s.life.testSampled ∧ s.flt.inj ∧ w.getLsbD 0 then s.inject else s

/-- `INJ_GO`. -/
def execInjGo (w : Word) (s : State) : Out := running s fun s => s.injGo w

end Sys2Proof.Machine
end

