-- ==== Sys2Proof/Machine/Ports.lean ====
section
/-! DEFINITION. Plates and memory ports (R25, R331, R375-R385): reads and writes of cells, requests, tags, beats, responses,
timeouts. -/
namespace Sys2Proof

/-- Code of a response (Table PORTS-6). -/
def Resp.code : Resp → Nat
  | .ok => 0 | .fail => 1 | .decode => 2 | .poison => 3

end Sys2Proof

namespace Sys2Proof.Machine

/-! ### Plates -/

/-- The poison key of a pool offset: its 64-bit word. -/
def wordKey (a : Nat) : Nat := a / 8

/-- The Plate of a pool offset in this build (R25). -/
def State.plateAt (s : State) (a : Nat) : Nat := plateOf s.build.cfg.plates a

/-- Mark the eight words of a granule as poisoned, their upsets gone (R331). -/
def Plate.poisonCell (p : Plate) (a : Nat) : Plate :=
  (List.range 8).foldl (fun p i =>
    { p with poison := Tbl.set false p.poison (wordKey a + i) true, upset := Tbl.drop (wordKey a + i) p.upset }) p

/-- What an access finds in the words of the cell at `a` (R331): a single-bit error is corrected and written back; a larger one
poisons the granule and answers `POISON`. `kinds` are the Burgee kinds of the two cases. -/
def State.plateCheck (s : State) (a kCe kUe : Nat) : State :=
  (List.range 8).foldl (fun s i =>
    let w := wordKey a + i
    match Tbl.get 0 s.plate.upset w with
    | 0 => s
    | 1 => ({ s with plate := { s.plate with upset := Tbl.drop w s.plate.upset } }).raise ⟨2, s.plateAt a, kCe, a / 64⟩
    | _ => ({ s with plate := s.plate.poisonCell (a / 64 * 64) }).raise ⟨2, s.plateAt a, kUe, a / 64⟩) s

/-- Some word of the cell at `a` is poisoned. -/
def Plate.poisoned (p : Plate) (a : Nat) : Bool := (List.range 8).any fun i => Tbl.get false p.poison (wordKey a + i)

/-- The bytes of a cell. [Log 5 DESIGN CHOICE] -/
def Plate.cell (p : Plate) (a : Nat) : List Byte := Tbl.getRun 0 p.bytes a 64

/-- The check value stored with a cell (R36, Table ARCH-4); a cell that nothing has written holds the value of its bytes. -/
def Plate.chkOf (p : Plate) (a : Nat) : Nat := (Tbl.find p.chk (a / 64)).getD (crc32c (p.cell a))

/-- A read of the 64-byte cell at `a` (R331): its bytes and the check value stored with them, or `POISON`. -/
def State.plateRead (s : State) (a : Nat) : State × Resp × List Byte × Nat :=
  let s := s.plateCheck a 17 18
  if s.plate.poisoned a then (s, .poison, [], 0) else (s, .ok, s.plate.cell a, s.plate.chkOf a)

/-- Write the enabled bytes of a cell. -/
def Plate.putBytes (p : Plate) (a : Nat) (data : List Byte) (be : BitVec 64) : Plate :=
  { p with bytes := (List.range 64).foldl (fun t i => if be.getLsbD i then Tbl.set 0 t (a + i) (nth 0 data i) else t) p.bytes }

/-- The check value of a cell after a write: the one that came with a whole cell, or that of the merged bytes. -/
def Plate.putChk (p : Plate) (a : Nat) (be : BitVec 64) (chk : Nat) : Plate :=
  { p with chk := Tbl.put (a / 64) (if be = BitVec.allOnes 64 then chk else crc32c (p.cell (a / 64 * 64))) p.chk }

/-- The poison of the words of a cell after a write (R331): a poisoned write poisons each word it touches; a valid write of a whole
word removes that word's poison; a partial one leaves it. -/
def Plate.putPoison (p : Plate) (a : Nat) (be : BitVec 64) (poison : Bool) : Plate :=
  (List.range 8).foldl (fun p i =>
    let m := bits be.toNat (8 * i + 7) (8 * i)
    if m = 0 then p
    else if poison then { p with poison := Tbl.set false p.poison (wordKey a + i) true }
    else if m = 255 then { p with poison := Tbl.set false p.poison (wordKey a + i) false, upset := Tbl.drop (wordKey a + i) p.upset }
    else p) p

/-- A write of the cell at `a` with byte enables and its check value (R36, R63, R331). [Log 10 DESIGN CHOICE] -/
def State.plateWrite (s : State) (a : Nat) (data : List Byte) (be : BitVec 64) (poison : Bool) (chk : Nat) : State :=
  { s with plate := ((s.plate.putBytes a data be).putChk a be chk).putPoison a be poison }

/-- The check values of the cells that `n` bytes from `a` on reach, computed afresh. -/
def Plate.freshChk (p : Plate) (a n : Nat) : Plate :=
  { p with chk := (List.range ((a + n - 1) / 64 + 1 - a / 64)).foldl (fun t i => Tbl.put (a / 64 + i) (crc32c (p.cell ((a / 64 + i) * 64))) t) p.chk }

/-- Write whole bytes from `a` on (firmware and model-image loads); poison of whole words goes. -/
def State.plateFill (s : State) (a : Nat) (data : List Byte) : State :=
  let whole := (List.range (data.length / 8)).foldl (fun (p : Plate) i =>
    if a % 8 = 0 then { p with poison := Tbl.set false p.poison (wordKey a + i) false, upset := Tbl.drop (wordKey a + i) p.upset } else p) s.plate
  { s with plate := ({ whole with bytes := Tbl.setRun 0 whole.bytes a data }).freshChk a data.length }

/-- The pool offset of access `k` (256 bytes) of a Plate (R25, Table ARCH-3). -/
def scrubAddr (np plate k : Nat) : Nat := (k / 4 * np + plate) * 1024 + k % 4 * 256

/-- `SCRUB_SLOT` (R331, Table ARCH-3): the scrubber's access reads the 256 bytes at the Plate's scrub pointer, corrects or poisons
what it finds, and moves on through the Plate's 4,096 accesses. -/
def execScrubSlot (plate : Fin 64) (s : State) : Out :=
  running s fun s =>
    let np := s.build.cfg.plates
    if plate.val ≥ np then s
    else
      let k := Tbl.get 0 s.plate.scrub plate.val
      let a := scrubAddr np plate.val k
      let s := [0, 64, 128, 192].foldl (fun s o => s.plateCheck (a + o) 20 21) s
      { s with plate := { s.plate with scrub := Tbl.set 0 s.plate.scrub plate.val ((k + 1) % 4096) } }

/-! ### Requests -/

/-- Format A of a host address (Table FAULT-3). -/
def formatA (a : Nat) : Nat := a / 64 % 2 ^ 46

/-- The lowest key of 0 to 4,095 that is in neither table, trying `n` keys from `k`. -/
def freeTagN {α β : Type} (t : Tbl α) (u : Tbl β) : Nat → Nat → Option Nat
  | 0, _ => none
  | n + 1, k => if (Tbl.find t k).isNone && (Tbl.find u k).isNone then some k else freeTagN t u n (k + 1)

/-- A free read tag (R378, R385). -/
def Port.readTag (p : Port) : Option Nat := freeTagN p.reads p.lateR 4096 0
/-- A free write tag. -/
def Port.writeTag (p : Port) : Option Nat := freeTagN p.writes p.lateW 4096 0

/-- The physical lane whose request it is; none for a peer's frame. -/
def Owner.lane : Owner → Option Nat
  | .cell p .. | .list p .. | .head p .. | .body p .. | .walk p | .store p .. => some p
  | _ => none

/-- The request belongs to physical lane `p`. -/
def Owner.ofLane (p : Nat) (o : Owner) : Bool := decide (o.lane = some p)

/-- The fetch engine made the request, and it takes read tags of the lane (R109). -/
def Owner.fetched : Owner → Bool
  | .cell .. | .list .. | .head .. | .body .. => true
  | _ => false

/-- The request is raw, not coded (R105). -/
def Owner.raw : Owner → Bool
  | .cell .. | .list .. | .store .. => true
  | _ => false

/-- The first beat a part touches, as an address, and the beats it touches. -/
def ReadPart.first (p : ReadPart) : Nat := p.addr / 128 * 128
/-- The aligned 128-byte beats a part touches (R109). -/
def ReadPart.beats (p : ReadPart) : Nat := (p.addr + p.n - 1) / 128 + 1 - p.addr / 128

/-- The first byte of a read request: a multiple of 128 (Table PORTS-4). -/
def ReadReq.addr (r : ReadReq) : Nat := (r.parts.head?.map ReadPart.first).getD 0
/-- The byte after the last one that the parts ask for. -/
def ReadReq.last (r : ReadReq) : Nat := (r.parts.getLast?.map fun p => p.addr + p.n).getD 0
/-- Beats of a read request (Table PORTS-4). -/
def ReadReq.nbeat (r : ReadReq) : Nat := (r.last - 1) / 128 + 1 - r.addr / 128

/-- Read tags of the lane that a part of a request still holds: its beats that are not in (Table STREAM-1). -/
def ReadReq.owed (r : ReadReq) (p : ReadPart) : Nat := p.beats - (r.got.length - (p.first - r.addr) / 128)

/-- The read tags of lane `p` in use over every port (R109). -/
def State.laneTags (s : State) (p : Nat) : Nat :=
  let mine := fun (x : ReadPart) => x.owner.fetched && x.owner.ofLane p
  (s.ports.map fun e =>
    (e.2.reads.map fun r => ((r.2.parts.filter mine).map r.2.owed).sum).sum + ((e.2.waitR.filter mine).map ReadPart.beats).sum).sum

/-- The write requests of lane `p` outstanding over every port (R109). -/
def State.laneWrites (s : State) (p : Nat) : Nat :=
  let mine := fun (c : WCell) => c.owner.ofLane p
  (s.ports.map fun e => (e.2.writes.map fun w => (w.2.cells.filter mine).length).sum + (e.2.waitW.filter mine).length).sum

/-- A request whose last part entered the queue at `since` may still be merged with the next (R105): at once within one run of an engine; later
while 16 PCLK cycles, 40 ns at the lowest rate, may not have passed, as timing decides. [Log 87 DESIGN CHOICE] -/
def mayMerge (now since k : Nat) (fresh : Bool) : Bool :=
  fresh || (decide ((now + 2 ^ 64 - since) % 2 ^ 64 ≤ 40) && Config.freeBit k)

/-- The outstanding read request that a read of `o` from `a` on continues (R105), by its tag. -/
def Port.readJoin (q : Port) (o : Owner) (a : Nat) : Option (Nat × ReadReq) :=
  if o.raw && decide (a % 4096 ≠ 0) then
    q.reads.find? fun e => decide (e.2.got = []) && decide (e.2.last = a) && e.2.parts.all fun p => p.owner.raw && decide (p.owner.lane = o.lane)
  else none

/-- A cell that is in, with the check value of its bytes (R36). -/
def Cell.of (b : List Byte) : Cell := .data b (crc32c b)

/-- The last enabled byte of a cell's write, plus 1, and the first one, as addresses. -/
def WCell.span (c : WCell) : Nat × Nat :=
  let on := (List.range 64).filter fun i => c.be.getLsbD i
  (c.addr + (on.head?).getD 0, c.addr + (on.getLast?.map (· + 1)).getD 0)

/-- The outstanding write request that a cell's write continues (R105), by its tag. -/
def Port.writeJoin (q : Port) (c : WCell) : Option (Nat × WriteReq) :=
  if c.owner.raw && decide (c.span.1 % 4096 ≠ 0) then
    q.writes.find? fun e => (match e.2.cells.getLast? with
      | some l => decide (l.span.2 = c.span.1)
      | none => false) && e.2.cells.all fun d => d.owner.raw && decide (d.owner.lane = c.owner.lane)
  else none

/-- An engine of lane `p` begins a run: what it issues from now on entered the queues later. -/
def State.ageRequests (s : State) (p : Nat) : State :=
  { s with ports := s.ports.map fun e => (e.1, { e.2 with
      reads := e.2.reads.map fun r => (r.1, if r.2.parts.any fun x => x.owner.ofLane p then { r.2 with fresh := false } else r.2)
      writes := e.2.writes.map fun w => (w.1, if w.2.cells.any fun x => x.owner.ofLane p then { w.2 with fresh := false } else w.2) }) }

/-- A read that is merged with none takes a free tag, or waits in the crossing of 32 entries (R385, Table ARCH-6); none while that is full. -/
def State.newRead (s : State) (q : Nat) (x : ReadPart) : Option State :=
  match (s.port q).readTag with
  | some t => some (s.modPort q fun p => { p with reads := Tbl.put t ⟨[x], [], .ok, s.now, true⟩ p.reads })
  | none => if (s.port q).waitR.length < 32 then some (s.modPort q fun p => { p with waitR := p.waitR ++ [x] }) else none

/-- A read enters port `q`: merged into the request it continues (R105), or as one of its own. [Logs 19, 87 DESIGN CHOICE] -/
def State.enterRead (s : State) (q : Nat) (x : ReadPart) : Option State :=
  match (s.port q).readJoin x.owner x.addr with
  | some (t, r) =>
    let u := if r.fresh then s else { s with free := s.free + 1 }
    if mayMerge s.now r.since s.free r.fresh then
      some (u.modPort q fun p => { p with reads := Tbl.put t { r with parts := r.parts ++ [x], since := s.now } p.reads })
    else u.newRead q x
  | none => s.newRead q x

/-- A write that is merged with none: as a read. -/
def State.newWrite (s : State) (q : Nat) (c : WCell) : Option State :=
  match (s.port q).writeTag with
  | some t => some (s.modPort q fun p => { p with writes := Tbl.put t ⟨[c], s.now, true⟩ p.writes })
  | none => if (s.port q).waitW.length < 32 then some (s.modPort q fun p => { p with waitW := p.waitW ++ [c] }) else none

/-- The write of a cell enters port `q`: merged into the request it continues (R105), or as one of its own. [Logs 19, 87 DESIGN CHOICE] -/
def State.enterWrite (s : State) (q : Nat) (c : WCell) : Option State :=
  match (s.port q).writeJoin c with
  | some (t, w) =>
    let u := if w.fresh then s else { s with free := s.free + 1 }
    if mayMerge s.now w.since s.free w.fresh then
      some (u.modPort q fun p => { p with writes := Tbl.put t { w with cells := w.cells ++ [c], since := s.now } p.writes })
    else u.newWrite q c
  | none => s.newWrite q c

/-- Issue a read of the bytes `a .. a + n - 1`, which lie in one 4,096-byte window (R30, R109, R375): none while the lane has too few read tags,
or the port takes no request. [Log 19 DESIGN CHOICE] -/
def State.issueRead (s : State) (o : Owner) (a n : Nat) : Option State :=
  let x : ReadPart := ⟨o, a, n⟩
  let short := match o.lane with
    | some p => o.fetched && decide (s.laneTags p + x.beats > 4096)
    | none => false
  if short then none else s.enterRead (s.portFor a) x

/-- Issue the write of one cell with its check value (R381, R382): disabled bytes are driven as 0; none while the lane has 1,024 writes outstanding
(R109), or the port takes no request. [Log 19 DESIGN CHOICE] -/
def State.issueWrite (s : State) (o : Owner) (a : Nat) (data : List Byte) (be : BitVec 64) (poison : Bool) (chk : Nat) : Option State :=
  let driven := (List.range 64).map fun i => if be.getLsbD i then nth 0 data i else 0
  let many := match o.lane with
    | some p => decide (s.laneWrites p ≥ 1024)
    | none => false
  if many then none else s.enterWrite (s.portFor a) ⟨o, a, driven, be, poison, chk⟩

/-- A freed tag of port `q` goes to the oldest read that waits for one. -/
def State.pumpRead (s : State) (q : Nat) : State :=
  match (s.port q).waitR with
  | [] => s
  | x :: rest =>
    if (s.port q).readTag.isNone then s
    else ((s.modPort q fun p => { p with waitR := rest }).newRead q x).getD s

/-- A freed tag of port `q` goes to the oldest write that waits for one; not in the safe state (Table FAULT-7). -/
def State.pumpWrite (s : State) (q : Nat) : State :=
  match (s.port q).waitW with
  | [] => s
  | c :: rest =>
    if s.flt.safe || (s.port q).writeTag.isNone then s
    else ((s.modPort q fun p => { p with waitW := rest }).newWrite q c).getD s

/-! ### Write beats (R375, R378, R381, R382) -/

/-- A write beat as the port drives it (Table PORTS-5). -/
structure WBeat where
  idx : Nat
  data : List Byte
  ben : BitVec 128
  poison : BitVec 2
  chk : BitVec 64
  deriving DecidableEq, Repr

/-- The check value that goes out with a half-beat (Table PORTS-7): a whole cell's own, that of the bytes as driven for a partial cell, and the
inverted value of a poisoned one. -/
def WCell.sideband (c : WCell) : Nat :=
  let v := if c.be = BitVec.allOnes 64 then c.chk else crc32c c.data
  if c.poison then (crc32c c.data) ^^^ 0xFFFFFFFF else v

/-- The cell's write of a request in half `h` of beat `i`; several writes of one cell are one half-beat. -/
def WriteReq.half (w : WriteReq) (i h : Nat) : Option WCell :=
  (w.cells.filter fun c => decide (c.addr = w.addr + 128 * i + 64 * h)).foldl (fun a c => match a with
    | none => some c
    | some d => some { d with data := List.zipWith (· ||| ·) d.data c.data, be := d.be ||| c.be, poison := d.poison || c.poison, chk := crc32c (List.zipWith (· ||| ·) d.data c.data) }) none

/-- Beat `i` of a write request; `on` is the port's sideband option. -/
def WriteReq.beat (w : WriteReq) (on : Bool) (i : Nat) : WBeat :=
  let f := fun h => w.half i h
  let data := fun h => ((f h).map WCell.data).getD (List.replicate 64 0)
  let be := fun h => (((f h).map WCell.be).getD 0).toNat
  let poi := fun h => if ((f h).map WCell.poison).getD false then 2 ^ h else 0
  let chk := fun h => if on then ((f h).map WCell.sideband).getD (crc32c (List.replicate 64 0)) else 0
  ⟨i, data 0 ++ data 1, BitVec.ofNat 128 (be 0 + be 1 * 2 ^ 64), BitVec.ofNat 2 (poi 0 + poi 1), BitVec.ofNat 64 (chk 0 + chk 1 * 2 ^ 32)⟩

/-- The beats of a write request in the order in which they leave. -/
def WriteReq.beats (w : WriteReq) (on : Bool) : List WBeat := (List.range w.nbeat).map (w.beat on)

/-! ### Beats and responses come back -/

/-- What a read brings one of its requesters: owner, first byte (a multiple of 128), the bytes, the response. -/
structure ReadAns where
  owner : Owner
  addr : Nat
  data : List Byte
  resp : Resp
  deriving DecidableEq, Repr

/-- What a request that has ended brings each of its parts (R106): its own bytes, and the one response. -/
def ReadReq.answers (r : ReadReq) : List ReadAns :=
  r.parts.map fun p => ⟨p.owner, p.first, if r.resp = .ok then slice r.got.flatten (p.first - r.addr) (128 * p.beats) else [], r.resp⟩

/-- What a read beat does at its port: nothing for the requesters yet, or the request ends. -/
structure BeatEnd where
  s : State
  ended : Option ReadReq
  deriving DecidableEq, Repr

/-- The bytes of a beat. -/
def beatBytes (d : BitVec 1024) : List Byte := (List.range 128).map fun i => (d.extractLsb' (8 * i) 8)

/-- The response a beat takes (Table PORTS-7): with the sideband on, `OK` data whose check values differ takes `POISON`. -/
def beatCheck (sideband flaw : Bool) (bytes : List Byte) (chk : Nat) : Option Nat :=
  if flaw then some 0
  else if !sideband then none
  else if crc32c (bytes.take 64) ≠ chk % 2 ^ 32 then some 0
  else if crc32c (bytes.drop 64) ≠ chk / 2 ^ 32 then some 64
  else none

/-- The first response other than `OK` stands (R106, R379). -/
def worst (a b : Resp) : Resp := if a = .ok then b else a

/-- A beat of a tag that is held (R378, R384): it is discarded, and the last one frees the tag. -/
def State.lateBeat (s : State) (p tag idx : Nat) (l : LateRead) : State :=
  if idx = l.last then (s.modPort p fun q => { q with lateR := Tbl.drop tag q.lateR }).pumpRead p else s

/-- A port accepts a read beat (R378, R379, R385, Table PORTS-7). A request whose index fails keeps its tag until its last beat is in. [Log 66 DEDUCED] -/
def State.takeBeat (s : State) (p tag idx : Nat) (code : Resp) (data : BitVec 1024) (chk : Nat) : BeatEnd :=
  let q := s.port p
  match Tbl.find q.reads tag with
  | none =>
    match Tbl.find q.lateR tag with
    | some l => ⟨s.lateBeat p tag idx l, none⟩
    | none => ⟨s.raise ⟨3, p, 16, 0⟩, none⟩
  | some r =>
    let drop := fun s : State => (s.modPort p fun q => { q with reads := Tbl.drop tag q.reads }).pumpRead p
    if idx ≠ r.got.length then
      let s := if idx + 1 = r.nbeat then drop s
        else s.modPort p fun q => { q with reads := Tbl.drop tag q.reads, lateR := Tbl.put tag ⟨r.nbeat - 1, r.addr, false⟩ q.lateR }
      ⟨s.raise ⟨3, p, 16, 0⟩, some { r with resp := worst r.resp .fail }⟩
    else
      let bytes := beatBytes data
      let bad := if code = .ok then beatCheck (s.build.sideband.getLsbD p) q.flawIn bytes chk else none
      let s := match bad with
        | some o => (s.modPort p fun q => { q with flawIn := false }).raise ⟨3, p, 13, formatA (r.addr + 128 * idx + o)⟩
        | none => s
      let code := if bad.isSome then .poison else code
      let r := { r with got := r.got ++ [if code = .ok then bytes else []], resp := worst r.resp code }
      if r.got.length = r.nbeat then ⟨drop s, some r⟩
      else ⟨s.modPort p fun q => { q with reads := Tbl.put tag r q.reads }, none⟩

/-- A port accepts a write response (R378, R385); `early` says that it comes before the last data beat was accepted. -/
def State.takeResponse (s : State) (p tag : Nat) (early : Bool) : State × Option WriteReq :=
  let q := s.port p
  match Tbl.find q.writes tag with
  | some w =>
    let s := (s.modPort p fun q => { q with writes := Tbl.drop tag q.writes }).pumpWrite p
    (if early then s.raise ⟨4, p, 16, 0⟩ else s, some w)
  | none =>
    if (Tbl.find q.lateW tag).isSome then ((s.modPort p fun q => { q with lateW := Tbl.drop tag q.lateW }).pumpWrite p, none)
    else (s.raise ⟨4, p, 16, 0⟩, none)

/-- Count a response timeout (Table PORTS-16). -/
def Port.countTimeout (q : Port) : Port := { q with tmo := if q.tmo = 65535 then q.tmo else q.tmo + 1 }

/-- A read request's timer expires (R384): it takes `FAIL`, its tag stays held. [Log 66 DEDUCED] -/
def State.timeoutRead (s : State) (p tag : Nat) : State × Option ReadReq :=
  match Tbl.find (s.port p).reads tag with
  | none =>
    match Tbl.find (s.port p).lateR tag with
    | some l =>
      if l.timedOut then (s, none)
      else ((s.modPort p fun q => { q.countTimeout with lateR := Tbl.put tag { l with timedOut := true } q.lateR }).raise ⟨3, p, 15, formatA l.addr⟩, none)
    | none => (s, none)
  | some r =>
    let s := s.modPort p fun q => { q.countTimeout with
      reads := Tbl.drop tag q.reads
      lateR := Tbl.put tag ⟨r.nbeat - 1, r.addr, true⟩ q.lateR }
    (s.raise ⟨3, p, 15, formatA r.addr⟩, some { r with resp := .fail })

/-- A write request's timer expires (R384). [Log 66 DEDUCED] -/
def State.timeoutWrite (s : State) (p tag : Nat) : State × Option WriteReq :=
  match Tbl.find (s.port p).writes tag with
  | none => (s, none)
  | some w =>
    let s := s.modPort p fun q => { q.countTimeout with writes := Tbl.drop tag q.writes, lateW := Tbl.put tag true q.lateW }
    (s.raise ⟨4, p, 15, formatA w.addr⟩, some w)

/-- The timer of a request of firmware's own expires (R384): the port counts it, holds its tag, and raises the Burgee; what the command
that made it answers is in that command's view of host memory. A tag in use names another request, and a port that R30 does not give the address, or
beats past the 4,096-byte boundary, name none. [Log 81 DESIGN CHOICE] -/
def State.timeoutOwn (s : State) (p : Nat) (write : Bool) (tag : Nat) (r : FwReq) : State :=
  let q := s.port p
  let a := r.addr.toNat
  let used := if write then (Tbl.find q.writes tag).isSome || (Tbl.find q.lateW tag).isSome
    else (Tbl.find q.reads tag).isSome || (Tbl.find q.lateR tag).isSome
  if used || decide (s.portFor a ≠ p) || decide (r.beats.val = 0) || decide (a / 128 * 128 % 4096 + 128 * r.beats.val > 4096) then s
  else
    let s := s.modPort p fun q => if write then { q.countTimeout with lateW := Tbl.put tag true q.lateW }
      else { q.countTimeout with lateR := Tbl.put tag ⟨r.beats.val - 1, a, true⟩ q.lateR }
    s.raise ⟨if write then 4 else 3, p, 15, formatA a⟩

/-- Tags held by timed-out requests (`HELD`, Table PORTS-16). -/
def Port.held (q : Port) : Nat := (q.lateR.filter fun e => e.2.timedOut).length + q.lateW.length

end Sys2Proof.Machine
end

