-- ==== Sys2Proof/Machine/FwBase.lean ====
section
/-! DEFINITION. What firmware does with host memory and the Plate pool: reads, translation (R130, R131), claims, held space, buffer
positions (R57, R74, R75), and tensor handles (R49-R59, R80). -/
namespace Sys2Proof.Machine

/-! ### Translation by firmware -/

/-- What a translation gives: a physical address with permissions, or the reason of Table STREAM-14. -/
inductive Xlated where
  | at_ (pa : Nat) (r w : Bool)
  | fault (reason : Nat)
  deriving DecidableEq, Repr

/-- The address of the level-1 entry of `va` (R131). -/
def level1Addr (root va : Nat) : Nat := root + 8 * bits va 51 34

/-- What a valid level-1 entry names, or a fault reason (Tables STREAM-13, STREAM-14). -/
def level1Entry (e : Nat) : Nat ⊕ Nat :=
  if !bitOn e 0 then .inr 1
  else if bits e 63 52 ≠ 0 ∨ bits e 15 3 ≠ 0 ∨ bits e 20 16 ≠ 0 then .inr 5
  else .inl (bits e 51 16 * 65536)

/-- The address of the level-2 entry of `va` in the table at `t`. -/
def level2Addr (t va : Nat) : Nat := t + 8 * bits va 33 16

/-- What a level-2 entry gives for `va` (Tables STREAM-13, STREAM-14); permissions are tested by the access. -/
def level2Entry (e va : Nat) : Xlated :=
  if !bitOn e 0 then .fault 2
  else if bits e 63 52 ≠ 0 ∨ bits e 15 3 ≠ 0 then .fault 5
  else .at_ (bits e 51 16 * 65536 + va % 65536) (bitOn e 1) (bitOn e 2)

/-- Firmware's own walk for one address (R130): none when a walk read fails or the translation faults for a read. -/
def fwTranslate (s : State) (h : HostView) (va : Nat) : Option Nat :=
  if s.fw.root = 0 then some va
  else
    (hostRead s.build.cfg.ports h (level1Addr s.fw.root va) 8).bind fun b =>
      match level1Entry (ofBytes b) with
      | .inr _ => none
      | .inl t => (hostRead s.build.cfg.ports h (level2Addr t va) 8).bind fun b2 =>
        match level2Entry (ofBytes b2) va with
        | .at_ pa true _ => some pa
        | _ => none

/-- A translated read by firmware, page by page (R130); `fuel` bounds the pages. -/
def fwReadN (s : State) (h : HostView) : Nat → Nat → Nat → Option (List Byte)
  | _, _, 0 => some []
  | 0, _, _ => none
  | k + 1, a, n =>
    let m := min n (65536 - a % 65536)
    (fwTranslate s h a).bind fun pa =>
      (hostRead s.build.cfg.ports h pa m).bind fun b => (fwReadN s h k (a + m) (n - m)).map fun c => b ++ c

/-- A translated read of `n` bytes at `a`. [Log 6 DESIGN CHOICE] -/
def fwRead (s : State) (h : HostView) (a n : Nat) : Option (List Byte) := fwReadN s h (n / 65536 + 2) a n

/-- The parts of a write of `b` from `a` on that lie in one 4 KiB each, with the port R30 names for them; `fuel` bounds them. -/
def fwParts (np : Nat) : Nat → Nat → List Byte → List FwWrite
  | 0, _, _ => []
  | k + 1, a, b =>
    let n := 4096 - a % 4096
    if b = [] then [] else ⟨portOf np a, a, b.take n⟩ :: fwParts np k (a + n) (b.drop n)

/-- Firmware writes host memory (R30, R352): the bytes are appended to `fwWrites`. [Log 6 DESIGN CHOICE] -/
def State.fwWrite (s : State) (a : Nat) (b : List Byte) : State :=
  { s with fwWrites := s.fwWrites ++ fwParts s.build.cfg.ports (b.length / 4096 + 2) a b }

/-! ### The Plate pool -/

/-- The claims of Plate handles (R57). -/
def State.claims (s : State) : List (Nat × Nat) :=
  s.fw.tensors.filterMap fun e => if e.2.d.loc = 1 then some (e.2.d.allocBase, e.2.d.allocLen * 64) else none

/-- The buffers of stream reservations (R74). -/
def State.reservations (s : State) : List (Nat × Nat) :=
  (s.fw.streams.map fun (e : Nat × Stream) => e.2.reserve.map fun p => (p * 262144, 262144)).flatten

/-- A range meets one of a list of ranges. -/
def meetsAny (l : List (Nat × Nat)) (a n : Nat) : Bool := l.any fun r => rangesMeet r.1 r.2 a n

/-- Firmware may hold `n` bytes at pool offset `a`. [Log 46 DEDUCED] -/
def State.canHold (s : State) (a n : Nat) : Bool :=
  decide (a + n ≤ s.build.cfg.pool) && !meetsAny (s.claims ++ s.fw.held ++ s.reservations) a n

/-- Where firmware holds `n` bytes: its choice when that is free, else the lowest free place that starts at 0 or where a range
ends; none when no place is free. -/
def State.holdPlace (s : State) (place n : Nat) : Option Nat :=
  if s.canHold (place / 64 * 64) n then some (place / 64 * 64)
  else ((0 :: (s.claims ++ s.fw.held ++ s.reservations).map fun r => ceilDiv (r.1 + r.2) 64 * 64).filter fun a => s.canHold a n).min?

/-- Hold a range of the pool. -/
def State.hold (s : State) (a n : Nat) : State := { s with fw := { s.fw with held := s.fw.held ++ [(a, n)] } }
/-- Release a held range. -/
def State.unhold (s : State) (a n : Nat) : State := { s with fw := { s.fw with held := s.fw.held.erase (a, n) } }

/-- The buffer positions free of claims and firmware-held space (R75). -/
def State.openPositions (s : State) : List Nat :=
  (List.range (s.build.cfg.pool / 262144)).filter fun p => !meetsAny (s.claims ++ s.fw.held) (p * 262144) 262144

/-- Those also free of every stream's reservation (R232). -/
def State.freePositions (s : State) : List Nat :=
  s.openPositions.filter fun p => !meetsAny s.reservations (p * 262144) 262144

/-! ### Handles -/

/-- Live handles, tensors and Buntings together (R55, R235). -/
def State.liveHandles (s : State) : Nat := s.fw.tensors.length + s.fw.buntings.length

/-- A handle number that is free. -/
def State.handleFree (s : State) (h : Nat) : Bool :=
  decide (1 ≤ h) && decide (h ≤ 4095) && (Tbl.find s.fw.tensors h).isNone && (Tbl.find s.fw.buntings h).isNone

/-- The number firmware issues (R55): its choice when that is free, else the lowest free one. [Log 8 DESIGN CHOICE] -/
def State.newHandle (s : State) (pick : Nat) : Option Nat :=
  if s.handleFree pick then some pick else (List.range 4096).find? s.handleFree

/-- A live tensor handle. -/
def State.tensor (s : State) (h : Nat) : Option Tensor := Tbl.find s.fw.tensors h

/-- The loaded codebooks. -/
def State.hasBook (s : State) (c : Nat) : Bool := (Tbl.find s.fw.books c).isSome

/-- The checks of Table LAYOUT-4 down to the disjointness test, on the descriptor image: a status, or the descriptor. -/
def State.checkDesc (s : State) (b : List Byte) : Nat ⊕ Desc :=
  let ws := wordsOf 16 b
  match Fmt.ofCode (bits (dword ws 2) 31 26) with
  | none => if crc32c (b.take 60) ≠ dword ws 15 then .inl 10 else .inl 2
  | some f =>
    let d := Desc.ofWords ws f
    if crc32c (b.take 60) ≠ dword ws 15 then .inl 10
    else if !descReservedOk ws then .inl 2
    else if d.coded ∧ (d.loc ≠ 0 ∨ !d.padw ∨ !s.hasBook d.cbook) then .inl 2
    else if (d.loc = 2 ∧ d.peerTag = 0) ∨ (d.loc ≠ 2 ∧ (d.peerTag ≠ 0 ∨ d.ownerOff ≠ 0)) then .inl 2
    else if d.loc = 1 ∧ (bits (dword ws 1) 19 0 ≠ 0 ∨ bits (dword ws 12) 19 0 ≠ 0) then .inl 2
    else if d.e.any (fun x => decide (x = 0)) ∨ d.allocLen = 0 then .inl 3
    else if !d.aligned then .inl 4
    else if d.loc = 2 ∧ d.nst > 65536 then .inl 3
    else if !d.rangeOk s.build.cfg.pool then .inl 3
    else if !d.spanTest.2 then .inl 5
    else .inr d

/-- A tag that a live handle holds (Table LAYOUT-4). -/
def State.tagHeld (s : State) (t : Nat) : Bool := s.fw.tensors.any fun e => decide (e.2.d.loc = 2) && decide (e.2.d.peerTag = t)

/-- `TENSOR_CREATE` (R49-R58, Table LAYOUT-4). [Log 95 DESIGN CHOICE] -/
def tensorCreateBody (h : HostView) (pick place : Nat) (s : State) (p : Nat → Nat) : Ans :=
  if bits (p 1) 31 20 ≠ 0 then Ans.err s 2
  else if p 0 % 64 ≠ 0 then Ans.err s 4
  else match fwRead s h (addr52 (p 0) (p 1)) 64 with
  | none => Ans.err s 8
  | some b =>
    match s.checkDesc b with
    | .inl st => Ans.err s st
    | .inr d =>
      let owner := if d.loc = 2 then fwRead s h (d.allocBase + d.ownerOff) d.nst else some []
      match owner with
      | none => Ans.err s 8
      | some o =>
        if o.any (fun x => decide (x ≠ 0x00) && decide (x ≠ 0x01) && decide (x ≠ 0xFF)) then Ans.err s 2
        else if d.loc = 2 ∧ s.tagHeld d.peerTag then Ans.err s 2
        else if s.liveHandles ≥ 4095 then Ans.err s 6
        else if d.loc = 1 ∧ meetsAny (s.fw.held ++ s.reservations) d.allocBase (d.allocLen * 64) then Ans.err s 6
        else match s.newHandle pick with
        | none => Ans.err s 6
        | some k =>
          if d.loc = 2 then
            match s.holdPlace place o.length with
            | none => Ans.err s 6
            | some a =>
              let s := (s.hold a o.length).plateFill a o
              Ans.ok { s with fw := { s.fw with tensors := Tbl.put k ⟨d, o, some (a, o.length)⟩ s.fw.tensors } } [k]
          else Ans.ok { s with fw := { s.fw with tensors := Tbl.put k ⟨d, [], none⟩ s.fw.tensors } } [k]

/-- `TENSOR_CREATE`. -/
def execTensorCreate (h : HostView) (pick : BitVec 12) (place : Nat) (s : State) : Out :=
  command 0x20 anyVariant (fun s p => (tensorCreateBody h pick.toNat place s p).verdict) s

/-! ### Who names a handle -/

/-- The handles an instruction names (R80). -/
def insnHandles : FInsn → List Nat
  | .base _ _ false h _ _ _ => [h]
  | .stipple _ _ h _ => [h]
  | .scale c => if c.use = 0 then [] else [c.handle]
  | _ => []

/-- The decoded instructions of a loaded program. -/
def Prog.insns (p : Prog) : List FInsn := p.code.filterMap fun w => decodeInsn w.toNat

/-- A loaded program names handle `h` (R80). -/
def State.programNames (s : State) (h : Nat) : Bool := s.fw.programs.any fun e => e.2.insns.any fun i => (insnHandles i).contains h

/-- A stream that is neither complete nor abandoned (R79, R80). -/
def Stream.live (x : Stream) : Bool := !(decide (x.st = .bound) && x.armed)

/-- A weight-slot binding names handle `h` as its model table. -/
def WBind.names (h : Nat) : WBind → Bool
  | .table t _ => decide (t = h)
  | _ => false

/-- A live stream holds handle `h` in a base slot or as a model table (R80). -/
def State.streamNames (s : State) (h : Nat) : Bool :=
  s.fw.streams.any fun e => e.2.live && ((e.2.subst.any fun q => decide (q.2 = h)) || e.2.wbind.any (WBind.names h))

/-- Handle `h` is a member of a Bunting that a loaded program names (R236). -/
def State.memberNamed (s : State) (h : Nat) : Bool :=
  s.fw.buntings.any fun e => (e.2.members.any fun m => decide (m.handle = h)) && (s.programNames e.1 || s.streamNames e.1)

/-- A loaded model lies in the weight store of handle `h` and a live stream's binding names it (R151). [Log 25 DEDUCED] -/
def State.storeInUse (s : State) (h : Nat) : Bool :=
  s.fw.models.any fun m => decide (m.2.handle = h) && s.fw.streams.any fun e => e.2.live && e.2.wbind.any fun b =>
    match b with
    | .fixed mid => decide (mid = m.1)
    | .table _ es => es.contains m.1
    | .unbound => false

/-- Slots and shadow buffers forget the blocks of model `m` when it is unloaded or replaced (R151, R155). -/
def Lane.forget (l : Lane) (m : Nat) : Lane :=
  { l with
    slots := l.slots.filter fun e => decide (e.2.mid ≠ m)
    shadow := match l.shadow with
      | some (k, b) => if b.mid = m then none else some (k, b)
      | none => none
    loading := match l.loading with
      | some (a, b, c) => if a = m then none else some (a, b, c)
      | none => none }

/-- Every lane forgets the blocks of model `m`. [Log 25 DEDUCED] -/
def State.forgetModel (s : State) (m : Nat) : State :=
  s.build.cfg.physLanes.foldl (fun s p => s.modLane p fun l => l.forget m) s

/-- Unload model `m` (R151). [Log 25 DEDUCED] -/
def State.unloadModel (s : State) (m : Nat) : State :=
  ({ s with fw := { s.fw with models := Tbl.drop m s.fw.models } }).forgetModel m

/-- The models that lie in the weight store of handle `h`. [Log 25 DEDUCED] -/
def State.modelsIn (s : State) (h : Nat) : List Nat :=
  (s.fw.models.filter fun (e : Nat × Model) => decide (e.2.handle = h)).map (·.1)

/-- `TENSOR_DESTROY` (R55, R57, R58, R80, R151, R236). [Log 25 DEDUCED] -/
def tensorDestroyBody (s : State) (p : Nat → Nat) : Ans :=
  let h := bits (p 0) 15 0
  if bits (p 0) 31 16 ≠ 0 then Ans.err s 2
  else if (Tbl.find s.fw.buntings h).isSome then Ans.err s 2
  else match s.tensor h with
  | none => Ans.err s 7
  | some t =>
    if s.programNames h || s.streamNames h || s.memberNamed h || s.storeInUse h then Ans.err s 1
    else
      let s := (s.modelsIn h).foldl State.unloadModel s
      let s := match t.heldAt with
        | some r => s.unhold r.1 r.2
        | none => s
      Ans.ok { s with fw := { s.fw with tensors := Tbl.drop h s.fw.tensors } } []

/-- `TENSOR_DESTROY`. -/
def execTensorDestroy (s : State) : Out := command 0x21 anyVariant (fun s p => (tensorDestroyBody s p).verdict) s

end Sys2Proof.Machine
end

