-- ==== Sys2Proof/Machine/Dict.lean ====
section
/-! DEFINITION. Vector dictionary coding (R193-R214): codebooks, the code and its inverse, block headers. -/
namespace Sys2Proof.Machine

/-- Entry `i` of a codebook image (R198). -/
def bookEntry (book : List Byte) (i : Nat) : Nat := fieldLE book (8 * i) 8

/-- The hash of a vector (R198). -/
def dictHash (v : Nat) : Nat := (((v % 2 ^ 32) ^^^ (v / 2 ^ 32)) * 0x9E3779B1 % 2 ^ 32) >>> 21

/-- The match table's content for a bucket (R198): the lowest index of 0 to 1,022 whose entry has that hash. -/
def bucketOf (book : List Byte) (b : Nat) : Option Nat := (List.range 1023).find? fun i => decide (dictHash (bookEntry book i) = b)

/-- The index the compressor codes a vector as (R198), 1,023 for an escape. -/
def codeVector (book : List Byte) (v : Nat) : Nat :=
  match bucketOf book (dictHash v) with
  | some i => if bookEntry book i = v then i else 1023
  | none => 1023

/-- A stored body with its mode, and the escapes in it (R201). -/
structure Coded where
  mode : Nat
  body : List Byte
  escapes : Nat
  deriving DecidableEq, Repr

/-- One group of 16 vectors (R200): the 160-bit index field, then the literals. -/
def codeGroup (book : List Byte) (raw : List Byte) : List Byte × Nat :=
  let vs := (List.range 16).map fun k => fieldLE raw (8 * k) 8
  let is := vs.map (codeVector book)
  let field := is.foldr (fun i x => i + 1024 * x) 0
  let lits := (List.range 16).filter fun k => decide (nth 0 is k = 1023)
  (toBytes field 20 ++ (lits.map fun k => slice raw (8 * k) 8).flatten, lits.length)

/-- The groups of a block, in order. -/
def codeGroups (book : List Byte) : Nat → List Byte → List Byte × Nat
  | 0, _ => ([], 0)
  | n + 1, raw =>
    let (b, e) := codeGroup book (raw.take 128)
    let (bs, es) := codeGroups book n (raw.drop 128)
    (b ++ bs, e + es)

/-- `code_block` of R201. -/
def codeBlock (book raw : List Byte) : Coded :=
  let (b, e) := codeGroups book (raw.length / 128) raw
  if b.length ≥ raw.length then ⟨0, raw, 0⟩ else ⟨1, b, e⟩

/-- A block header (Table DICT-3). -/
def blockHeader (rawsz clen cbid mode rcrc : Nat) : List Byte :=
  toBytes rawsz 2 ++ toBytes clen 2 ++ [BitVec.ofNat 8 cbid, BitVec.ofNat 8 mode, 0, 0] ++ toBytes rcrc 4 ++ [0, 0, 0, 0]

/-- The checks of a header, reasons 1 to 4 of Table DICT-4; 0 when all pass. -/
def headerReason (h : List Byte) (z cbook : Nat) : Nat :=
  let clen := fieldLE h 2 2
  let mode := fieldLE h 5 1
  if fieldLE h 4 1 ≥ 16 ∨ fieldLE h 6 2 ≠ 0 ∨ fieldLE h 12 4 ≠ 0 ∨ mode > 1 then 1
  else if fieldLE h 4 1 ≠ cbook then 2
  else if fieldLE h 0 2 ≠ z then 3
  else if (mode = 0 ∧ clen ≠ z) ∨ (mode = 1 ∧ (clen ≥ z ∨ clen < 20 * z / 128)) then 4
  else 0

/-- A block decoded: its bytes and the escapes in it, or reason 5 of Table DICT-4. -/
structure Expanded where
  out : List Byte
  escapes : Nat
  deriving DecidableEq, Repr

/-- The vectors of one group from index `k` on: what is put out and what is left of the body (R206). -/
def expandVectors (book : List Byte) (idx : Nat) : Nat → Nat → List Byte → Option (List Byte × Nat × List Byte)
  | 0, _, rest => some ([], 0, rest)
  | n + 1, k, rest =>
    let i := (idx >>> (10 * k)) % 1024
    if i = 1023 then
      if rest.length < 8 then none
      else (expandVectors book idx n (k + 1) (rest.drop 8)).map fun r => (rest.take 8 ++ r.1, r.2.1 + 1, r.2.2)
    else (expandVectors book idx n (k + 1) rest).map fun r => (slice book (8 * i) 8 ++ r.1, r.2.1, r.2.2)

/-- The groups of a coded body (R206). -/
def expandGroups (book : List Byte) : Nat → List Byte → Option Expanded
  | 0, rest => if rest = [] then some ⟨[], 0⟩ else none
  | n + 1, rest =>
    if rest.length < 20 then none
    else match expandVectors book (ofBytes (rest.take 20)) 16 0 (rest.drop 20) with
    | none => none
    | some (o, e, rest') => (expandGroups book n rest').map fun r => ⟨o ++ r.out, e + r.escapes⟩

/-- `expand` of R206 without its CRC comparison: none for reason 5. -/
def expandBody (book body : List Byte) (z mode : Nat) : Option Expanded :=
  if mode = 0 then some ⟨body, 0⟩ else expandGroups book (z / 128) body

/-- `CODEBOOK_LOAD` (R197, Table DICT-2). [Log 24 DEDUCED] -/
def codebookLoadBody (h : HostView) (s : State) (p : Nat → Nat) : Ans :=
  let id := bits (p 0) 3 0
  let a := addr52 (p 1) (p 2)
  if bits (p 0) 31 4 ≠ 0 ∨ bits (p 2) 31 20 ≠ 0 then Ans.err s 2
  else if p 1 % 64 ≠ 0 then Ans.err s 4
  else match fwRead s h a 8192 with
  | none =>
    if s.fw.tensors.any fun e => e.2.d.coded && decide (e.2.d.cbook = id) then Ans.err s 1
    else ({ s with fw := { s.fw with books := Tbl.drop id s.fw.books } }, 8, [])
  | some b =>
    if crc32c b ≠ p 3 then Ans.err s 10
    else if (b.drop 8184).any fun x => decide (x ≠ 0) then Ans.err s 2
    else if s.fw.tensors.any fun e => e.2.d.coded && decide (e.2.d.cbook = id) then Ans.err s 1
    else Ans.ok { s with fw := { s.fw with books := Tbl.put id (a, b) s.fw.books } } []

/-- `CODEBOOK_LOAD`. -/
def execCodebookLoad (h : HostView) (s : State) : Out :=
  command 0xA0 anyVariant (fun s p => (codebookLoadBody h s p).verdict) s

end Sys2Proof.Machine
end

