-- ==== Sys2Proof/Machine/LaneBase.lean ====
section
/-! DEFINITION. What the lane engines share (04): run lists and descriptor queues (R107, R261, R409), the stream each engine
runs, positions, errors and lane stops (R116-R119), translation (R130-R133). -/
namespace Sys2Proof.Machine

/-! ### Programs and handles of a stream -/

/-- The key of a program: logical lane and program ID. [Log 46 DEDUCED] -/
def progKey (lane pid : Nat) : Nat := lane * 64 + pid

/-- The program a stream is bound to; a TL-64 stream has none (R121). [Log 46 DEDUCED] -/
def State.progOf (s : State) (x : Stream) : Option Prog :=
  if x.tl.isSome then none else Tbl.find s.fw.programs (progKey x.lane x.pid)

/-- The cell of the program store that holds index `pc` of a stream's program fails its check value (R78). -/
def State.cellBad (s : State) (x : Stream) (pc : Nat) : Bool := ((s.progOf x).map fun p => p.bad.contains (pc / 8)).getD false

/-- The instruction at index `pc` of a stream's program; none while its cell fails its check value. -/
def State.insnAt (s : State) (x : Stream) (pc : Nat) : Option FInsn :=
  if s.cellBad x pc then none else (s.progOf x).bind fun p => p.code[pc]?.bind fun w => decodeInsn w.toNat

/-- The remaining members of a write-side handle with their indices: the tensor itself, or the Bunting's members that have not
been evicted (R236, R239). -/
def State.destsOf (s : State) (h : Nat) : List (Nat × Tensor) :=
  match Tbl.find s.fw.buntings h with
  | some b => ((b.members.mapIdx fun i m => (i, m)).filter fun (e : Nat × Member) => !e.2.evicted).filterMap fun (e : Nat × Member) =>
      (s.tensor e.2.handle).map fun t => (e.1, t)
  | none => match s.tensor h with
    | some t => [(0, t)]
    | none => []

/-- The tensor that gives the layout of a write-side handle: itself, or the first member of a Bunting (R235). -/
def State.layoutOf (s : State) (h : Nat) : Option Tensor :=
  match Tbl.find s.fw.buntings h with
  | some b => match b.members with
    | m :: _ => s.tensor m.handle
    | [] => none
  | none => s.tensor h

/-! ### Run lists (R261) -/

/-- The run list of a logical lane. -/
def State.runlistOf (s : State) (n : Nat) : List Nat := Tbl.get [] s.fw.runlist n

/-- Replace the run list of a logical lane. -/
def State.setRunlist (s : State) (n : Nat) (l : List Nat) : State := { s with fw := { s.fw with runlist := Tbl.set [] s.fw.runlist n l } }

/-- A stream is runnable: admitted, in a run, not marked paused, not held (R261). -/
def Stream.runnable (x : Stream) : Bool := decide (x.st = .active) && !x.paused

/-- A stream becomes runnable: it goes to the end of its lane's run list. -/
def State.enlist (s : State) (c : Nat) : State :=
  match s.stream c with
  | some x => if (s.runlistOf x.lane).contains c then s else s.setRunlist x.lane (s.runlistOf x.lane ++ [c])
  | none => s

/-- A stream is runnable no more. -/
def State.delist (s : State) (c : Nat) : State :=
  match s.stream c with
  | some x => s.setRunlist x.lane ((s.runlistOf x.lane).filter fun d => decide (d ≠ c))
  | none => s

/-- The streams of a run list in the order in which they are taken: real-time before normal. -/
def State.takeOrder (s : State) (n : Nat) : List Nat :=
  let l := (s.runlistOf n).filter fun c => ((s.stream c).map Stream.runnable).getD false
  let rt := fun c => ((s.stream c).map fun x : Stream => x.rt).getD false
  (l.filter fun c => rt c) ++ (l.filter fun c => !rt c)

/-- The next stream to give a descriptor: the first runnable one with none, or a stream alone in the list, whose descriptor is
already begun (R261). -/
def State.nextToQueue (s : State) (n : Nat) (q : List DescEntry) : Option Nat :=
  let order := s.takeOrder n
  match order.find? fun c => !(q.any fun e => decide (e.sctx = c) && !e.ended) with
  | some c => some c
  | none => match order with
    | [c] => if q.any fun e => decide (e.sctx = c) && !e.ended && !e.begun then none else some c
    | _ => none

/-- The fields of a descriptor that firmware derives (R340): context, program, reservation offsets, and the places of its slots' snapshots. -/
def Stream.derived (c : Nat) (x : Stream) : List Nat := [c, x.lane, x.pid] ++ x.reserve ++ x.tblHeld.flatMap fun e => [e.1, e.2.1]

/-- The descriptor that firmware builds for stream `c` (R107, R340). -/
def State.descriptorOf (s : State) (c : Nat) : DescEntry :=
  let mail := ((s.stream c).map Stream.mail).getD []
  let d := ((s.stream c).map (Stream.derived c)).getD [c]
  { sctx := c, begun := false, expired := false, ended := false, upTo := 0, mail := mail, crc := crc32c (bytesOfWords mail), derived := d, copy := d }

/-- Fill a descriptor queue of four entries. -/
def State.refillN (s : State) (n : Nat) : Nat → List DescEntry → List DescEntry
  | 0, q => q
  | k + 1, q =>
    if q.length ≥ 4 then q
    else match s.nextToQueue n q with
    | some c => s.refillN n k (q ++ [s.descriptorOf c])
    | none => q

/-- Firmware keeps the descriptor queue of a logical lane filled (R261); a lane that is stopped gets no new descriptor, nor does
any lane in the safe state, in a warm restart, or while the core is halted. -/
def State.refill (s : State) (n : Nat) : State :=
  match s.physOf n with
  | none => s
  | some p =>
    if decide ((s.lane p).stops ≠ []) || s.flt.safe || !s.ctl.fwReady || s.life.halted then s
    else s.modLane p fun l => { l with queue := s.refillN n 4 l.queue }

/-- A stream becomes runnable and its lane's queue is filled. -/
def State.makeRunnable (s : State) (c : Nat) : State :=
  match s.stream c with
  | some x => (s.enlist c).refill x.lane
  | none => s

/-! ### The engines' streams (R107) -/

/-- The descriptor the execute engine runs: the first that has begun and not ended. -/
def Lane.execEntry (l : Lane) : Option DescEntry := l.queue.find? fun e => e.begun && !e.ended

/-- The descriptor the fetch engine runs: the first that has begun, has not ended, and whose stream it has not fetched to its
`END`. -/
def State.fetchEntry (s : State) (p : Nat) : Option DescEntry :=
  (s.lane p).queue.find? fun e => e.begun && !e.ended && ((s.stream e.sctx).map fun x : Stream => !x.fetchEnd).getD false

/-- The stream the execute engine of a lane runs. -/
def State.execStream (s : State) (p : Nat) : Option (Nat × Stream) :=
  (s.lane p).execEntry.bind fun e => (s.stream e.sctx).map fun x => (e.sctx, x)

/-- The stream the fetch engine of a lane runs. -/
def State.fetchStream (s : State) (p : Nat) : Option (Nat × Stream) :=
  (s.fetchEntry p).bind fun e => (s.stream e.sctx).map fun x => (e.sctx, x)

/-- The fetch engine may begin new work: the lane is not stopped (R118, R127). -/
def Lane.fetching (l : Lane) : Bool := !l.draining && !l.holding && decide (l.stops = [])

/-- The execute engine may go on: the lane does not hold. -/
def Lane.executing (l : Lane) : Bool := !l.holding

/-! ### Transfers -/

/-- A transfer of a stream. -/
def Stream.xfer (x : Stream) (id : Nat) : Option Transfer := x.xfers.find? fun t => decide (t.id = id)

/-- Replace a transfer of a stream. -/
def Stream.setXfer (x : Stream) (t : Transfer) : Stream :=
  { x with xfers := x.xfers.map fun u => if u.id = t.id then t else u }

/-- The transfer at the head of the execute engine: the oldest that has not issued its last write. [Log 44 DEDUCED] -/
def Stream.headXfer (x : Stream) : Option Transfer := x.xfers.find? fun t => !t.wrIssued

/-- Some write of an issued transfer has not completed, or has failed (R95). -/
def Stream.writesOpen (x : Stream) : Bool := x.xfers.any fun t => t.wrIssued

/-- The transfer produces narrow rows (`USE` 2) and is not yet wide, so that nothing that follows it is performed before it is
known whether it runs again (R184). -/
def Transfer.producing (t : Transfer) : Bool :=
  match t.rs.scale with
  | some c => decide (c.use = 2) && !t.snap.wide
  | none => false

/-! ### Positions (R262, R408, Table FYUSH-9) -/

/-- The transfer whose reads the fetch engine issues: the newest. -/
def Stream.emitXfer (x : Stream) : Option Transfer := if x.emitting then x.xfers.getLast? else none

/-- The execute engine's program counter (R408): the oldest instruction passed to it, else where the fetch engine stands. -/
def Stream.xpc (x : Stream) : Nat := match x.xq with
  | q :: _ => q.pc
  | [] => x.fpc

/-- Two half-words. -/
def halves (lo hi : Nat) : Nat := lo % 65536 + hi % 65536 * 65536

/-- The loop indices of the `EMIT` in hand (R408): in the nest the fetch engine walks. [Log 43 DEDUCED] -/
def Transfer.emitIndices (t : Transfer) : Nat × Nat × Nat := (if t.rs.readDriven then t.rs.rd else t.rs.wr).indices t.rdNext

/-- The loop indices of the current `DRAIN` (R408). [Log 43 DEDUCED] -/
def Stream.drainIndices (x : Stream) : Nat × Nat × Nat :=
  match x.headXfer with
  | some t => t.rs.wr.indices t.wrNext
  | none => (0, 0, 0)

/-- The write-side transfer index: the execute engine's. -/
def Stream.tixWr (x : Stream) : Nat := match x.headXfer with | some t => t.rs.wr.tix | none => x.rs.wr.tix

/-- The fetch engine's counter; of a TL-64 stream, the descriptor that comes next. -/
def Stream.fetchPc (x : Stream) : Nat := if x.tl.isSome then x.tlNext else x.fpc
/-- The execute engine's counter. -/
def Stream.execPc (x : Stream) : Nat := if x.tl.isSome then x.tlNext else x.xpc

/-- Words 32 to 46 of the record: the position (Table FYUSH-9). [Log 43 DEDUCED] -/
def Stream.positionWords (x : Stream) : List Nat :=
  let (e0, e1, e2) := match x.emitXfer with | some t => t.emitIndices | none => (0, 0, 0)
  let (d0, d1, d2) := x.drainIndices
  let rep := fun k => nth 0 (x.reps.reverse.map fun r : Rep => r.left) k
  let cur := fun k => (nth 0 x.cursors k).toNat
  let (nr, nf) := match x.headXfer with | some t => (t.nr, t.nf) | none => (0, 0)
  [x.fetchPc % 8192 + x.execPc % 8192 * 65536, halves (rep 0) (rep 1), halves (rep 2) (rep 3), halves e0 e1, halves e2 d0, halves d1 d2,
   halves x.rs.rd.tix x.tixWr, halves (cur 0) (cur 1), halves (cur 2) (cur 3), halves (cur 4) (cur 5), halves (cur 6) (cur 7),
   (if x.wide then 65536 else 0) + x.epoch.toNat * 256 + min x.pending.length 255, x.scaleBlock % 65536 + x.scaleSlot % 64 * 65536, nr, nf]

/-- The position of a stream is saved (R127, R262). -/
def Stream.savePos (x : Stream) : Stream := { x with savedPos := x.positionWords }

/-! ### The end of a descriptor (R107, R409) -/

/-- Drop the ended descriptors whose writes have all completed (R409). [Log 47 DEDUCED] -/
def State.dropEnded (s : State) (p : Nat) : State :=
  s.modLane p fun l => { l with queue := l.queue.filter fun e =>
    !(e.ended && ((s.stream e.sctx).map fun x : Stream => x.xfers.all fun t => decide (t.id ≥ e.upTo) || (decide (t.outstanding = 0) && decide (t.err = none))).getD true) }

/-- The first number of a transfer that has not issued its last write. [Log 47 DEDUCED] -/
def Stream.firstOpen (x : Stream) : Nat := match x.headXfer with | some t => t.id | none => x.nextXfer

/-- The execute engine's descriptor of stream `c` ends on lane `p`; the stream goes to the end of its run list while it stays
runnable, and firmware fills the queue. -/
def State.endDescriptor (s : State) (p c : Nat) : State :=
  match s.stream c with
  | none => s
  | some x =>
    let s := s.modLane p fun l => { l with queue := l.queue.map fun e =>
      if e.sctx = c ∧ e.begun ∧ !e.ended then { e with ended := true, upTo := x.firstOpen } else e }
    let s := ((s.modStream c Stream.savePos).endOccs c).delist c
    let s := if x.runnable then s.enlist c
      else s.modLane p fun l => { l with queue := l.queue.filter fun e => !(decide (e.sctx = c) && !e.begun) }
    (s.dropEnded p).refill x.lane

/-- A descriptor whose quantum has expired ends at a transfer boundary, unless the lane is stopping (Table STREAM-12). -/
def State.endExpired (s : State) (p c : Nat) : State :=
  if decide ((s.lane p).stops = []) && (s.lane p).queue.any fun e => decide (e.sctx = c) && e.begun && !e.ended && e.expired then s.endDescriptor p c else s

/-- Take every descriptor of stream `c` off lane `p`; its phase occurrences end. -/
def State.takeOff (s : State) (p c : Nat) : State :=
  ((s.closeOccs c fun _ => true).modLane p fun l => { l with queue := l.queue.filter fun e => decide (e.sctx ≠ c) }).delist c

/-! ### Completion of a transfer (R84, R116, R184) -/

/-- A transfer has issued every write and each has completed with `OK`. -/
def Transfer.complete (t : Transfer) : Bool := t.wrIssued && decide (t.outstanding = 0) && decide (t.err = none)

/-- Whether a completed producing transfer runs again wide (R184). [Log 55 DEDUCED] -/
def Transfer.rerun (t : Transfer) : Bool :=
  match t.rs.scale with
  | some c => t.producing && decide (t.nf * 2 ^ (if c.rsh = 0 then 4 else c.rsh) > t.nr)
  | none => false

/-- Some stream of the lane's queue has an open transfer. -/
def State.laneRuns (s : State) (p : Nat) : Bool :=
  (s.lane p).queue.any fun e => ((s.stream e.sctx).map fun x : Stream => decide (x.xfers ≠ [])).getD false

/-- A transfer of stream `c` leaves it and is counted; `XST` of the stream's lane shows `DONE` when no other transfer of the lane is open
(Table STREAM-5). -/
def State.dropXfer (s : State) (c id : Nat) : State :=
  match s.stream c with
  | none => s
  | some x =>
    let s := s.setStream c ({ x with xfers := x.xfers.filter fun u => decide (u.id ≠ id) }.count 2 1)
    match s.physOf x.lane with
    | none => s
    | some p =>
      let xst := if s.laneRuns p then 2 else 3
      let s := s.modLane p fun l => { l with xst := if l.xst ≤ 3 then xst else l.xst }
      (s.dropEnded p).refill x.lane

/-- A transfer of stream `c` has completed. The members of a split stream keep theirs until member 0's completes (R171). -/
def State.finishXfer (s : State) (c id : Nat) : State :=
  match s.stream c with
  | none => s
  | some x =>
    let s := s.dropXfer c id
    (List.range (x.g - 1)).foldl (fun s i =>
      match (s.stream (c + i + 1)).bind fun y => y.xfer id with
      | some u => if u.wrIssued then s.dropXfer (c + i + 1) id else s
      | none => s) s

/-- Member 0 of a split stream is done with transfer `id`, or the transfer reduces nothing, so that the member's is done too. [Log 42 DEDUCED] -/
def State.memberDone (s : State) (c : Nat) (x : Stream) (t : Transfer) : Bool :=
  !t.rs.x.arith || (match s.stream (c - x.idx) with
    | some y => (y.xfer t.id).isNone && decide (t.id < y.nextXfer)
    | none => true)

/-- A write of a transfer, or its last issue, has just completed: complete the transfer, or report it for a wide re-run. Members of
a split stream other than member 0 wait for member 0. -/
def State.checkComplete (s : State) (p c id : Nat) : State :=
  match (s.stream c).bind fun x => x.xfer id with
  | none => s
  | some t =>
    if !t.complete then s
    else if t.rerun then
      let r := LaneReport.wideRerun c id
      s.modLane p fun l => if l.report.contains r then l else { l with report := l.report ++ [r] }
    else match s.stream c with
    | some x => if x.idx = 0 then s.finishXfer c id else if s.memberDone c x t then s.dropXfer c id else s
    | none => s

/-! ### Restoring a position (R119, R407, R408) -/

/-- Restore a stream's position from the snapshot of transfer `t`: fetch-ahead beyond it is discarded. [Log 41 DEDUCED] -/
def Stream.restore (x : Stream) (t : Transfer) : Stream :=
  { x with
    fpc := t.snap.pc
    reps := t.snap.reps
    rs := t.snap.rs
    xrs := t.snap.rs
    emitting := false
    fetchEnd := false
    xq := []
    xfers := x.xfers.filter fun u => decide (u.id < t.id)
    cursors := t.snap.cursors
    pending := (t.snap.pending ++ t.fired).take 255
    wide := t.snap.wide
    scaleSlot := t.snap.scaleSlot
    scaleBlock := t.snap.scaleBlock
    scaleRow := t.snap.scaleRow
    fetchCur := ⟨t.snap.scaleBlock, t.snap.scaleSlot, t.snap.scaleRow⟩
    bufs := x.bufs.filter fun b => decide (b.1 < t.id)
    prodBlock := t.snap.prodBlock
    nextXfer := t.id
    units := t.snap.units
    undone := (x.xfers.filter fun u => decide (u.id ≥ t.id)).map (fun u => ⟨u.id, u.start, u.rs.deadline, u.missed⟩) ++
      x.undone.filter fun u => x.xfers.all fun v => decide (v.id ≠ u.id)
    regrant := (x.xfers.filter fun u => decide (u.id ≥ t.id) && u.granted).length + x.regrant }

/-- The position of a stream in address format P (Table FAULT-3): context, epoch, execute-engine counter, write-side transfer
index. -/
def formatP (c : Nat) (x : Stream) : Nat :=
  let tix := match x.headXfer with | some t => t.rs.wr.tix | none => x.rs.wr.tix
  c % 4096 * 2 ^ 34 + x.epoch.toNat * 2 ^ 26 + x.xpc % 8192 * 2 ^ 13 + tix % 8192

end Sys2Proof.Machine
end

