-- ==== Sys2Proof/Machine/Geometry.lean ====
section
/-! DEFINITION. Where the units of a transfer lie, which source element each written element takes, and which cells are read and
written (R47, R58, R60-R66, R86-R92, R110, R123). -/
namespace Sys2Proof

/-- The cells of a super-tile that hold an element inside the bounds `lo .. hi`. -/
def Desc.tileCells (d : Desc) (sti : Nat) (lo hi : V4 Nat) : List Nat :=
  let c := d.stCoord sti
  (List.range (d.f / 64)).filter fun k =>
    let tile := k / 16
    let i0 := c.d0 * d.w0 + tile % d.stc * d.fmt.td0
    let i1 := c.d1 * d.w1 + tile / d.stc * 16 + k % 16
    decide (i0 ≤ hi.d0) && decide (lo.d0 ≤ i0 + d.fmt.td0 - 1) && decide (lo.d1 ≤ i1) && decide (i1 ≤ hi.d1)

/-- What a null gather entry and an absent super-tile read as (Tables LAYOUT-5, LAYOUT-9): the constant pad value, or zero when the
stream pads by edges. -/
def Pad.fill (p : Pad) : Nat := if p.edge then 0 else p.value

/-- The width of a side's unit in cells. -/
def Side.cells (d : Side) : Nat := match d.tile with | some t => t.u0 | none => 0

/-- The length of a byte-mode unit. -/
def Side.blen (d : Side) : Nat := match d.tile with | some t => t.blen | none => 0

/-- The super-tile and the cell of it that hold the byte at `a`, if some super-tile does (R47). -/
def Desc.tileAt (d : Desc) (a : Nat) : Option (Nat × Nat) :=
  ((List.range d.nst).find? fun i => decide (d.stAddr (d.stCoord i) ≤ a) && decide (a < d.stAddr (d.stCoord i) + d.f)).map fun i =>
    (i, (a - d.stAddr (d.stCoord i)) / 64)

end Sys2Proof

namespace Sys2Proof.Machine

/-! ### Places -/

/-- Where a 64-byte cell lies: a host address before translation, a pool offset, a cell of a super-tile that the peer holds, or
nowhere (Table LAYOUT-5). -/
inductive Place where
  | host (va : Nat)
  | pool (off : Nat)
  | peer (tag sti cell : Nat)
  | absent
  deriving DecidableEq, Repr

/-- The key of a cell in a transfer's tables. -/
def Place.key : Place → Nat
  | .host a => a / 64
  | .pool o => 2 ^ 50 + o / 64
  | .peer t i c => 2 ^ 60 + t * 2 ^ 40 + i * 4096 + c
  | .absent => 0

/-- The place of cell `cell` of super-tile `sti` (R47, R58). -/
def Tensor.placeCell (t : Tensor) (sti cell : Nat) : Place :=
  let a := t.d.stAddr (t.d.stCoord sti) + cell * 64
  match t.d.loc with
  | 0 => .host a
  | 1 => .pool a
  | _ => match (nth 0xFF#8 t.owner sti).toNat with
    | 0 => .host a
    | 1 => .peer t.d.peerTag sti cell
    | _ => .absent

/-- The place of an element: its cell, the byte in the cell, the nibble. -/
def Tensor.placeAt (t : Tensor) (i : V4 Nat) : Place × Nat × Nat :=
  let x := t.d.addrOf i
  let sti := t.d.stIndex (t.d.stOf i)
  let off := x.1 - t.d.stAddr (t.d.stOf i)
  (t.placeCell sti (off / 64), off % 64, x.2)

/-! ### Swaps (R126, R410) -/

/-- One group of a swap (Table STREAM-10); a partial group stays unchanged. -/
def swapGroup (kind : Nat) (g : List Byte) : List Byte :=
  match kind, g with
  | 1, [a, b] => [b, a]
  | 2, [a, b, c, d] => [d, c, b, a]
  | 3, [a, b, c, d] => [c, d, a, b]
  | _, g => g

/-- Bytes in one swap group. -/
def swapWidth (kind : Nat) : Nat := if kind = 1 then 2 else 4

/-- Swap a run of bytes group by group; `fuel` bounds the groups. -/
def swapRun (kind : Nat) : Nat → List Byte → List Byte
  | 0, b => b
  | n + 1, b => if b = [] then [] else swapGroup kind (b.take (swapWidth kind)) ++ swapRun kind n (b.drop (swapWidth kind))

/-- The swap of a run of bytes. -/
def swapBytes (kind : Nat) (b : List Byte) : List Byte := if kind = 0 then b else swapRun kind b.length b

/-! ### The view of a transfer -/

/-- What the engines need of a transfer: the run state at its `EMIT`, the read-side tensor, the tensor that gives the write-side
layout, the list tensors, the scale tensor, and the list cells read so far. -/
structure View where
  rs : RunState
  rd : Tensor
  wr : Tensor
  rdList : Option Tensor
  wrList : Option Tensor
  scale : Option Tensor
  lists : Tbl Cell
  deriving DecidableEq, Repr

/-- The tensor of a side's list. [Log 51 DEDUCED] -/
def State.listOf (s : State) (d : Side) : Option Tensor := d.list.bind fun l => s.tensor l.handle

/-- The view of a transfer of a stream. -/
def State.view (s : State) (x : Stream) (t : Transfer) : Option View :=
  match s.tensor (x.handleOf t.rs.rd), s.layoutOf (x.handleOf t.rs.wr) with
  | some r, some w => some ⟨t.rs, r, w, s.listOf t.rs.rd, s.listOf t.rs.wr, t.rs.scale.bind fun c => s.tensor c.handle, t.lists⟩
  | _, _ => none

/-- The place of the list cell that holds entry `n`, and the entry's byte in it (R71). A list lies in host memory or the pool. [Log 51 DEDUCED] -/
def listPlace (l : Tensor) (n : Nat) : Place × Nat :=
  let a := l.d.base + 8 * n
  (if l.d.loc = 1 then .pool (a / 64 * 64) else .host (a / 64 * 64), a % 64)

/-- Where a unit lies: at a position (D0 in cells), a null entry, an entry out of range, or an entry not yet read. -/
inductive UnitAt where
  | pos (p : V4 Int)
  | null
  | out
  | unread
  deriving DecidableEq, Repr

/-- Where unit `n` of a side lies (R87, R88, Table LAYOUT-9). -/
def View.unitAt (v : View) (write : Bool) (n : Nat) : UnitAt :=
  let d := v.rs.side write
  match d.list, (if write then v.wrList else v.rdList) with
  | some l, some lt =>
    let (pl, o) := listPlace lt n
    match Tbl.find v.lists pl.key with
    | some (.data b _) =>
      let desc := (if write then v.wr else v.rd).d
      let e := stippleBlock (desc.listCounts l.super) (fieldLE b o 8)
      if e.null then .null
      else if write ∧ !e.inRange then .out
      else .pos (desc.listPos l.super e.c)
    | _ => .unread
  | _, _ => .pos (d.nestPos n)

/-- A tile's width in elements and its height, against a format. -/
def tileShape (t : Option Tile) (f : Fmt) : Nat × Nat :=
  match t with
  | some t => (t.u0 * f.td0, t.u1)
  | none => (0, 0)

/-- The shape of a side's unit in elements. -/
def View.shape (v : View) (write : Bool) : Nat × Nat :=
  tileShape (v.rs.side write).tile (if write then v.wr else v.rd).d.fmt

/-- The index of element `(e, r)` of a unit at `p`. -/
def unitIndex (p : V4 Int) (td0 e r : Nat) : V4 Int := ⟨p.d0 * td0 + e, p.d1 + r, p.d2, p.d3⟩

/-- The pairs `(e, r)` of a unit, D0 fastest (R87). -/
def unitPairs (w h : Nat) : List (Nat × Nat) := (List.range h).flatMap fun r => (List.range w).map fun e => (e, r)

/-! ### Sources -/

/-- What an element takes (R64, R90): a pattern that is no source element, a source element, or nothing known yet; with whether it
is a pad element. -/
inductive Src where
  | fill (pat : Nat) (pad : Bool)
  | elem (i : V4 Nat) (pad : Bool)
  | unread
  deriving DecidableEq, Repr

/-- R64 from the clamp of a padded-source index on. -/
def View.pick (v : View) (p : V4 Int) : Src :=
  let k := pickSource v.rd.d.e v.rs.pad v.rs.clampLo (v.rs.clampHi v.rd.d.e) p
  if k.const then .fill v.rs.pad.value true else .elem k.at_ k.isPad

/-- The source of the destination element `u` of a write-driven transfer (R89). -/
def View.srcOfWrite (v : View) (u : V4 Int) : Src :=
  let ow := v.rs.wr.origin v.wr.d.fmt.td0
  let or_ := v.rs.rd.origin v.rd.d.fmt.td0
  let pe := paddedExtents v.rd.d.e v.rs.pad.lo v.rs.pad.hi
  let p := v.rs.x.inverse pe (u.zip (· - ·) ow)
  v.pick (p.zip (· + ·) or_)

/-- The source of element `(e, r)` of read unit `k` (R90). -/
def View.srcOfRead (v : View) (k e r : Nat) : Src :=
  match v.unitAt false k with
  | .pos p => v.pick (unitIndex p v.rd.d.fmt.td0 e r)
  | .null => .fill v.rs.pad.fill false
  | .out => .fill v.rs.pad.fill false
  | .unread => .unread

/-- What becomes of element `(e, r)` of write unit `m`: suppressed (R62), a skipped pad element (R66), or written. -/
inductive OutElem where
  | suppressed
  | skip (src : Src)
  | write (src : Src)
  deriving DecidableEq, Repr

/-- A super-tile that neither chip holds is suppressed on a write (Table LAYOUT-5). [Log 32 DEDUCED] -/
def Tensor.absentAt (t : Tensor) (i : V4 Nat) : Bool :=
  decide (t.d.loc = 2) && decide (nth 0xFF#8 t.owner (t.d.stIndex (t.d.stOf i)) = 0xFF)

/-- The fate of element `(e, r)` of write unit `m` whose position is `p`. -/
def View.outAt (v : View) (m : Nat) (p : V4 Int) (e r : Nat) : OutElem :=
  let u := unitIndex p v.wr.d.fmt.td0 e r
  if !inWindow v.wr.d.e u || v.wr.absentAt u.toNats then .suppressed
  else if v.rs.x.arith then .write .unread
  else
    let src := if v.rs.readDriven then v.srcOfRead m e r else v.srcOfWrite u
    let pad := match src with | .fill _ b => b | .elem _ b => b | .unread => false
    if pad && !v.wr.d.padw then .skip src else .write src

/-! ### Cells of a write unit -/

/-- Rows of a unit grouped by tile row of the tensor, in order (R202). -/
def tileRows (p1 : Int) (h : Nat) : List (List Nat) :=
  (List.range h).foldl (fun (acc : List (List Nat)) (r : Nat) =>
    match acc.getLast? with
    | some g => match g with
      | q :: _ => if Int.fdiv (p1 + r) 16 = Int.fdiv (p1 + q) 16 then acc.dropLast ++ [g ++ [r]] else acc ++ [[r]]
      | [] => acc ++ [[r]]
    | none => [[r]]) []

/-- The cells `(c, r)` of a unit, one tile row at a time, in address order within each. -/
def unitCells (p1 : Int) (u0 h : Nat) : List (Nat × Nat) :=
  (tileRows p1 h).flatMap fun g => (List.range u0).flatMap fun c => g.map fun r => (c, r)

/-- The cells of write unit `m` that carry a written element, in issue order (R63, R66). [Log 39 DEDUCED] -/
def View.liveCells (v : View) (m : Nat) : List (Nat × Nat) :=
  match v.unitAt true m with
  | .pos p =>
    let td0 := v.wr.d.fmt.td0
    (unitCells p.d1 v.rs.wr.cells (v.shape true).2).filter fun cr =>
      (List.range td0).any fun k => match v.outAt m p (cr.1 * td0 + k) cr.2 with | .write _ => true | _ => false
  | _ => []

/-- The suppressed elements of write unit `m` (R62, Table LAYOUT-9). [Log 32 DEDUCED] -/
def View.suppressed (v : View) (m : Nat) : Nat :=
  let (w, h) := v.shape true
  match v.unitAt true m with
  | .pos p => ((unitPairs w h).filter fun er => decide (v.outAt m p er.1 er.2 = .suppressed)).length
  | .out => w * h
  | _ => 0

/-! ### Byte mode (R92) -/

/-- The address a byte-mode read takes (R92): the nearer end of the footprint outside it. -/
def byteSource (d : Desc) (a : Int) : Nat := clampInt a d.base (d.base + d.span - 1 : Int)

/-- The source address of byte `i` of read unit `n`. -/
def View.byteFrom (v : View) (n i : Nat) : Nat := byteSource v.rd.d (v.rs.rd.byteAddr v.rd.d.base n + i)

/-- The destination address of byte `i` of write unit `n`; none outside the footprint. -/
def View.byteTo (v : View) (n i : Nat) : Option Nat :=
  let a := v.rs.wr.byteAddr v.wr.d.base n + i
  if a < (v.wr.d.base : Int) ∨ a ≥ (v.wr.d.base + v.wr.d.span : Int) then none else some a.toNat

/-- The place of the cell of a tensor that holds the byte at `a`: byte mode addresses the footprint as flat bytes (R92). -/
def Tensor.placeByte (t : Tensor) (a : Nat) : Place :=
  match t.d.loc with
  | 0 => .host (a / 64 * 64)
  | 1 => .pool (a / 64 * 64)
  | _ => match t.d.tileAt a with
    | some (i, c) => t.placeCell i c
    | none => .host (a / 64 * 64)

/-- The destination cells of a byte-mode write unit: cell address and the `(byte in cell, byte of unit)` pairs written there. -/
def View.byteCells (v : View) (n : Nat) : List (Nat × List (Nat × Nat)) :=
  let l := (List.range v.rs.wr.blen).filterMap fun i => (v.byteTo n i).map fun a => (a, i)
  let cells := (l.map fun ai => ai.1 / 64 * 64).eraseDups
  (cells.map fun c => (c, (l.filter fun ai => decide (ai.1 / 64 * 64 = c)).map fun ai => (ai.1 % 64, ai.2))).filter fun e =>
    decide (v.wr.placeByte e.1 ≠ .absent)

/-- The suppressed bytes of a byte-mode write unit (R92, Table LAYOUT-5). -/
def View.byteSuppressed (v : View) (n : Nat) : Nat :=
  ((List.range v.rs.wr.blen).filter fun i => match v.byteTo n i with
    | some a => decide (v.wr.placeByte a = .absent)
    | none => true).length

/-! ### TL-64 descriptors (R122, R123, Table STREAM-8) -/

/-- Field words of a TL-64 descriptor. -/
structure Tl where
  src : Nat
  op : Nat
  fmt : Nat
  dst : Nat
  lines : Nat
  llen : Nat
  sstride : Nat
  dstride : Nat
  add : Nat
  hal : Nat
  deriving DecidableEq, Repr

/-- Decode the words of a descriptor (Table STREAM-8). -/
def Tl.of (ws : List Word) : Tl :=
  { src := dword ws 0 + bits (dword ws 1) 19 0 * 2 ^ 32
    op := bits (dword ws 1) 31 28
    fmt := bits (dword ws 1) 27 26
    dst := dword ws 2 + bits (dword ws 3) 19 0 * 2 ^ 32
    lines := bits (dword ws 4) 31 16 + 1
    llen := bits (dword ws 4) 15 0 + 1
    sstride := dword ws 5
    dstride := dword ws 6
    add := bits (dword ws 7) 31 16
    hal := bits (dword ws 7) 14 0 }

/-- Bytes of an element. -/
def Tl.esz (d : Tl) : Nat := if d.fmt = 2 then 2 else 1

/-- A piece of a TL-64 unit: source address (none for a fill), destination address, length. -/
structure Piece where
  src : Option Nat
  dst : Nat
  len : Nat
  deriving DecidableEq, Repr

/-- The pieces of source line `l` (R123): the line, or its 64-element parts, part `c` of block row `r` going to block `(c, r)`. -/
def Tl.pieces (d : Tl) (l : Nat) : List Piece :=
  match d.op with
  | 0 => [⟨some ((d.src + l * d.sstride) % 2 ^ 52), (d.dst + l * d.dstride) % 2 ^ 52, d.llen⟩]
  | 1 =>
    let w := 64 * d.esz
    (List.range (d.llen / w)).map fun c =>
      ⟨some ((d.src + l * d.sstride + c * w) % 2 ^ 52), (d.dst + (c * 64 + l % 64) * d.dstride + l / 64 * w) % 2 ^ 52, w⟩
  | _ => [⟨none, (d.dst + l * d.dstride) % 2 ^ 52, d.llen⟩]

/-- Byte `j` of a fill line (R123). -/
def Tl.fillByte (d : Tl) (j : Nat) : Byte := BitVec.ofNat 8 (if d.fmt = 2 ∧ j % 2 = 1 then d.src / 256 else d.src)

/-- The aligned cells that hold `n` bytes from `a`. -/
def spanCells (a n : Nat) : List Nat := (List.range ((a + n - 1) / 64 + 1 - a / 64)).map fun i => (a / 64 + i) * 64

/-- The destination cells of a TL-64 unit with their piece. -/
def Tl.cells (d : Tl) (l : Nat) : List (Nat × Piece) := (d.pieces l).flatMap fun q => (spanCells q.dst q.len).map fun c => (c, q)

/-! ### Units and `BEATS` (R115) -/

/-- A member of a split stream other than member 0 writes nothing (R171). -/
def Stream.silent (x : Stream) : Bool := decide (x.idx ≠ 0)

/-- Write units of a transfer. -/
def Transfer.wrUnits (t : Transfer) : Nat :=
  match t.tl with
  | some ws => (Tl.of ws).lines
  | none => t.rs.wr.units

/-- Fetch units of a transfer: read units when read-driven, else write units (R408). -/
def Transfer.rdUnits (t : Transfer) : Nat :=
  match t.tl with
  | some ws => (Tl.of ws).lines
  | none => if t.rs.readDriven then t.rs.rd.units else t.rs.wr.units

/-- The cells write unit `m` issues. With an unread scatter entry every cell of the unit counts (R115). -/
def View.cellCount (v : View) (m : Nat) : Nat :=
  if v.rs.byteMode then (v.byteCells m).length
  else match v.unitAt true m with
  | .unread => v.rs.wr.cells * (v.shape true).2
  | _ => (v.liveCells m).length

/-- The element of output vector `i`, row `j`, in the unit (Table BURIN-3). -/
def View.outPair (v : View) (e r : Nat) : Nat × Nat := if v.rs.x.axis = 0 then (e, r) else (r, e)

/-- The output vector that element `(e, r)` of a unit belongs to; in the pass modes a row of the unit. -/
def View.vectorOf (v : View) (e r : Nat) : Nat := if v.rs.x.arith then (v.outPair e r).2 else r

/-- The cells of write unit `m` that hold a result of vector `lo` or a later one. -/
def View.cellsFrom (v : View) (m lo : Nat) : Nat :=
  if lo = 0 then v.cellCount m
  else
    let td0 := v.wr.d.fmt.td0
    ((v.liveCells m).filter fun cr => (List.range td0).any fun k => decide (lo ≤ v.vectorOf (cr.1 * td0 + k) cr.2)).length

/-- The write beats a transfer has left (R115): the cells still to issue, and those that failed reads have kept from issue. [Log 44 DEDUCED] -/
def State.beats (s : State) (x : Stream) (t : Transfer) : Nat :=
  if x.silent then 0
  else if t.wrIssued then t.lost
  else
    let per := fun m => match t.tl with
      | some ws => ((Tl.of ws).cells m).length
      | none => match s.view x t with
        | some v => v.cellsFrom m (if m = t.wrNext then t.rowNext else 0)
        | none => 0
    ((List.range (t.wrUnits - t.wrNext)).map fun i => per (t.wrNext + i)).sum - t.wrCell + t.lost

end Sys2Proof.Machine
end

