-- ==== Sys2Proof/Machine/LaneStop.lean ====
section
/-! DEFINITION. Errors and stops of a lane (R116-R118), and translation of its accesses (R130-R133). -/
namespace Sys2Proof.Machine

/-! ### Errors (R116-R118) -/

/-- The first response other than `OK` of transfer `id`: it is recorded, and `XST` takes `BUS_ERROR` or `TAIL_ERROR` by whether
writes remain to issue (R117); the lane stops (R118). [Log 44 DEDUCED] -/
def State.errXfer (s : State) (p c id : Nat) (r : Resp) (addr : Nat) : State :=
  match (s.stream c).bind fun x => (x.xfer id).map fun t => (x, t) with
  | none => s.stopLane p .error
  | some (x, t) =>
    let tail := if s.beats x t = 0 then 7 else 6
    let s := s.modXfer c id fun t => { t with err := match t.err with | some e => some e | none => some r }
    let s := s.modLane p fun l =>
      if l.stops.contains .error then l
      else { l with xst := tail, resp := r.code, errAddr := addr }
    s.stopLane p .error

/-- The bus-error kind of a response (Table FAULT-4): reads 1 to 3, writes 4 to 6. -/
def busKind (write : Bool) (r : Resp) : Nat := (if write then 3 else 0) + r.code

/-- A memory-port request of a lane was answered other than `OK` (R118): one Burgee, and the transfer ends in error. [Log 66 DEDUCED] -/
def State.busError (s : State) (p c id : Nat) (write : Bool) (r : Resp) (addr : Nat) : State :=
  (s.raise ⟨0, p, busKind write r, formatA addr⟩).errXfer p c id r addr

/-- A lane read of a Plate cell takes `POISON` (R331): kind 19, and the transfer ends in error. -/
def State.plateError (s : State) (p c id : Nat) (off : Nat) : State :=
  (s.raise ⟨0, p, 19, off / 64⟩).errXfer p c id .poison off

/-- A fault of a lane's own guards (kinds 22 to 31): the transfer that the lane runs is in error. -/
def State.laneFault (s : State) (p : Nat) : State :=
  match (s.execStream p).bind fun e => e.2.headXfer.map fun t => (e.1, t.id) with
  | some (c, id) => s.modXfer c id fun t => { t with err := some (t.err.getD .ok) }
  | none => s

/-- The fetch engine meets a cell of the program store that fails its check value (R78): kind 27. -/
def State.programFault (s : State) (p c : Nat) (x : Stream) : State :=
  if (s.lane p).fetching && !x.emitting && s.cellBad x x.fpc then (s.laneFault p).raise ⟨0, p, 27, formatP c x⟩ else s

/-! ### Translation (R130-R133) -/

/-- What a lane's lookup of a host address gives: a physical address, a wait for a walk, or a fault. -/
inductive Look where
  | at_ (pa : Nat)
  | walk
  | fault (reason : Nat)
  deriving DecidableEq, Repr

/-- The set of a virtual page in the translation cache (R132): page-address bits [22:16]. -/
def cacheSet (vpage : Nat) : Nat := vpage % 128

/-- Look up a translation: identity with root 0 (R130), else the cache; the entry used becomes the most recent of its set. -/
def State.lookup (s : State) (p a : Nat) (write : Bool) : State × Look :=
  if s.fw.root = 0 then (s, .at_ a)
  else match (s.lane p).xlat.find? fun e => decide (e.vpage = a / 65536) with
  | none => (s, .walk)
  | some e =>
    if if write then e.w else e.r then
      (s.modLane p fun l => { l with xlat := l.xlat.erase e ++ [e] }, .at_ (e.ppage * 65536 + a % 65536))
    else (s, .fault (if write then 4 else 3))

/-- Enter a result of a walk into the cache: four ways for each set, the least recently used replaced (R132). -/
def Lane.cacheIn (l : Lane) (e : XlatEntry) : Lane :=
  let others := l.xlat.filter fun f => decide (f.vpage ≠ e.vpage)
  let inSet := others.filter fun f => decide (cacheSet f.vpage = cacheSet e.vpage)
  let kept := match inSet with
    | f :: _ => if inSet.length ≥ 4 then others.erase f else others
    | [] => others
  { l with xlat := kept ++ [e] }

/-- A translation fault of stream `c` (R133): the access is not issued, the lane pauses and drains. -/
def State.pageFault (s : State) (p c a : Nat) (write : Bool) (reason : Nat) : State :=
  if (s.lane p).stops.any fun x => match x with | .page _ => true | _ => false then s
  else s.stopLane p (.page ⟨c, a, write, reason⟩)

/-- Start the walk for an access of a transfer when none is in progress (R131). -/
def State.startWalk (s : State) (p c id a : Nat) (write : Bool) : State :=
  if (s.lane p).walk.isSome then s
  else
    let e := level1Addr s.fw.root a
    match s.issueRead (.walk p) e 8 with
    | some s => s.modLane p fun l => { l with walk := some ⟨c, id, a, write, 1, e, false⟩ }
    | none => s

/-- Translate an access of transfer `id` of stream `c`: its physical address, or none while a walk runs or after a fault. [Log 56 DEDUCED] -/
def State.translate (s : State) (p c id a : Nat) (write : Bool) : State × Option Nat :=
  match s.lookup p a write with
  | (s, .at_ pa) => (s, some pa)
  | (s, .walk) => (s.startWalk p c id a write, none)
  | (s, .fault r) => (s.pageFault p c a write r, none)

end Sys2Proof.Machine
end

