-- ==== Sys2Proof/Machine/Needs.lean ====
section
/-! DEFINITION. What the units of a transfer read (R71, R89-R92, R111, R162, R171, R206), and a consumer's scale blocks (R182-R189). -/
namespace Sys2Proof

/-- The transfer consumes narrow rows. -/
def RunState.consumes (r : RunState) : Bool := match r.scale with | some c => decide (c.use = 3) | none => false

/-- The transfer produces narrow rows. -/
def RunState.produces (r : RunState) : Bool := match r.scale with | some c => decide (c.use = 2) | none => false

/-- The row index of row `i1, i2, i3` of a tensor (R176). -/
def Desc.rowIndex (d : Desc) (i : V4 Nat) : Nat := i.d1 + d.e.d1 * (i.d2 + d.e.d2 * i.d3)

end Sys2Proof

namespace Sys2Proof.Machine

/-! ### The array's pass (Tables BURIN-1, BURIN-3, WIRE-6) -/

/-- K and M of Table BURIN-1; none for a format that is no input of the array. -/
def mapShape : Fmt → Option (Nat × Nat)
  | .int4 => some (256, 128)
  | .int8 | .e4m3 | .e5m2 => some (128, 128)
  | .int16 | .bf16 | .fp16 => some (64, 64)
  | .ci8 => some (64, 64)
  | .ci16 | .cbf16 => some (32, 32)
  | _ => none

/-- The narrow format of a consuming stream's array for read format `f` and a read unit of `w` elements (Table WIRE-6). -/
def narrowFmt (f : Fmt) (w : Nat) : Fmt := if f.complex then .ci8 else if w = 256 then .int4 else .int8

/-- The format whose row of Table BURIN-1 shapes the array's pass. -/
def View.arrayFmt (v : View) : Fmt := if v.rs.consumes then narrowFmt v.rd.d.fmt (v.shape false).1 else v.rd.d.fmt

/-- K and M of the pass. -/
def View.km (v : View) : Nat × Nat := (mapShape v.arrayFmt).getD (0, 0)

/-- Input vectors of a read unit (Table BURIN-3). -/
def View.vectors (v : View) : Nat := if v.rs.x.axis = 0 then (v.shape false).2 else (v.shape false).1

/-! ### Needs -/

/-- One cell that a transfer reads; of a coded tensor, the tensor (0 read side, 1 scale), super-tile and block it lies in. -/
structure Need where
  place : Place
  block : Option (Nat × Nat × Nat)
  deriving DecidableEq, Repr

/-- A cell of a super-tile as a need. -/
def Tensor.needOf (t : Tensor) (sel sti cell : Nat) : Need :=
  ⟨t.placeCell sti cell, if t.d.coded then some (sel, sti, cell / 64) else none⟩

/-- The cell that holds element `i`. -/
def Tensor.needAt (t : Tensor) (sel : Nat) (i : V4 Nat) : Need :=
  t.needOf sel (t.d.stIndex (t.d.stOf i)) (((t.d.addrOf i).1 - t.d.stAddr (t.d.stOf i)) / 64)

/-- The element of the scale tensor that scales destination element `u` (R162). -/
def scaleIndex (c : Scale) (d : Desc) (u : V4 Int) : V4 Nat :=
  ⟨clampInt (if c.col then u.d0 else u.d1) 0 (d.e.d0 - 1 : Int), 0, 0, 0⟩

/-- The destination elements of write unit `m` that lie in the window. -/
def View.windowOf (v : View) (m : Nat) : List (V4 Int) :=
  match v.unitAt true m with
  | .pos p =>
    let (w, h) := v.shape true
    ((unitPairs w h).map fun er => unitIndex p v.wr.d.fmt.td0 er.1 er.2).filter fun u => inWindow v.wr.d.e u
  | _ => []

/-- The scale cells of write unit `m` under a link with `USE` 1 (R162). -/
def View.scaleNeeds (v : View) (m : Nat) : List Need :=
  match v.rs.scale, v.scale with
  | some c, some t => if c.use = 1 then (v.windowOf m).map fun u => t.needAt 1 (scaleIndex c t.d u) else []
  | _, _ => []

/-- The source elements of read unit `k` of a read-driven transfer. -/
def View.readElems (v : View) (k : Nat) : List (V4 Nat) :=
  let (w, h) := v.shape false
  (unitPairs w h).filterMap fun er => match v.srcOfRead k er.1 er.2 with
    | .elem i _ => some i
    | _ => none

/-- A skipped pad element of an INT4 destination whose byte is written takes its value all the same (R66). [Log 32 DEDUCED] -/
def View.skipUsed (v : View) (m : Nat) (p : V4 Int) (e r : Nat) : Bool :=
  decide (v.wr.d.fmt.bits = 4) && (match v.outAt m p (if e % 2 = 0 then e + 1 else e - 1) r with | .write _ => true | _ => false)

/-- The source elements that write unit `m` of a write-driven transfer takes (R89): suppressed and skipped elements take none. [Log 30 DEDUCED] -/
def View.writeElems (v : View) (m : Nat) : List (V4 Nat) :=
  match v.unitAt true m with
  | .pos p =>
    let (w, h) := v.shape true
    (unitPairs w h).filterMap fun er => match v.outAt m p er.1 er.2 with
      | .write (.elem i _) => some i
      | .skip (.elem i _) => if v.skipUsed m p er.1 er.2 then some i else none
      | _ => none
  | _ => []

/-- The source super-tiles of some elements, in the order of first need. -/
def View.tilesOf (v : View) (l : List (V4 Nat)) : List Nat := (l.map fun i => v.rd.d.stIndex (v.rd.d.stOf i)).eraseDups

/-- The write unit whose scales and scatter entry fetch unit `n` brings: its own, or that of which it is chunk 0 (R90). -/
def View.unitOf (v : View) (n : Nat) : Option Nat :=
  if v.rs.x.arith then (if n % v.rs.x.kch = 0 then some (n / v.rs.x.kch) else none) else some n

/-- The cells of a list that lie somewhere, each once. -/
def presentNeeds (l : List Need) : List Need := (l.filter fun d => decide (d.place ≠ .absent)).eraseDups

/-- The data that fetch unit `n` needs, in the order of first need (R89, R90, R92, R111), buffer by buffer (Table STREAM-2): every
64 read units of a byte-mode transfer share a buffer, each read unit of a read-driven one has its own, and of a write-driven one each source
super-tile, of which the cells that hold an element inside the clamp bounds are read; `whole` says that an in-place transform reads its
super-tile whole (R70). [Log 30 DEDUCED] -/
def View.parts (v : View) (whole : Bool) (n : Nat) : List (Nat × List Need) :=
  if whole then [(0, presentNeeds ((List.range (v.rd.d.f / 64)).map (v.rd.needOf 0 0)))]
  else if v.rs.byteMode then [(n / 64, presentNeeds ((List.range v.rs.rd.blen).map fun i => ⟨v.rd.placeByte (v.byteFrom n i), none⟩))]
  else if v.rs.readDriven then [(n, presentNeeds ((v.readElems n).map (v.rd.needAt 0)))]
  else (v.tilesOf (v.writeElems n)).map fun i =>
    (i, presentNeeds ((v.rd.d.tileCells i v.rs.clampLo (v.rs.clampHi v.rd.d.e)).map (v.rd.needOf 0 i)))

/-- Buffer `k` serves fetch unit `n`. -/
def View.serves (v : View) (whole : Bool) (k n : Nat) : Bool := (v.parts whole n).any fun e => decide (e.1 = k)

/-- The places of the cells that buffer `k` holds. -/
def View.bufPlaces (v : View) (whole : Bool) (k : Nat) : List Place :=
  if whole then (List.range (v.rd.d.f / 64)).map (v.rd.placeCell 0)
  else if v.rs.byteMode then (List.range 64).flatMap fun i => (List.range v.rs.rd.blen).map fun j => v.rd.placeByte (v.byteFrom (64 * k + i) j)
  else if v.rs.readDriven then ((v.readElems k).map fun i => (v.rd.needAt 0 i).place)
  else (List.range (v.rd.d.f / 64)).map (v.rd.placeCell k)

/-- The scales under a link with `USE` 1 that fetch unit `n` brings. -/
def View.scalesOf (v : View) (n : Nat) : List Need := presentNeeds (((v.unitOf n).map v.scaleNeeds).getD [])

/-- The list cells that fetch unit `n` needs (R88). -/
def View.listNeeds (v : View) (n : Nat) : List Place :=
  (match v.rdList with | some l => [(listPlace l n).1] | none => []) ++
    (match v.wrList, v.unitOf n with | some l, some m => [(listPlace l m).1] | _, _ => [])

/-- A member of a split stream fetches the chunks `c` with `c` mod G equal to its index; of a transfer that reduces nothing,
member 0 fetches everything (R171). -/
def Stream.takes (x : Stream) (t : Transfer) (n : Nat) : Bool :=
  if t.rs.x.arith then decide (n % t.rs.x.kch % x.g = x.idx) else decide (x.idx = 0)

/-- The chunks of a unit that a member computes (R171). -/
def Stream.chunks (x : Stream) (kch : Nat) : List Nat := (List.range kch).filter fun c => decide (c % x.g = x.idx)

/-- The fetch unit that the execute engine uses next. -/
def Transfer.headUnit (x : Stream) (t : Transfer) : Nat :=
  if t.rs.x.arith then t.wrNext * t.rs.x.kch + (((x.chunks t.rs.x.kch).find? fun c => decide (t.chunk ≤ c)).getD t.rs.x.kch) else t.wrNext

/-! ### Readiness -/

/-- The state of a unit's inputs: all in, some awaited or not asked for, some answered other than `OK`, some of a coded block that
failed a check (reason, header address). [Log 31 DEDUCED] -/
inductive Ready where
  | yes
  | wait
  | bad
  | fail (reason header : Nat)
  deriving DecidableEq, Repr

/-- The state of a list of cells. [Log 31 DEDUCED] -/
def Transfer.ready (t : Transfer) (l : List Need) : Ready :=
  let cs := l.map fun d => Tbl.find t.cells d.place.key
  if cs.any fun c => match c with | none => true | some .waiting => true | _ => false then .wait
  else match cs.findSome? fun c => match c with | some (.fail r h) => some (r, h) | _ => none with
  | some (r, h) => .fail r h
  | none => if cs.any fun c => match c with | some (.bad _) => true | _ => false then .bad else .yes

/-- The needs of a list that have not been asked for. [Log 31 DEDUCED] -/
def Transfer.missing (t : Transfer) (l : List Need) : List Need := l.filter fun d => (Tbl.find t.cells d.place.key).isNone

/-- The bytes of a cell that is in. -/
def Transfer.cellBytes (t : Transfer) (pl : Place) : List Byte :=
  match Tbl.find t.cells pl.key with
  | some (.data b _) => b
  | _ => []

/-! ### Scale blocks (R182, R183, R188, R189) -/

/-- A scale block (Table WIRE-5): its codes, the index of its first row, the narrow width. [Log 50 DEDUCED] -/
def scaleBlock (codes : List Nat) (r : Nat) (wid : Nat) : List Byte :=
  let h := (codes ++ List.replicate (64 - codes.length) 0).flatMap (fun c => toBytes c 2) ++
    [BitVec.ofNat 8 r, BitVec.ofNat 8 codes.length, BitVec.ofNat 8 wid, 0]
  h ++ toBytes (crc16 h) 2 ++ List.replicate 58 0

/-- The checks of Table WIRE-7 on a block before its first row `r`; 0 when it is accepted. -/
def scaleReason (b : List Byte) (r wid : Nat) : Nat :=
  let valid := fieldLE b 129 1
  if crc16 (b.take 132) ≠ fieldLE b 132 2 then 1
  else if fieldLE b 128 1 ≠ r % 256 then 2
  else if fieldLE b 130 1 ≠ wid then 3
  else if valid = 0 ∨ valid > 64 ∨ fieldLE b 131 1 ≠ 0 ∨ (b.drop 134).any (fun x => decide (x ≠ 0)) then 4
  else if (List.range valid).any fun k => (scaleOfCode (fieldLE b (2 * k) 2)).isNone then 5
  else 0

/-- The three cells of block `b` of a scale tensor; a block beyond its rows is clamped (R60). -/
def Tensor.blockNeeds (t : Tensor) (b : Nat) : List Need :=
  [0, 32, 64].map fun e => t.needAt 1 ⟨e, min b (t.d.e.d1 - 1), 0, 0⟩

/-- The bytes of block `b`. -/
def Transfer.scaleBytes (t : Transfer) (st : Tensor) (b : Nat) : List Byte := (st.blockNeeds b).flatMap fun d => t.cellBytes d.place

/-- The row index of input vector `i` of read unit `n`: that of the clamped position of its first element. -/
def View.rowOf (v : View) (n i : Nat) : Nat :=
  match v.unitAt false n with
  | .pos p => v.rd.d.rowIndex (pickSource v.rd.d.e v.rs.pad v.rs.clampLo (v.rs.clampHi v.rd.d.e) (unitIndex p v.rd.d.fmt.td0 0 i)).at_
  | _ => 0

/-- What a consumer finds for the rows of a unit: a code for each with the cursor after them, a block it needs, or the first row of a
block that failed, with the reason. -/
inductive Rows where
  | codes (l : List Nat) (cur : Cursor)
  | need (blk : Nat)
  | skew (row reason blk : Nat)
  deriving DecidableEq, Repr

/-- The cursor past a row of a block that holds `valid` (R188). -/
def Cursor.past (k : Cursor) (valid : Nat) : Cursor := if k.slot + 1 ≥ valid then ⟨k.blk + 1, 0, 0⟩ else { k with slot := k.slot + 1 }

/-- The cells of a block are in. -/
def Transfer.blockIn (t : Transfer) (st : Tensor) (b : Nat) : Bool :=
  (st.blockNeeds b).all fun d => match Tbl.find t.cells d.place.key with | some (.data ..) => true | _ => false

/-- Take the codes of `n` rows from vector `i` of read unit `k` on, from the cursor (R188). A block is checked before any of its codes is
taken, also one that was read again in its middle; such a block must still hold the slot (R191). [Log 35 DEDUCED; log 89 DESIGN CHOICE] -/
def View.takeRows (v : View) (t : Transfer) (st : Tensor) (k : Nat) : Nat → Nat → Cursor → List Nat → Rows
  | 0, _, cur, l => .codes l cur
  | n + 1, i, cur, l =>
    if !t.blockIn st cur.blk then .need cur.blk
    else
      let b := t.scaleBytes st cur.blk
      let cur := if cur.slot = 0 then { cur with row := v.rowOf k i } else cur
      let r := scaleReason b cur.row (if v.arrayFmt = .int4 then 1 else 0)
      let r := if r = 0 ∧ cur.slot ≥ fieldLE b 129 1 then 4 else r
      if r ≠ 0 then .skew i r cur.blk
      else v.takeRows t st k n (i + 1) (cur.past (fieldLE b 129 1)) (l ++ [fieldLE b (2 * cur.slot) 2])

/-- The codes of the rows of write unit `m` from row `lo` on, `n` of them: its chunk 0 gives them (R188). -/
def View.rowsOf (v : View) (t : Transfer) (m lo n : Nat) (cur : Cursor) : Rows :=
  match v.rs.consumes, v.scale with
  | true, some st => v.takeRows t st (m * v.rs.x.kch) n lo cur []
  | _, _ => .codes [] cur

/-- A consumer's cursor: the execute engine's. -/
def Stream.cursor (x : Stream) : Cursor := ⟨x.scaleBlock, x.scaleSlot, x.scaleRow⟩

/-- Move the execute engine's scale cursor. -/
def Stream.setCursor (x : Stream) (k : Cursor) : Stream := { x with scaleBlock := k.blk, scaleSlot := k.slot, scaleRow := k.row }

end Sys2Proof.Machine
end

