-- ==== Sys2Proof/Machine/Fetch.lean ====
section
/-! DEFINITION. The fetch engine (R82, R93-R99, R107-R111, R124, R131, R135, R174, R206): its buffers, its requests, and
the instructions the engine performs. -/
namespace Sys2Proof.Machine

/-! ### Requests -/

/-- A stream with one of its transfers. [Log 34 DEDUCED] -/
def State.xferOf (s : State) (c id : Nat) : Option (Stream × Transfer) := (s.stream c).bind fun x => (x.xfer id).map fun t => (x, t)

/-- Record cells of a transfer. [Log 94 DESIGN CHOICE] -/
def State.putCells (s : State) (c id : Nat) (keys : List Nat) (v : Cell) : State :=
  s.modXfer c id fun t => { t with cells := keys.foldl (fun m k => Tbl.put k v m) t.cells }

/-- Record the data of consecutive cells. [Log 94 DESIGN CHOICE] -/
def State.putData (s : State) (c id key n : Nat) (b : List Byte) : State :=
  s.modXfer c id fun t => { t with cells := (List.range n).foldl (fun m i => Tbl.put (key + i) (Cell.of (slice b (64 * i) 64)) m) t.cells }

/-- Record a list or header cell of a transfer. -/
def State.putList (s : State) (c id key : Nat) (v : Cell) : State :=
  s.modXfer c id fun t => { t with lists := Tbl.put key v t.lists }

/-- The cells of the transfer's reads that may be issued now (R135): those left of its burst, or a new burst once `DREQ` is
asserted and `DACK` is low; without `DREQ` pacing, as many as a request holds. [Log 33 DEDUCED] -/
def State.burstNow (s : State) (t : Transfer) : Nat :=
  match t.rs.pace with
  | .dreq l b => if t.burst > 0 then t.burst else if s.pins.dreq.getLsbD l && !s.pins.dack.getLsbD l then b else 0
  | _ => 128

/-- `n` cells have been issued: the first of a burst raises `DACK` and counts the burst as served (R135, R137). [Log 33 DEDUCED] -/
def State.spend (s : State) (c id n : Nat) : State :=
  match s.xferOf c id with
  | none => s
  | some (_, t) =>
    match t.rs.pace with
    | .dreq l b =>
      if t.burst > 0 then s.modXfer c id fun t => { t with burst := t.burst - n }
      else
        let s := { s with pins := { s.pins with dack := setBit s.pins.dack l true } }
        (s.modStream c fun x => x.count 7 1).modXfer c id fun t => { t with burst := b - n }
    | _ => s

/-- The need `e` goes on with the request that begins at `d`, as its cell number `k` (R109, R277). -/
def joins (d e : Need) (k : Nat) : Bool :=
  match d.place, e.place with
  | .host a, .host b => decide (e.block = none) && decide (b = a + 64 * k) && decide (b / 4096 = a / 4096)
  | .peer t i c, .peer t' i' c' => decide (t' = t) && decide (i' = i) && decide (c' = c + k)
  | _, _ => false

/-- How many of the needs that follow join the request begun at `d`, at most `lim`. -/
def runLen (d : Need) : Nat → Nat → List Need → Nat
  | 0, _, _ => 0
  | _, _, [] => 0
  | lim + 1, k, e :: rest => if joins d e k then 1 + runLen d lim (k + 1) rest else 0

/-- A free read identifier of the peer link. -/
def Link.freeRid (l : Link) : Option Nat := freeTagN l.reads ([] : Tbl Bool) 65536 0

/-- Ask the peer for `n` cells (R277): a `READ` frame. -/
def State.askPeer (s : State) (o : FrameOwner) (tag sti first n : Nat) (keys : List Nat) : Option State :=
  if !s.link.up then none
  else (s.link.freeRid).map fun rid =>
    let s := { s with link := { s.link with reads := Tbl.put rid ⟨o, keys, sti, 0⟩ s.link.reads } }
    s.egress ⟨3, tag, toBytes sti 4 ++ toBytes (first + (n - 1) * 65536) 4 ++ toBytes rid 2, [], false, []⟩

/-- A read of a list or header cell may be issued: it counts in a burst as any cell does (R135). -/
def State.listTurn (s : State) (c id : Nat) : Bool := ((s.xferOf c id).map fun e => decide (s.burstNow e.2 > 0)).getD false

/-- The keys of the raw cells of a coded block. [Log 39 DEDUCED] -/
def Tensor.blockKeys (t : Tensor) (st blk : Nat) : List Nat :=
  (List.range (t.d.blockSize blk / 64)).map fun i => (t.placeCell st (blk * 64 + i)).key

/-- Ask for a cell that firmware-managed tables address: a list cell or a header cell; true once it is asked for. -/
def State.askList (s : State) (p c id : Nat) (pl : Place) (header : Bool) : State :=
  if !s.listTurn c id then s
  else match pl with
  | .host a =>
    match s.translate p c id a false with
    | (s, none) => s
    | (s, some pa) =>
      match s.issueRead (if header then .head p c id pl.key else .list p c id pl.key 1) pa 64 with
      | some s => (s.putList c id pl.key .waiting).spend c id 1
      | none => s
  | .pool o =>
    match s.plateRead o with
    | (s, .ok, b, k) => ((s.tally c id plateClass 1).putList c id pl.key (.data b k)).spend c id 1
    | (s, r, _, _) => (((s.tally c id plateClass 1).putList c id pl.key (.bad r)).spend c id 1).plateError p c id o
  | _ => s

/-- Read a coded block (R206, R207, R210): its header cell first, then the checks of Table DICT-4, then the body in one read, which takes its place in
the expander's order as it is issued; a burst that ends within it is over (R135). Answers whether the
block's cells have been asked for. [Log 33 DEDUCED] -/
def State.fetchBlock (s : State) (p c id : Nat) (t : Transfer) (tn : Tensor) (sel st blk : Nat) : State × Bool :=
  let ha := tn.d.headerAddr st blk
  let hp := Place.host (ha / 64 * 64)
  match Tbl.find t.lists hp.key with
  | none => (s.askList p c id hp true, false)
  | some (.data b _) =>
    let h := slice b (ha % 64) 16
    let r := headerReason h (tn.d.blockSize blk) tn.d.cbook
    if r ≠ 0 then (s.putCells c id (tn.blockKeys st blk) (.fail r ha), true)
    else
      let n := ceilDiv (fieldLE h 2 2) 64
      if s.burstNow t = 0 then (s, false)
      else match s.translate p c id (tn.d.stAddr (tn.d.stCoord st) + blk * 4096) false with
      | (s, none) => (s, false)
      | (s, some pa) =>
        match s.issueRead (.body p c id sel st blk) pa (64 * n) with
        | some s =>
          let s := s.modPort (s.portFor pa) fun q => { q with expand := q.expand ++ [⟨p, c, id, sel, st, blk, none⟩] }
          ((s.putCells c id (tn.blockKeys st blk) .waiting).spend c id n, true)
        | none => (s, false)
  | some (.bad r) => (s.putCells c id (tn.blockKeys st blk) (.bad r), true)
  | _ => (s, false)

/-- Ask for the cell of need `d`, with those of `rest` that join its request; answers how many needs are served, 0 when the
engine has to wait. -/
def State.fetchNeed (s : State) (p c id : Nat) (d : Need) (rest : List Need) : State × Nat :=
  match s.xferOf c id with
  | none => (s, 0)
  | some (x, t) =>
    if !(s.lane p).fetching then (s, 0)
    else if (Tbl.find t.cells d.place.key).isSome then (s, 1)
    else match d.place, d.block with
    | .host _, some (sel, st, blk) =>
      match (s.view x t).bind fun v => if sel = 0 then some v.rd else v.scale with
      | some tn =>
        match s.fetchBlock p c id t tn sel st blk with
        | (s, true) => (s, 1)
        | (s, false) => (s, 0)
      | none => (s, 0)
    | .host va, none =>
      let b := s.burstNow t
      if b = 0 then (s, 0)
      else
        let n := 1 + runLen d (b - 1) 1 rest
        match s.translate p c id va false with
        | (s, none) => (s, 0)
        | (s, some pa) =>
          match s.issueRead (.cell p c id d.place.key n) pa (64 * n) with
          | some s => ((s.putCells c id ((List.range n).map fun i => d.place.key + i) .waiting).spend c id n, n)
          | none => (s, 0)
    | .pool o, _ =>
      if s.burstNow t = 0 then (s, 0)
      else match s.plateRead o with
      | (s, .ok, b, k) => (((s.tally c id plateClass 1).putCells c id [d.place.key] (.data b k)).spend c id 1, 1)
      | (s, r, _, _) => ((((s.tally c id plateClass 1).putCells c id [d.place.key] (.bad r)).spend c id 1).plateError p c id o, 1)
    | .peer tag sti cell, _ =>
      let b := s.burstNow t
      if b = 0 then (s, 0)
      else
        let n := 1 + runLen d (b - 1) 1 rest
        let keys := (List.range n).map fun i => d.place.key + i
        match s.askPeer ⟨p, c, id, n⟩ tag sti cell n keys with
        | some s => ((s.putCells c id keys .waiting).spend c id n, n)
        | none => (s, 0)
    | .absent, _ => (s, 1)

/-- Ask for every cell of a list of needs, as far as the engine gets; `fuel` bounds the requests. [Log 34 DEDUCED] -/
def State.fetchNeeds (p c id : Nat) : Nat → List Need → State → State × Bool
  | _, [], s => (s, true)
  | 0, _, s => (s, false)
  | f + 1, d :: rest, s =>
    match s.fetchNeed p c id d rest with
    | (s, 0) => (s, false)
    | (s, k) => State.fetchNeeds p c id f ((d :: rest).drop k) s

/-- Ask for the list cells of a unit; true once every one is in. -/
def State.fetchLists (p c id : Nat) : List Place → State → State × Bool
  | [], s => (s, true)
  | pl :: rest, s =>
    match s.xferOf c id with
    | none => (s, false)
    | some (_, t) =>
      match Tbl.find t.lists pl.key with
      | some (.data ..) => State.fetchLists p c id rest s
      | some _ => (s, false)
      | none =>
        let s := s.askList p c id pl false
        match (s.xferOf c id).bind fun e => Tbl.find e.2.lists pl.key with
        | some (.data ..) => State.fetchLists p c id rest s
        | _ => (s, false)

/-! ### Input buffers (R76, R111, Table STREAM-2) -/

/-- Buffers `gone` of transfer `id` are given up: their cells go, but those that another buffer or the list `held` has and those on their way. -/
def State.freeBufs (s : State) (c id : Nat) (gone : List Nat) (held : List Place) : State :=
  match s.xferOf c id with
  | none => s
  | some (x, t) =>
    let kept := fun b : Nat × Nat => !(decide (b.1 = id) && gone.contains b.2)
    let s := s.modStream c fun x => { x with bufs := x.bufs.filter kept }
    match s.view x t with
    | none => s
    | some v =>
      let stay := ((x.bufs.filter fun b => decide (b.1 = id) && kept b).flatMap fun b => v.bufPlaces t.inPlace b.2) ++ held
      let keys := ((gone.flatMap (v.bufPlaces t.inPlace)).filter fun pl => !stay.contains pl).map Place.key
      s.modXfer c id fun t => { t with cells := t.cells.filter fun e => decide (e.2 = .waiting) || !keys.contains e.1 }

/-- The execute engine has used the units before its next one: every buffer that serves no later unit of the transfer is released. -/
def State.release (s : State) (c id : Nat) : State :=
  match s.xferOf c id with
  | none => s
  | some (x, t) =>
    match s.view x t with
    | none => s
    | some v =>
      let later := (List.range (t.rdUnits - t.headUnit x)).map fun i => t.headUnit x + i
      let gone := ((x.bufs.filter fun b => decide (b.1 = id)).map (·.2)).filter fun k => !later.any fun n => x.takes t n && v.serves t.inPlace k n
      if gone = [] then s else s.freeBufs c id gone []

/-- A buffer for part `k` of transfer `id`, which fetch unit `n` needs; none while all B are in use. The unit that the execute engine uses
next may need more super-tiles than the buffers hold: the oldest buffer then makes room, and the cells of it that the unit takes have been used. [Log 40 DESIGN CHOICE] -/
def State.takeBuf (s : State) (c id n k : Nat) (held : List Place) : State × Bool :=
  match s.xferOf c id with
  | none => (s, false)
  | some (x, t) =>
    let add := fun s : State => s.modStream c fun x => { x with bufs := x.bufs ++ [(id, k)] }
    if x.bufs.contains (id, k) then (s, true)
    else if x.bufs.length < x.depth then (add s, true)
    else if x.headXfer.map (·.id) = some id ∧ n = t.headUnit x then
      match x.bufs with
      | b :: _ => (add (s.freeBufs c b.1 [b.2] held), true)
      | [] => (s, false)
    else (s, false)

/-- Ask for the needs of a list that have not been asked for. -/
def State.askNeeds (s : State) (p c id : Nat) (l : List Need) : State × Bool :=
  match s.xferOf c id with
  | none => (s, false)
  | some (_, t) => let m := t.missing l; State.fetchNeeds p c id m.length m s

/-- Fill the buffers of fetch unit `n`, one after the other. -/
def State.fillBufs (p c id n : Nat) (held : List Place) : List (Nat × List Need) → State → State × Bool
  | [], s => (s, true)
  | (k, l) :: rest, s =>
    match s.takeBuf c id n k held with
    | (s, false) => (s, false)
    | (s, true) =>
      match s.askNeeds p c id l with
      | (s, true) => State.fillBufs p c id n held rest s
      | (s, false) => (s, false)

/-- Ask for the data of fetch unit `n` and for its scales. -/
def State.fetchData (s : State) (p c id n : Nat) : State × Bool :=
  match s.xferOf c id with
  | none => (s, false)
  | some (x, t) =>
    match s.view x t with
    | none => (s, false)
    | some v =>
      let parts := v.parts t.inPlace n
      match State.fillBufs p c id n (parts.flatMap fun e => e.2.map fun d => d.place) parts s with
      | (s, true) => s.askNeeds p c id (v.scalesOf n)
      | (s, false) => (s, false)

/-! ### One unit -/

/-- Ask for the scale blocks of the rows of write unit `m` (R189), in order, each once the one before it is in; `fuel` bounds them. Answers
the fetch engine's cursor after the unit; at a block that failed the cursor stands before it, and with no row of the unit before it there is none. [Log 35 DEDUCED] -/
def State.fetchRows (p c id m : Nat) (v : View) (st : Tensor) : Nat → State → State × Option Cursor
  | 0, s => (s, none)
  | f + 1, s =>
    match s.xferOf c id with
    | none => (s, none)
    | some (x, t) =>
      match v.rowsOf t m 0 v.vectors x.fetchCur with
      | .codes _ k => (s, some k)
      | .skew row _ b => (s, if row = 0 then none else some ⟨b, 0, 0⟩)
      | .need b =>
        if t.missing (st.blockNeeds b) = [] then (s, none)
        else match s.askNeeds p c id (st.blockNeeds b) with
        | (s, true) => State.fetchRows p c id m v st f s
        | (s, false) => (s, none)

/-- The scale blocks that fetch unit `n` needs before its data: those of the rows of its write unit, when it is chunk 0 of a consuming
transfer (R188, R189). -/
def State.fetchScale (s : State) (p c id n : Nat) (v : View) : State × Option Cursor :=
  match v.rs.consumes && decide (n % v.rs.x.kch = 0), v.scale with
  | true, some st => State.fetchRows p c id (n / v.rs.x.kch) v st (v.vectors + 1) s
  | _, _ => (s, (s.stream c).map fun x => x.fetchCur)

/-- Fetch one unit of a transfer: its list entries, its scale blocks, then its cells; true once all have been asked for. The members of a
split stream take the chunks of R171, and each the scale blocks of every unit. -/
def State.fetchUnit (s : State) (p c id n : Nat) : State × Bool :=
  match s.xferOf c id with
  | none => (s, false)
  | some (x, t) =>
    match s.view x t with
    | none => (s, false)
    | some v =>
      let mine := x.takes t n
      if !mine && !(v.rs.consumes && decide (n % v.rs.x.kch = 0)) then (s, true)
      else match State.fetchLists p c id (v.listNeeds n) s with
      | (s, false) => (s, false)
      | (s, true) =>
        match (s.xferOf c id).bind fun e => s.view e.1 e.2 with
        | none => (s, false)
        | some v =>
          match s.fetchScale p c id n v with
          | (s, none) => (s, false)
          | (s, some k) =>
            match if mine then s.fetchData p c id n else (s, true) with
            | (s, true) => (s.modStream c fun x => { x with fetchCur := k }, true)
            | (s, false) => (s, false)

/-! ### Passing instructions on (Table FYUSH-1, R108) -/

/-- Pass the instructions that only the execute engine performs, while its queue has room; `n` bounds them. -/
def State.passN (c : Nat) : Nat → State → State
  | 0, s => s
  | n + 1, s =>
    match s.stream c with
    | none => s
    | some x =>
      if x.emitting || x.fetchEnd || decide (x.xq.length ≥ 64) then s
      else match s.insnAt x x.fpc with
      | none => s
      | some i =>
        if i.fetches then s
        else
          let (pc, reps) := advance i x.fpc x.reps
          State.passN c n (s.setStream c { x with fpc := pc, reps := reps, rs := x.rs.apply i, xq := x.xq ++ [⟨i, x.fpc, 0⟩] })

/-- Pass on what the fetch engine of a lane may pass. -/
def State.passOn (s : State) (p : Nat) : State :=
  match s.fetchStream p with
  | some (c, _) => if (s.lane p).holding then s else State.passN c 64 s
  | none => s

/-! ### The instructions of the fetch engine -/

/-- Move past instruction `i`, which takes effect on the run state; where the execute engine performs it too, it is passed on. -/
def Stream.performFetch (x : Stream) (i : FInsn) : Stream :=
  let (pc, reps) := advance i x.fpc x.reps
  { x with
    fpc := pc
    reps := reps
    rs := x.rs.apply i
    pending := match i with
      | .pace q => if q = x.rs.pace then x.pending else []
      | _ => x.pending
    fetchEnd := match i with
      | .endRun _ => true
      | _ => x.fetchEnd
    xq := if i.executes then x.xq ++ [⟨i, x.fpc, 0⟩] else x.xq }

/-- The fetch engine of lane `p` carries out the instruction at its counter when `is` holds of it and the queue has room. [Log 13 DESIGN CHOICE] -/
def fetchInsn (p : Nat) (is : FInsn → Bool) (s : State) : State :=
  match s.fetchStream p with
  | none => s
  | some (c, x) =>
    match s.insnAt x x.fpc with
    | none => s.programFault p c x
    | some i =>
      if is i && (s.lane p).fetching && !x.emitting && (!i.executes || decide (x.xq.length < 64)) then
        (s.setStream c (x.performFetch i)).passOn p
      else s

/-- `XST` shows `WAIT` while a stream waits and no stream of the lane has an open transfer (Table STREAM-5). [Log 44 DEDUCED] -/
def State.showWait (s : State) (p : Nat) : State :=
  if s.laneRuns p then s else s.modLane p fun l => { l with xst := if l.xst ≤ 3 then 1 else l.xst }

/-- `BASE` (R82, R85, Table FYUSH-3). -/
def execBase (lane : Fin 10) (s : State) : Out := running s (fetchInsn lane.val fun i => match i with | .base .. => true | _ => false)
/-- `LOOP` (R83). -/
def execLoop (lane : Fin 10) (s : State) : Out := running s (fetchInsn lane.val fun i => match i with | .loop .. => true | _ => false)
/-- `TILE`. -/
def execTile (lane : Fin 10) (s : State) : Out := running s (fetchInsn lane.val fun i => match i with | .tile .. => true | _ => false)
/-- `PAD` (R64). -/
def execPad (lane : Fin 10) (s : State) : Out :=
  running s (fetchInsn lane.val fun i => match i with | .padAmount .. => true | .padMode .. => true | _ => false)
/-- `CLAMP` (R61). -/
def execClamp (lane : Fin 10) (s : State) : Out := running s (fetchInsn lane.val fun i => match i with | .clamp .. => true | _ => false)
/-- `STIPPLE` (R88). -/
def execStipple (lane : Fin 10) (s : State) : Out := running s (fetchInsn lane.val fun i => match i with | .stipple .. => true | _ => false)
/-- `PACE` (R93, R407): a change of start source or trigger clears the pending starts. -/
def execPace (lane : Fin 10) (s : State) : Out := running s (fetchInsn lane.val fun i => match i with | .pace _ => true | _ => false)
/-- `REPEAT` (R99). -/
def execRepeat (lane : Fin 10) (s : State) : Out := running s (fetchInsn lane.val fun i => match i with | .repeat_ .. => true | _ => false)

/-- The fetch engine meets a `WAIT` (R94): once the Halyard has reached the target the cursor takes it, and the engine goes on. -/
def fetchWait (p : Nat) (s : State) : State :=
  match s.fetchStream p with
  | none => s
  | some (c, x) =>
    match s.insnAt x x.fpc with
    | some (.wait w) =>
      if !(s.lane p).fetching || x.emitting then s
      else
        let s := s.halCheck w.hal
        match s.halMeets w x.cursors with
        | (t, true) =>
          let x := if w.rel then { x with cursors := setNth x.cursors w.cur (BitVec.ofNat 16 t) } else x
          ((s.setStream c (x.performFetch (.wait w))).learnOrder c w.hal).passOn p
        | (_, false) => s.showWait p
    | _ => s.programFault p c x

/-- `WAIT`. -/
def execWait (lane : Fin 10) (s : State) : Out := running s (fetchWait lane.val)

/-! ### `EMIT` -/

/-- Whether the start source of a stream holds (Table FYUSH-8, R407): the stream after its effect and the start time. [Log 41 DEDUCED] -/
def State.startSource (s : State) (x : Stream) : Option (Stream × Nat) :=
  match x.rs.pace with
  | .arm => some (x, s.now)
  | .halyard w =>
    match s.halMeets w x.cursors with
    | (t, true) => some (if w.rel then { x with cursors := setNth x.cursors w.cur (BitVec.ofNat 16 t) } else x, s.now)
    | (_, false) => none
  | .trigger _ =>
    match x.pending with
    | a :: rest => some ({ x with pending := rest }, a)
    | [] => none
  | .dreq l _ => if s.pins.dreq.getLsbD l && !s.pins.dack.getLsbD l then some (x, s.now) else none

/-- The position of a stream as it stands (R110). [Log 41 DEDUCED] -/
def Stream.snapshot (x : Stream) : Snapshot :=
  ⟨x.fpc, x.reps, x.rs, x.cursors, x.pending, x.wide, x.fetchCur.slot, x.fetchCur.blk, x.fetchCur.row, x.prodBlock, x.units⟩

/-- A transfer that begins: number `id`, run state `rs`, snapshot, start time, number of its first write unit in the run. -/
def Transfer.begin (id : Nat) (rs : RunState) (snap : Snapshot) (start unit0 : Nat) : Transfer :=
  { id := id, tl := none, rs := rs, snap := snap, fired := [], start := start, missed := false, unit0 := unit0
    rdNext := 0, rdDone := false, burst := 0, cells := [], lists := [], wrNext := 0, wrCell := 0, rowNext := 0, chunk := 0, acc := []
    partials := [], failed := none, wrBegun := false, wrIssued := false, lost := 0, outstanding := 0, err := none, inPlace := false, nr := 0, nf := 0
    codes := [], codeRow := 0, granted := false, party := none, skewFrom := none }

/-- Source and destination share bytes, so the transfer is an in-place transform (R70, Table LAYOUT-7). -/
def State.inPlace (s : State) (x : Stream) (rs : RunState) : Bool :=
  match s.tensor (x.handleOf rs.rd) with
  | some r => (s.destsOf (x.handleOf rs.wr)).any fun e => r.d.meets e.2.d
  | none => false

/-- A start by a Halyard's value orders the stream after what the Halyard shows (R67). -/
def State.learnStart (s : State) (c : Nat) (x : Stream) : State :=
  match x.rs.pace with
  | .halyard w => s.learnOrder c w.hal
  | _ => s

/-- `EMIT` begins (R93, R110, R302): at most eight transfers are open, the start source holds, and the `DRAIN` that follows goes to the
execute engine. -/
def State.beginEmit (s : State) (p c : Nat) (x : Stream) : State :=
  if x.xfers.length ≥ 8 ∨ x.xq.length ≥ 64 then s
  else
    let s := match x.rs.pace with
      | .halyard w => s.halCheck w.hal
      | _ => s
    match s.startSource x with
    | none => s.showWait p
    | some (y, start) =>
      let t := { Transfer.begin x.nextXfer x.rs x.snapshot start x.units with
        inPlace := s.inPlace x x.rs
        missed := x.undone.any fun u => decide (u.id = x.nextXfer) && u.missed }
      ((s.setStream c { y with
        emitting := true
        xq := y.xq ++ [⟨.drain, y.fpc + 1, t.id⟩]
        xfers := y.xfers ++ [t]
        nextXfer := t.id + 1
        undone := y.undone.filter fun u => decide (u.id ≠ t.id)
        units := y.units + y.rs.wr.units }).beginOcc c t.id x.rs.phase).learnStart c x |>.modLane p fun l => { l with xst := if l.xst ≤ 3 then 2 else l.xst }

/-- The `EMIT` in hand has issued its last read: the transfer indices advance (R87) and the counter moves past the `EMIT` and its
`DRAIN`. -/
def State.finishEmit (s : State) (p c id : Nat) : State :=
  let s := s.modXfer c id fun t => { t with rdDone := true }
  let s := s.modStream c fun x =>
    let (pc, reps) := advance .emit x.fpc x.reps
    let (pc, reps) := advance .drain pc reps
    { x with fpc := pc, reps := reps, emitting := false, rs := { x.rs with rd := x.rs.rd.nextTransfer, wr := x.rs.wr.nextTransfer } }
  s.passOn p

/-- Fetch the units of the `EMIT` in hand as far as the engine gets; `fuel` bounds them. [Log 19 DESIGN CHOICE; log 30 DEDUCED] -/
def State.fetchUnits (p c id : Nat) : Nat → State → State
  | 0, s => s
  | f + 1, s =>
    match s.xferOf c id with
    | none => s
    | some (_, t) =>
      if t.rdNext ≥ t.rdUnits then s.finishEmit p c id
      else match s.fetchUnit p c id t.rdNext with
      | (s, true) => State.fetchUnits p c id f (s.modXfer c id fun t => { t with rdNext := t.rdNext + 1 })
      | (s, false) => s

/-- Go on with the `EMIT` in hand. -/
def State.goEmit (s : State) (p c : Nat) : State :=
  match (s.stream c).bind Stream.emitXfer with
  | some t => State.fetchUnits p c t.id (t.rdUnits + 1) s
  | none => s

/-- The fetch engine meets an `EMIT`: it begins it when it may, and issues what reads it can. [Log 19 DESIGN CHOICE] -/
def fetchEmit (p : Nat) (s : State) : State :=
  let s := s.ageRequests p
  match s.fetchStream p with
  | none => s
  | some (c, x) =>
    if !(s.lane p).fetching || decide (s.insnAt x x.fpc ≠ some .emit) then s.programFault p c x
    else (if x.emitting then s else s.beginEmit p c x).goEmit p c

/-- `EMIT` (R89, R90, R93): carried out as far as the engine gets; a later `EMIT` of the same lane goes on with it. -/
def execEmit (lane : Fin 10) (s : State) : Out := running s (fetchEmit lane.val)

end Sys2Proof.Machine
end

