-- ==== Sys2Proof/Machine/UnitOut.lean ====
section
/-! DEFINITION. What a write unit of a transfer writes (R44, R63-R66, R89-R92, R126, R141-R171, R187-R190, R410): patterns of source
elements, packed cells, Map and Complex sums, the Proof stage, scale blocks. -/
namespace Sys2Proof.Machine

/-! ### Patterns -/

/-- The pattern of an element in the bytes of its cell. -/
def patternIn (f : Fmt) (b : List Byte) (off nib : Nat) : Nat :=
  if f.bits = 4 then (nth 0 b off).toNat / 16 ^ nib % 16 else fieldLE b off (f.bits / 8)

/-- The pattern of element `i` of a tensor, its cells swapped by `kind` (R126); an absent super-tile gives the fill (Table LAYOUT-5). -/
def Transfer.pattern (t : Transfer) (tn : Tensor) (kind : Nat) (pad : Pad) (i : V4 Nat) : Nat :=
  let (pl, off, nib) := tn.placeAt i
  if pl = .absent then pad.fill % 2 ^ tn.d.fmt.bits else patternIn tn.d.fmt (swapBytes kind (t.cellBytes pl)) off nib

/-- The pattern of a source of the read side. -/
def View.patOf (v : View) (t : Transfer) : Src → Nat
  | .fill pat _ => pat % 2 ^ v.rd.d.fmt.bits
  | .elem i _ => t.pattern v.rd v.rs.rd.swap v.rs.pad i
  | .unread => 0

/-- The scale of destination element `u` under a link with `USE` 1; exactly 1 with none (R162). -/
def View.scaleAt (v : View) (t : Transfer) (u : V4 Int) : Val :=
  match v.rs.scale, v.scale with
  | some c, some st => if c.use = 1 then decodeReal st.d.fmt (t.pattern st 0 v.rs.pad (scaleIndex c st.d u)) else .fin false 1 0
  | _, _ => .fin false 1 0

/-- A source element that lies in an absent super-tile. [Log 32 DEDUCED] -/
def View.absentSrc (v : View) : Src → Bool
  | .elem i _ => v.rd.absentAt i
  | _ => false

/-- What a pass mode writes for a source (R157, R160): its bits unchanged; in Cast a source element goes through the Drain stage, that of
an absent super-tile with the value it reads as (Table LAYOUT-5); a fill does not. [Log 32 DEDUCED] -/
def View.passElem (v : View) (t : Transfer) (src : Src) (u : V4 Int) : Drained :=
  match src with
  | .fill pat _ => ⟨pat % 2 ^ v.wr.d.fmt.bits, 0, 0⟩
  | s =>
    if v.rs.x.mode = 3 then drainElem v.wr.d.fmt (decodeParts v.rd.d.fmt (v.patOf t s)) (v.scaleAt t u)
    else ⟨v.patOf t s % 2 ^ v.wr.d.fmt.bits, 0, 0⟩

/-! ### Cells -/

/-- One cell to write: the index of its first element, or its address in byte mode; its column and row in the unit; the bytes after
the write-side swap, the byte enables, whether it is marked poisoned, and its check value, computed afresh (R36, R37). -/
structure OutCell where
  idx : V4 Nat
  addr : Option Nat
  col : Nat
  row : Nat
  data : List Byte
  be : BitVec 64
  poison : Bool
  chk : Nat
  deriving DecidableEq, Repr

/-- Where a cell lies in a destination tensor. -/
def OutCell.placeIn (o : OutCell) (t : Tensor) : Place :=
  match o.addr with
  | some a => t.placeByte a
  | none => (t.placeAt o.idx).1

/-- What a unit writes, and what it counts: saturations, NaNs written as integers, accesses of absent super-tiles. -/
structure UnitOut where
  cells : List OutCell
  sat : Nat
  nan : Nat
  absent : Nat
  deriving DecidableEq, Repr

/-- What becomes of one element of a cell: nothing, a value that is written, or a value that only completes its byte (R66). -/
inductive El where
  | none
  | put (pat : Nat)
  | rest (pat : Nat)
  deriving DecidableEq, Repr

/-- The pattern an element places in its byte. -/
def El.pat : El → Nat
  | .none => 0
  | .put p => p
  | .rest p => p

/-- The element is written. -/
def El.written : El → Bool
  | .put _ => true
  | _ => false

/-- The bytes and byte enables of elements that fill whole bytes: what is not written holds 0 (R63, R410). -/
def packWhole (n : Nat) : List El → List (Byte × Bool)
  | [] => []
  | x :: xs => (if x.written then (toBytes x.pat n).map fun b => (b, true) else List.replicate n (0, false)) ++ packWhole n xs

/-- The bytes and byte enables of INT4 elements, two to a byte (R45, R66). -/
def packPairs : List El → List (Byte × Bool)
  | x :: y :: xs =>
    (if x.written || y.written then (BitVec.ofNat 8 (x.pat % 16 + y.pat % 16 * 16), true) else (0, false)) :: packPairs xs
  | _ => []

/-- The elements of a cell as bytes with enables. -/
def packCell (bits : Nat) (l : List El) : List (Byte × Bool) := if bits = 4 then packPairs l else packWhole (bits / 8) l

/-- A mask from a list of enables, the first in bit 0. -/
def maskOf (l : List Bool) : BitVec 64 := BitVec.ofNat 64 (l.foldr (fun b n => (if b then 1 else 0) + 2 * n) 0)

/-- A cell of a tensor-mode unit at `p` from its elements: the swap moves bytes and leaves the enables (R410). -/
def View.outCell (v : View) (p : V4 Int) (c r : Nat) (els : List El) : OutCell :=
  let bs := packCell v.wr.d.fmt.bits els
  let data := swapBytes v.rs.wr.swap (bs.map (·.1))
  { idx := (unitIndex p v.wr.d.fmt.td0 (c * v.wr.d.fmt.td0) r).toNats
    addr := none
    col := c
    row := r
    data := data
    be := maskOf (bs.map (·.2))
    poison := false
    chk := crc32c data }

/-- Sum over a list of naturals. -/
def sumBy {α : Type} (f : α → Nat) (l : List α) : Nat := (l.map f).sum

/-- The sources of the written elements of the live cells of unit `m` at `p`. -/
def View.liveElems (v : View) (m : Nat) (p : V4 Int) : List (V4 Int × Src) :=
  let td0 := v.wr.d.fmt.td0
  (v.liveCells m).flatMap fun cr => (List.range td0).filterMap fun k =>
    match v.outAt m p (cr.1 * td0 + k) cr.2 with
    | .write src => some (unitIndex p td0 (cr.1 * td0 + k) cr.2, src)
    | _ => none

/-- What write unit `m` of a pass mode writes (R89, R90, R157-R160). [Log 90 DESIGN CHOICE] -/
def View.passUnit (v : View) (t : Transfer) (m : Nat) : UnitOut :=
  match v.unitAt true m with
  | .pos p =>
    let td0 := v.wr.d.fmt.td0
    let el := fun (c r k : Nat) =>
      let e := c * td0 + k
      match v.outAt m p e r with
      | .write src => El.put (v.passElem t src (unitIndex p td0 e r)).pat
      | .skip src => if v.skipUsed m p e r then El.rest (v.passElem t src (unitIndex p td0 e r)).pat else El.none
      | .suppressed => El.none
    let put := (v.liveElems m p).map fun us => v.passElem t us.2 us.1
    { cells := (v.liveCells m).map fun cr => v.outCell p cr.1 cr.2 ((List.range td0).map (el cr.1 cr.2))
      sat := sumBy Drained.sat put
      nan := sumBy Drained.nan put
      absent := ((v.liveElems m p).filter fun us => v.absentSrc us.2).length }
  | _ => ⟨[], 0, 0, 0⟩

/-- What unit `n` of a byte-mode transfer writes (R92, R124-R126): swap groups begin at byte 0 of the unit. -/
def View.byteUnit (v : View) (t : Transfer) (n : Nat) : UnitOut :=
  let at_ := fun i => v.rd.placeByte (v.byteFrom n i)
  let raw := (List.range v.rs.rd.blen).map fun i =>
    if at_ i = .absent then BitVec.ofNat 8 v.rs.pad.fill else nth 0 (t.cellBytes (at_ i)) (v.byteFrom n i % 64)
  let out := swapBytes v.rs.wr.swap (swapBytes v.rs.rd.swap raw)
  let cell := fun (e : Nat × List (Nat × Nat)) =>
    let byte := fun k => match e.2.find? fun q => decide (q.1 = k) with
      | some q => (nth 0 out q.2, true)
      | none => (0#8, false)
    let bs := (List.range 64).map byte
    (⟨.all 0, some e.1, 0, 0, bs.map (·.1), maskOf (bs.map (·.2)), false, crc32c (bs.map (·.1))⟩ : OutCell)
  { cells := (v.byteCells n).map cell
    sat := 0
    nan := 0
    absent := ((List.range v.rs.rd.blen).filter fun i => decide (at_ i = .absent)).length }

/-! ### Map and Complex (R141-R149, R187) -/

/-- Bytes of a weight block of a format (Table BURIN-1). -/
def blockBytes (f : Fmt) : Nat := match mapShape f with | some (k, m) => k * m * f.bits / 8 | none => 0

/-- The source of element `k` of input vector `i` of read unit `n` (Table BURIN-3). -/
def View.inputSrc (v : View) (n k i : Nat) : Src := if v.rs.x.axis = 0 then v.srcOfRead n k i else v.srcOfRead n i k

/-- The kind of a row a consumer takes, by its scale code; `plain` outside a consuming stream. -/
inductive RowKind where
  | plain
  | narrow
  | wide
  deriving DecidableEq, Repr

/-- The row kind of a scale code (Table WIRE-3). -/
def rowKind : Option Nat → RowKind
  | none => .plain
  | some c => if c = 0xBF80 then .wide else .narrow

/-- The vectors that the array issues for an input vector of a kind, with their class (Table WIRE-6, R313). -/
def View.issuesOf (v : View) (kind : RowKind) : Nat × Nat :=
  if kind = .wide then (activityClass v.rd.d.fmt, if v.arrayFmt = .int4 then 8 else 4) else (activityClass v.arrayFmt, 1)

/-- The accumulator of a vector is FP32 (R144, R187). -/
def View.floatAcc (v : View) (k : RowKind) : Bool := decide (k ≠ .narrow) && v.rd.d.fmt.floatAcc

/-- One input vector, element by element, part by part (R144, R181, R187). [Log 90 DESIGN CHOICE] -/
def View.inputVec (v : View) (t : Transfer) (n i : Nat) (kind : RowKind) : List (List Val) :=
  (List.range v.km.1).map fun k =>
    let pat := v.patOf t (v.inputSrc n k i)
    if kind = .narrow then (partsOf v.rd.d.fmt pat).map fun q => Val.ofInt (signed 16 q) else decodeParts v.rd.d.fmt pat

/-- Weight `w[j][k]` of a block (R150). -/
def weightAt (f : Fmt) (kk : Nat) (b : List Byte) (j k : Nat) : List Val :=
  let i := j * kk + k
  decodeParts f (if f.bits = 4 then (nth 0 b (i / 2)).toNat / 16 ^ (i % 2) % 16 else fieldLE b (i * (f.bits / 8)) (f.bits / 8))

/-- The chunk sums of one vector over the rows of a block, then the checksum column's prediction for the chunk (R144, R165). -/
def chunkVec (fp : Bool) (f : Fmt) (km : Nat × Nat) (b : List Byte) (xs : List (List Val)) : List (List Val) :=
  let row := fun j => (List.range km.1).map fun k => weightAt f km.1 b j k
  let sums := (List.range km.2).map fun j => chunkSum fp (row j) xs
  let sigma := (List.range km.1).map fun k =>
    (List.range km.2).foldl (fun acc j => (joinParts (acc.map fun a => [a]) ((weightAt f km.1 b j k).map fun a => [a])).map Val.sum) []
  sums ++ [chunkSum false sigma xs]

/-- Add a chunk's result to a vector's accumulators; the prediction, last, is summed exactly. -/
def addVec (fp : Bool) (a b : List (List Val)) : List (List Val) :=
  let n := a.length - 1
  ((a.zip b).mapIdx fun i ab => addAcc (fp && decide (i < n)) ab.1 ab.2)

/-- An output vector's accumulators pass the sum check of Table BURIN-10: all but the last are sums, the last the prediction. [Log 37 DEDUCED] -/
def vecOk (fp : Bool) (a : List (List Val)) : Bool :=
  let p := nth [] a (a.length - 1)
  (List.range p.length).all fun q => proofSumOk fp (nth .nan p q) ((a.take (a.length - 1)).map fun x => nth .nan x q)

/-- The accumulators of a member that has no chunks (R171): +0. -/
def View.zeroAcc (v : View) : List (List Val) :=
  List.replicate (v.vectors * (v.km.2 + 1)) (List.replicate (if v.rd.d.fmt.complex then 2 else 1) Val.zero)

/-- The accumulators of vector `i`, with its prediction. -/
def accVec (w : Nat) (acc : List (List Val)) (i : Nat) : List (List Val) := (acc.drop (i * w)).take w

/-- What a Map or Complex unit writes for its vectors `lo` to `hi - 1`, from the accumulators of all its vectors and the scale codes of
those (R163, R190). [Log 90 DESIGN CHOICE] -/
def View.mapUnit (v : View) (t : Transfer) (m lo hi : Nat) (acc : List (List Val)) (codes : List Nat) : UnitOut :=
  match v.unitAt true m with
  | .pos p =>
    let td0 := v.wr.d.fmt.td0
    let w := v.km.2 + 1
    let out := fun (e r : Nat) =>
      let (j, i) := v.outPair e r
      let sc := if v.rs.consumes then (scaleOfCode (nth 0 codes (i - lo))).getD Val.zero else v.scaleAt t (unitIndex p td0 e r)
      drainElem v.wr.d.fmt (nth [] acc (i * w + j)) sc
    let live := fun (e r : Nat) => decide (lo ≤ (v.outPair e r).2) && decide ((v.outPair e r).2 < hi) &&
      match v.outAt m p e r with | .write _ => true | _ => false
    let cells := (v.liveCells m).filter fun cr => (List.range td0).any fun k => live (cr.1 * td0 + k) cr.2
    let put := cells.flatMap fun cr =>
      ((List.range td0).filter fun k => live (cr.1 * td0 + k) cr.2).map fun k => out (cr.1 * td0 + k) cr.2
    { cells := cells.map fun cr => v.outCell p cr.1 cr.2 ((List.range td0).map fun k =>
        if live (cr.1 * td0 + k) cr.2 then El.put (out (cr.1 * td0 + k) cr.2).pat else El.none)
      sat := sumBy Drained.sat put
      nan := sumBy Drained.nan put
      absent := if hi < v.vectors then 0 else sumBy (fun c => ((unitPairs (v.shape false).1 (v.shape false).2).filter fun er =>
        v.absentSrc (v.srcOfRead (m * v.rs.x.kch + c) er.1 er.2)).length) (List.range v.rs.x.kch) }
  | _ => ⟨[], 0, 0, 0⟩

/-- A cell holds a result of the tile of 16 vectors numbered `g` (R167). -/
def View.inTile (v : View) (g : Nat) (o : OutCell) : Bool :=
  (List.range v.wr.d.fmt.td0).any fun k => decide (v.vectorOf (o.col * v.wr.d.fmt.td0 + k) o.row / 16 = g)

/-! ### What a unit waits for -/

/-- The cells of the read side that fetch unit `n` uses. -/
def View.usesOf (v : View) (n : Nat) : List Need :=
  presentNeeds (if v.rs.byteMode then (List.range v.rs.rd.blen).map fun i => ⟨v.rd.placeByte (v.byteFrom n i), none⟩
    else if v.rs.readDriven then (v.readElems n).map (v.rd.needAt 0)
    else (v.writeElems n).map (v.rd.needAt 0))

/-- The vectors of 128 bytes in which a pass mode takes unit `n` through the array (R161). [Log 99 DESIGN CHOICE] -/
def View.passIssues (v : View) (n : Nat) : Nat := (((v.usesOf n).map fun d => d.place.key).eraseDups.length + 1) / 2

/-- The list cell of entry `n` of a list is in. -/
def View.listIn (v : View) (l : Option Tensor) (n : Nat) : Bool :=
  match l with
  | some lt => match Tbl.find v.lists (listPlace lt n).1.key with
    | some (.data ..) => true
    | _ => false
  | none => true

/-- The list cells that the engine needs before write unit `m`: its scatter entry, and its gather entry; of a Map or Complex unit each chunk has its
own, and chunk 0 gives a consumer its rows (R188). -/
def View.listsIn (v : View) (m : Nat) : Bool :=
  v.listIn v.wrList m && (if v.rs.x.arith then !v.rs.consumes || v.listIn v.rdList (m * v.rs.x.kch) else v.listIn v.rdList m)

end Sys2Proof.Machine
end

