-- ==== Sys2Proof/Machine/Drain.lean ====
section
/-! DEFINITION. The execute engine (R82, R95-R98, R107-R109, R115-R118, R153-R155, R167, R170, R171, R181-R184, R188-R190, R202-R205,
R208, R237-R240): it computes the units of a transfer, issues their writes and posts Pennants. -/
namespace Sys2Proof.Machine

/-! ### Gates -/

/-- The execute engine may issue vectors and writes: the lane does not hold, has not failed a Proof stage (R167), waits for no page of a write (R133),
and the block is neither in the safe state (Table FAULT-7) nor in a thermal emergency (R311). -/
def State.mayIssue (s : State) (p : Nat) : Bool :=
  !(s.lane p).holding && !s.flt.safe && !s.pwr.emerg && !(s.lane p).stops.any fun x => match x with
    | .halt .proof => true
    | .page f => f.write
    | _ => false

/-- The execute engine's instruction: the oldest of its stream's queue, while the stream is not Held. -/
def State.execHead (s : State) (p : Nat) : Option (Nat × Stream × QInsn) :=
  match s.execStream p with
  | some (c, x) => match x.xq with
    | q :: _ => if x.st = .active then some (c, x, q) else none
    | [] => none
  | none => none

/-- Nothing that follows a producing transfer is performed before it is known whether it runs again (R184). -/
def Stream.awaitsFit (x : Stream) : Bool := x.xfers.any fun t => t.wrIssued && t.producing

/-- Take the instruction just performed off the queue. -/
def State.popInsn (s : State) (p c : Nat) : State := (s.modStream c fun x => { x with xq := x.xq.drop 1 }).passOn p

/-! ### Writes -/

/-- Count writes as issued and not complete. -/
def State.owe (s : State) (c id n : Nat) : State := s.modXfer c id fun t => { t with outstanding := t.outstanding + n, wrBegun := true }

/-- The write of transfer `id` to `va` lost its page-table walk: it is not issued (R116, R131). [Log 56 DEDUCED] -/
def State.skips (s : State) (p c id va : Nat) : Bool := decide ((s.lane p).skip = some (c, id, va))

/-- The engine has passed over that write. [Log 56 DEDUCED] -/
def State.unskip (s : State) (p : Nat) : State := s.modLane p fun l => { l with skip := none }

/-- Byte `a` of the pool holds a write of another stream that no Halyard orders before this one of stream `x` (R67). [Log 10 DESIGN CHOICE] -/
def State.races (s : State) (x : Stream) (a : Nat) : Bool :=
  (Tbl.get [] s.plate.writers a).any fun e => decide (e.1 ≠ x.uid) && decide (Tbl.get 0 x.knows e.1 < e.2)

/-- Stream `x` has written the enabled bytes of the cell at `a`: it stands beside the writers it races with, and in the place of all others. -/
def State.markWriter (s : State) (x : Stream) (a : Nat) (be : BitVec 64) (raced : Nat → Bool) : State :=
  let k := s.plate.clock + 1
  let mark := fun (t : Tbl (Tbl Nat)) i => Tbl.put (a + i) (Tbl.put x.uid k (if raced i then Tbl.get [] t (a + i) else [])) t
  { s with plate := { s.plate with
      clock := k, writers := ((List.range 64).filter fun i => be.getLsbD i).foldl mark s.plate.writers } }

/-- A stream's write of a Plate cell (R29, R67): bytes that it shares with a stream no Halyard orders before it are undefined, free values; the others are
as written. [Log 10 DESIGN CHOICE] -/
def State.poolStore (s : State) (c a : Nat) (data : List Byte) (be : BitVec 64) (poison : Bool) (chk : Nat) : State :=
  match s.stream c with
  | none => s.plateWrite a data be poison chk
  | some x =>
    let raced := fun i => be.getLsbD i && s.races x (a + i)
    if (List.range 64).any raced then
      let (f, s') := s.freeBytes 64
      let b := (List.range 64).map fun i => if raced i then nth 0 f i else nth 0 data i
      (s'.plateWrite a b be poison (crc32c b)).markWriter x a be raced
    else (s.plateWrite a data be poison chk).markWriter x a be fun _ => false

/-- Issue one cell to one place; false when the engine has to wait. -/
def State.storeAt (s : State) (p c id : Nat) (pl : Place) (data : List Byte) (be : BitVec 64) (poison : Bool) (chk : Nat) : State × Bool :=
  match pl with
  | .host va =>
    if s.skips p c id va then (s.unskip p, true)
    else match s.translate p c id va true with
    | (s, none) => (s, false)
    | (s, some pa) =>
      match s.issueWrite (.store p c id) pa data be poison chk with
      | some s => (s.owe c id 1, true)
      | none => (s, false)
  | .pool o => (((s.poolStore c o data be poison chk).tally c id plateClass 1).owe c id 0, true)
  | .peer tag sti cell => if s.link.up then ((s.frameCell p c id tag sti cell data be poison).owe c id 1, true) else (s, false)
  | .absent => (s, true)

/-- Issue one output cell to every destination (R240). The members of a Bunting are Plate tensors and the peer's (R235): a Plate takes its cell at
once, and what would go to a lost peer is discarded (Table SYNC-9), so that only a single destination can make the engine wait. -/
def State.storeCell (s : State) (p c id : Nat) (o : OutCell) (ds : List Tensor) : State × Bool :=
  match ds with
  | [d] => s.storeAt p c id (o.placeIn d) o.data o.be o.poison o.chk
  | _ => (ds.foldl (fun s d => (s.storeAt p c id (o.placeIn d) o.data o.be o.poison o.chk).1) s, true)

/-- Issue cells in order, counting each (R115). -/
def State.storeCells (p c id : Nat) (ds : List Tensor) : List OutCell → State → State × Bool
  | [], s => (s, true)
  | o :: rest, s =>
    match s.storeCell p c id o ds with
    | (s, true) => State.storeCells p c id ds rest (s.modXfer c id fun t => { t with wrCell := t.wrCell + 1 })
    | (s, false) => (s, false)

/-! ### Coded destinations (R202-R205) -/

/-- The number of an output cell within its super-tile. -/
def tileCell (d : Desc) (i : V4 Nat) : Nat := ((d.addrOf i).1 - d.stAddr (d.stOf i)) / 64

/-- The raw bytes of block `k` of the super-tile that the cells of a unit fill: what no cell holds is zero (R203). -/
def blockRaw (d : Desc) (cells : List OutCell) (k : Nat) : List Byte :=
  (List.range (d.blockSize k / 64)).flatMap fun i => match cells.find? fun o => decide (tileCell d o.idx = k * 64 + i) with
    | some o => (List.range 64).map fun b => if o.be.getLsbD b then nth 0 o.data b else 0
    | none => List.replicate 64 0

/-- Assembly buffers of a lane in each port's compressor (R202). -/
def assemblyBuffers : Nat := 5

/-- Hand the blocks of a unit to the compressor of their port, from the first not yet handed over (R202): `ks` are block numbers. The engine waits
while the lane's assembly buffers of the port are taken. [Log 39 DEDUCED] -/
def State.storeBlocks (p c id : Nat) (poison : Bool) (d : Desc) (sti : Nat) (cells : List OutCell) : List Nat → Nat → State → State × Bool
  | [], _, s => (s, true)
  | k :: ks, seen, s =>
    let mine := (cells.filter fun o => decide (tileCell d o.idx / 64 = k)).length
    match s.xferOf c id with
    | none => (s, false)
    | some (_, t) =>
      if mine = 0 ∨ t.wrCell > seen then State.storeBlocks p c id poison d sti cells ks (seen + mine) s
      else
        let a := d.stAddr (d.stCoord sti) + k * 4096
        if s.skips p c id a || s.skips p c id (d.headerAddr sti k) then
          State.storeBlocks p c id poison d sti cells ks (seen + mine)
            ((s.unskip p).modXfer c id fun t => { t with wrCell := t.wrCell + mine })
        else match s.translate p c id a true with
        | (s, none) => (s, false)
        | (s, some pa) =>
          match s.translate p c id (d.headerAddr sti k) true with
          | (s, none) => (s, false)
          | (s, some ha) =>
            if ((s.port (s.portFor pa)).compress.filter fun j => decide (j.phys = p)).length ≥ assemblyBuffers then (s, false)
            else
            let job : CompressJob := ⟨p, c, id, d.cbook, pa, ha, blockRaw d cells k, poison⟩
            let s := s.modPort (s.portFor pa) fun q => { q with compress := q.compress ++ [job] }
            let s := (s.owe c id 1).modXfer c id fun t => { t with wrCell := t.wrCell + mine }
            State.storeBlocks p c id poison d sti cells ks (seen + mine) s

/-! ### Producing narrow rows (R176-R186) -/

/-- The settings of a scale link for the quantiser. -/
def narrowCfg (c : Scale) : NarrowCfg := ⟨decide (c.width = 1), c.dither, c.zsh, c.rsh, c.seed⟩

/-- A row to send: its index, its native bytes, and how it travels. -/
structure SentRow where
  r : Nat
  native : List Byte
  kind : NarrowRow
  deriving DecidableEq, Repr

/-- The parts of the elements of a row held in native bytes, real part first (R179). -/
def rowVals (f : Fmt) (n : Nat) (b : List Byte) : List Val :=
  (List.range n).flatMap fun e => decodeParts f (fieldLE b (e * (f.bits / 8)) (f.bits / 8))

/-- In wide mode every row travels wide but a zero row (R184). -/
def rowFate (cfg : NarrowCfg) (wide : Bool) (epoch r : Nat) (vs : List Val) : NarrowRow :=
  if wide then (if vs.all Val.isZero then .zero else .wide .special) else narrowRow cfg epoch r vs

/-- The rows of a unit at `p`, in ascending D1: those whose index lies in the window (R176), and of a tile that failed its own. -/
def View.sentRows (v : View) (cfg : NarrowCfg) (wide : Bool) (epoch : Nat) (p : V4 Int) (cells : List OutCell) (tile : Bool) : List SentRow :=
  let d := v.wr.d
  ((List.range (v.shape true).2).filter fun r => inWindow d.e (unitIndex p d.fmt.td0 0 r) && (!tile || cells.any fun o => decide (o.row = r))).map fun r =>
    let bytes := (List.range v.rs.wr.cells).flatMap fun c => match cells.find? fun o => decide (o.col = c) && decide (o.row = r) with
      | some o => o.data
      | none => List.replicate 64 0
    let native := bytes.take (d.e.d0 * (d.fmt.bits / 8))
    let i := d.rowIndex (unitIndex p d.fmt.td0 0 r).toNats
    ⟨i, native, rowFate cfg wide epoch i (rowVals d.fmt d.e.d0 native)⟩

/-- The payload of a row (Table WIRE-4). -/
def SentRow.payload (w : SentRow) (int4 : Bool) (parts : Nat) : List Byte :=
  let pack := fun l : List Int =>
    if int4 then (List.range ((parts + 1) / 2)).map fun k => BitVec.ofNat 8 (wrap 4 (nth 0 l (2 * k)) + 16 * wrap 4 (nth 0 l (2 * k + 1)))
    else l.map fun q => BitVec.ofNat 8 (wrap 8 q)
  match w.kind with
  | .zero => pack (List.replicate parts 0)
  | .narrow _ q => pack q
  | .wide _ => w.native

/-- The scale code of a row (Table WIRE-3). -/
def SentRow.code (w : SentRow) : Nat := match w.kind with | .zero => 0 | .narrow c _ => c | .wide _ => 0xBF80

/-- The `KIND` value of a row (Table LINK-3). -/
def SentRow.kindBits (w : SentRow) : Nat := match w.kind with | .zero => 0 | .narrow .. => 1 | .wide _ => 2

/-- The word of the stream record that counts a row (R192); a row of a wide re-run or of wide mode has no cause of its own. -/
def SentRow.stat (w : SentRow) (wide : Bool) : Option Nat :=
  match w.kind with
  | .narrow .. => some 9
  | .zero => some 10
  | .wide c => if wide then none else match c with | .special => some 11 | .scale => some 12 | .zeros => some 13

/-- How many of the rows fit one `ROWS` frame (R278): at most `lim` rows and `room` bytes. [Log 36 DEDUCED] -/
def fitRows (int4 : Bool) (parts : Nat) : Nat → Nat → List SentRow → Nat
  | 0, _, _ => 0
  | _, _, [] => 0
  | lim + 1, room, w :: rest =>
    let n := (w.payload int4 parts).length
    if n > room then 0 else 1 + fitRows int4 parts lim (room - n) rest

/-- One `ROWS` frame (Table LINK-3). [Log 36 DEDUCED] -/
def rowsFrameOf (tag : Nat) (int4 : Bool) (parts n : Nat) (rows : List SentRow) (o : FrameOwner) (poison : Bool) : TxFrame :=
  let first := match rows with | w :: _ => w.r | [] => 0
  { type := 2
    tag := tag
    spec := toBytes first 4 ++ toBytes (rows.length - 1 + (if int4 then 256 else 0) + n * 65536) 4 ++
      toBytes (rows.foldr (fun w k => w.kindBits + 4 * k) 0) 16
    payload := (rows.map fun w => w.payload int4 parts).flatten
    poison := poison
    owners := [o] }

/-- Send rows as `ROWS` frames; `fuel` bounds them. [Log 36 DEDUCED] -/
def State.sendRowFrames (p c id tag : Nat) (int4 : Bool) (parts n : Nat) (poison : Bool) : Nat → List SentRow → State → State
  | 0, _, s => s
  | f + 1, rows, s =>
    if rows = [] then s
    else
      let k := max 1 (fitRows int4 parts 64 8192 rows)
      let s := (s.egress (rowsFrameOf tag int4 parts n (rows.take k) ⟨p, c, id, 1⟩ poison)).owe c id 1
      State.sendRowFrames p c id tag int4 parts n poison f (rows.drop k) s

/-- Send the codes gathered as a scale block of the scale tensor (R182): one D1 row, three cells. -/
def State.sendScaleBlock (s : State) (p c id : Nat) (st : Tensor) (wid : Nat) : State :=
  match s.xferOf c id with
  | none => s
  | some (x, t) =>
    if t.codes = [] then s
    else
      let b := scaleBlock t.codes t.codeRow wid
      let s := [0, 1, 2].foldl (fun s k => (s.storeAt p c id (st.placeAt ⟨32 * k, x.prodBlock, 0, 0⟩).1 (slice b (64 * k) 64) beAll false (crc32c (slice b (64 * k) 64))).1) s
      (s.modXfer c id fun t => { t with codes := [] }).modStream c fun x => { x with prodBlock := x.prodBlock + 1 }

/-- Enter a row's code in the block under construction; a full block is sent. -/
def State.addCode (p c id : Nat) (st : Tensor) (wid : Nat) (s : State) (w : SentRow) : State :=
  let s := s.modXfer c id fun t => { t with
    codes := t.codes ++ [w.code]
    codeRow := if t.codes = [] then w.r else t.codeRow
    nr := t.nr + 1
    nf := t.nf + (if w.kindBits = 2 then 1 else 0) }
  match s.xferOf c id with
  | some (_, t) => if t.codes.length = 64 then s.sendScaleBlock p c id st wid else s
  | none => s

/-- Send the rows of a unit and their codes (R176, R181, R182); the rows of a tile that failed the Proof stage go marked `POISON`, and have no codes
(R167, R177). -/
def State.sendUnit (s : State) (p c id : Nat) (v : View) (x : Stream) (cfg : Scale) (st : Tensor) (pos : V4 Int) (cells : List OutCell)
    (poison : Bool) : State :=
  let wide := x.wide
  let rows := v.sentRows (narrowCfg cfg) wide x.epoch.toNat pos cells poison
  let int4 := decide (cfg.width = 1)
  let parts := v.wr.d.e.d0 * (if v.wr.d.fmt.complex then 2 else 1)
  let s := State.sendRowFrames p c id v.wr.d.peerTag int4 parts v.wr.d.e.d0 poison rows.length rows s
  if poison then s
  else
    let s := rows.foldl (State.addCode p c id st (if int4 then 1 else 0)) s
    s.modStream c fun x => rows.foldl (fun x w => match w.stat wide with | some k => x.count k 1 | none => x) x

/-! ### Weights (R153-R155) -/

/-- The model and block that chunk `k` of write unit `m` uses, with its weight format and the place of the block (R151, R153). -/
structure BlockUse where
  mid : Nat
  blk : Nat
  slot : Nat
  fmt : Fmt
  deriving DecidableEq, Repr

/-- The block of chunk `c` of write unit `m` (R153). [Log 34 DEDUCED] -/
def State.blockFor (s : State) (x : Stream) (t : Transfer) (m c : Nat) : Option BlockUse :=
  let w := t.rs.x.wslot
  let mid := match nth .unbound x.wbind w with
    | .fixed k => some k
    | .table _ es => if es = [] then none else some (nth 0 es ((t.unit0 + m) % es.length))
    | .unbound => none
  mid.bind fun k => (Tbl.find s.fw.models k).bind fun md => (Fmt.ofCode md.fmt).map fun f =>
    ⟨k, (t.rs.wr.tix * t.rs.x.kch + c) % md.nb, (w + c) % 4, f⟩

/-- The pool offset of a model's block. -/
def State.blockAddr (s : State) (mid blk : Nat) : Option (Nat × Nat) :=
  (Tbl.find s.fw.models mid).bind fun md => (s.tensor md.handle).bind fun t => (Fmt.ofCode md.fmt).map fun f =>
    (t.d.base + (md.first + blk) * blockBytes f, blockBytes f)

/-- A block's bytes when its slot holds it, or after the shadow buffer and the slot have exchanged roles; else its load into the
shadow buffer is started (R154). -/
def State.weights (s : State) (p : Nat) (b : BlockUse) : State × Option (List Byte) :=
  let l := s.lane p
  match Tbl.find l.slots b.slot with
  | some w =>
    if w.mid = b.mid ∧ w.blk = b.blk then (s, some w.bytes) else swap l
  | none => swap l
where
  /-- Serve the block from the shadow buffer or start its load. -/
  swap (l : Lane) : State × Option (List Byte) :=
    match l.shadow with
    | some (_, w) =>
      if w.mid = b.mid ∧ w.blk = b.blk then (s.setLane p { l with slots := Tbl.put b.slot w l.slots, shadow := none }, some w.bytes)
      else if l.loading.isSome then (s, none) else (s.setLane p { l with shadow := none, loading := some (b.mid, b.blk, b.slot) }, none)
    | none => if l.loading.isSome then (s, none) else (s.setLane p { l with loading := some (b.mid, b.blk, b.slot) }, none)

/-! ### Readiness of the inputs -/

/-- The state of the cells that fetch unit `n` uses, once the fetch engine has asked for the unit's data (R118); cells that were asked for and made room for others are asked for again. [Log 40 DESIGN CHOICE] -/
def State.unitReady (s : State) (p c id n : Nat) (uses : List Need) : State × Ready :=
  match s.xferOf c id with
  | none => (s, .wait)
  | some (_, t) =>
    if n ≥ t.rdNext then (s, .wait)
    else match t.ready uses with
    | .wait => if t.missing uses ≠ [] then ((s.fetchData p c id n).1, .wait) else (s, .wait)
    | r => (s, r)

/-! ### Map and Complex units (R144, R171) -/

/-- Vectors issued are counted in their classes (R313). -/
def State.tallyVectors (s : State) (c id : Nat) (l : List (Nat × Nat)) : State :=
  [0, 1, 2].foldl (fun s k =>
    let n := ((l.filter fun e => decide (e.1 = k)).map (·.2)).sum
    if n = 0 then s else s.tally c id k n) s

/-- Compute the chunks of write unit `m` that are left, in order, each once its inputs are in; `kinds` are the kinds of its rows. Answers `yes` once
all are done. A buffer that serves no later unit is released after its chunk. -/
def State.chunksOf (p c id m : Nat) (v : View) (kinds : List RowKind) : List Nat → State → State × Ready
  | [], s => (s, .yes)
  | k :: ks, s =>
    match s.xferOf c id with
    | none => (s, .wait)
    | some (x, t) =>
      let n := m * v.rs.x.kch + k
      if k < t.chunk then State.chunksOf p c id m v kinds ks s
      else if !v.listIn v.rdList n then (s, .wait)
      else match s.unitReady p c id n (v.usesOf n ++ if k = 0 then presentNeeds (v.scaleNeeds m) else []) with
      | (s, .yes) =>
        match s.blockFor x t m k with
        | none => (s, .wait)
        | some b =>
          match s.weights p b with
          | (s, none) => (s, .wait)
          | (s, some w) =>
            let vec := fun i => let kd := nth .plain kinds i
              chunkVec (v.floatAcc kd) b.fmt v.km w (v.inputVec t n i kd)
            let wd := v.km.2 + 1
            let acc := (List.range v.vectors).flatMap fun i =>
              if t.acc = [] then vec i else addVec (v.floatAcc (nth .plain kinds i)) (accVec wd t.acc i) (vec i)
            let s := s.tallyVectors c id ((List.range v.vectors).map fun i => v.issuesOf (nth .plain kinds i))
            State.chunksOf p c id m v kinds ks ((s.modXfer c id fun t => { t with acc := acc, chunk := k + 1 }).release c id)
      | r => r

/-- The key of the partial accumulators of write unit `m` from row `lo` on. -/
def partialKey (m lo : Nat) : Nat := m * 65536 + lo

/-- The partial accumulators of every member of a split stream under key `k`; none while some member has not computed them. -/
def State.gather (s : State) (c g id k : Nat) : Option (List (List (List Val))) :=
  (List.range g).mapM fun i => (s.xferOf (c + i) id).bind fun e => Tbl.find e.2.partials k

/-- Add the members' partials in the tree of R171, accumulator by accumulator. [Log 42 DEDUCED] -/
def joinMembers (v : View) (kinds : List RowKind) (ps : List (List (List Val))) : List (List Val) :=
  let w := v.km.2 + 1
  let n := match ps with | a :: _ => a.length | [] => 0
  (List.range n).map fun i =>
    let fp := v.floatAcc (nth .plain kinds (i / w)) && decide (i % w < v.km.2)
    match splitTree fp 3 1 (ps.map fun a => nth [] a i) with
    | r :: _ => r
    | [] => []

/-! ### The Proof stage (R166, R167) -/

/-- The first of the output vectors `lo` to `hi - 1` of a Map or Complex unit that fails its sum check. [Logs 37, 38 DEDUCED] -/
def View.badVector (v : View) (kinds : List RowKind) (lo hi : Nat) (acc : List (List Val)) : Option Nat :=
  ((List.range (hi - lo)).map (lo + ·)).find? fun i => !vecOk (v.floatAcc (nth .plain kinds i)) (accVec (v.km.2 + 1) acc i)

/-- What the Proof stage of lane `p` finds from vector `lo` on: a corrupted product, a corrupted Drain copy (R348) where the Drain stage runs, or a
sum check that fails; the kind of the Burgee and the failing vector. [Log 37 DEDUCED] -/
def State.proofFault (s : State) (p lo : Nat) (drains : Bool) (bad : Option Nat) : Option (Nat × Nat) :=
  if (s.lane p).flawProduct then some (23, lo)
  else if drains && (s.lane p).flawDrain then some (24, lo)
  else bad.map fun i => (23, i)

/-- The lane raises the Burgee of a Proof-stage failure and stops issuing (R167). [Log 37 DEDUCED] -/
def State.raiseProof (s : State) (p c kind : Nat) : State :=
  let pos := match s.stream c with | some x => formatP c x | none => 0
  (s.raise ⟨1, p, kind, pos⟩).stopLane p (.halt .proof)

/-- The lane's injected flaws have been found. -/
def State.clearFlaws (s : State) (p : Nat) : State := s.modLane p fun l => { l with flawProduct := false, flawDrain := false }

/-! ### Buntings (R237-R240) -/

/-- What the grants of a transfer come to (R238, R239). -/
inductive Grant where
  | go
  | wait (some_ : Bool)
  | noMember
  deriving DecidableEq, Repr

/-- The members of a Bunting that have not been evicted, by index. -/
def Bunting.liveIdx (b : Bunting) : List Nat := (List.range b.members.length).filter fun i => match b.members[i]? with
  | some m => !m.evicted
  | none => false

/-- The members that take part in a transfer: those not evicted when it became ready, less those evicted since (R238, R241). -/
def Bunting.partyOf (b : Bunting) (t : Transfer) : List Nat := t.party.getD b.liveIdx

/-- The grants of the members that take part. -/
def State.grantOf (s : State) (b : Bunting) (party : List Nat) : Grant :=
  let live := party.filterMap fun i => b.members[i]?
  if live = [] then .noMember
  else if live.all s.memberGrants then .go
  else .wait (live.any s.memberGrants)

/-- Each member that takes part has been sent one more transfer (R240). -/
def Bunting.sent (b : Bunting) (party : List Nat) : Bunting :=
  { b with members := b.members.mapIdx fun i m => if party.contains i then { m with j := m.j + 1 } else m, xfers := b.xfers + 1 }

/-- The first write of a transfer to a Bunting waits for its members (R238); a re-run does not ask again, and with no member left the lane halts
(Table SYNC-9). Answers whether the transfer may write. -/
def State.askGrants (s : State) (p c id h : Nat) : State × Bool :=
  match Tbl.find s.fw.buntings h, s.xferOf c id with
  | some b, some (x, t) =>
    let party := b.partyOf t
    if party = [] then (s.stopLane p (.halt .noMember), false)
    else if t.granted then (s, true)
    else
      let s := s.modXfer c id fun t => { t with party := some party }
      if x.regrant > 0 then
        ((s.modStream c fun x => { x with regrant := x.regrant - 1 }).modXfer c id fun t => { t with granted := true }, true)
      else
        let s := (party.filterMap fun i => b.members[i]?).foldl (fun s m => s.halCheck m.credit) s
        match s.grantOf b party with
        | .go =>
          ({ s with fw := { s.fw with buntings := Tbl.put h (b.sent party) s.fw.buntings } }.modXfer c id fun t =>
            { t with granted := true, skewFrom := none }, true)
        | .wait any => (s.modXfer c id fun t => { t with skewFrom := if any then some (t.skewFrom.getD s.now) else none }, false)
        | .noMember => (s.stopLane p (.halt .noMember), false)
  | _, _ => (s, true)

/-- Where a transfer of stream `c` writes: its destination, or the members of the Bunting that take part (R240). -/
def State.destsFor (s : State) (c id h : Nat) : List Tensor :=
  let party := match s.xferOf c id with | some (_, t) => t.party.getD [] | none => []
  ((s.destsOf h).filter fun e => (Tbl.find s.fw.buntings h).isNone || party.contains e.1).map (·.2)

/-! ### One unit -/

/-- What the engine issues of a unit: all of it, or of a consuming unit in which a scale block failed the vectors before it (R189). `codes` are the
scale codes taken, `cur` the cursor after them; the vectors before `hi` are then done. -/
structure UnitPart where
  u : UnitOut
  codes : List Nat
  cur : Cursor
  hi : Nat
  last : Bool
  deriving DecidableEq, Repr

/-- A unit has issued its last write: the engine goes to the next one, and gives up the buffers that serve no later unit (R111). -/
def State.unitDone (s : State) (c id : Nat) : State :=
  (s.modXfer c id fun t => { t with wrNext := t.wrNext + 1, wrCell := 0, rowNext := 0, chunk := 0, acc := [] }).release c id

/-- A part of a unit is done: the scale cursor moves (R188); the fetch engine's follows where it has not gone beyond the unit. -/
def State.partDone (s : State) (c id : Nat) (cur : Cursor) (hi : Nat) (last : Bool) : State :=
  let s := s.modStream c fun x => x.setCursor cur
  if last then
    let s := match s.xferOf c id with
      | some (_, t) => if t.rs.consumes ∧ t.rdNext ≤ (t.wrNext + 1) * t.rs.x.kch then s.modStream c fun x => { x with fetchCur := cur } else s
      | none => s
    s.unitDone c id
  else s.modXfer c id fun t => { t with rowNext := hi, wrCell := 0, chunk := 0, acc := [] }

/-- A unit that depends on a failed read issues no write (R118): its cells stay counted as lost. -/
def State.loseUnit (s : State) (c id m : Nat) (v : View) (cur : Cursor) : State :=
  (s.modXfer c id fun t => { t with lost := t.lost + (v.cellsFrom m t.rowNext - t.wrCell) }).partDone c id cur 0 true

/-- A coded block that a unit needs failed a check (R208): the lane stops; the Burgee follows once it holds. -/
def State.sizeHalt (s : State) (p reason header : Nat) : State :=
  if (s.lane p).stops.contains (.halt .size) then s
  else (s.modLane p fun l => { l with reason := reason, haltAddr := header }).stopLane p (.halt .size)

/-- A scale block failed a check (R189): the lane stops; the Burgee follows once it holds. [Log 35 DEDUCED] -/
def State.skewHalt (s : State) (p reason : Nat) : State :=
  if (s.lane p).stops.contains (.halt .skew) then s
  else (s.modLane p fun l => { l with reason := reason }).stopLane p (.halt .skew)

/-- Issue the cells of a part that are left: as narrow rows (R176), block by block to a coded destination (R202), or cell by cell; `poison` says that
they are the tile of a Proof-stage failure. False when the engine has to wait. -/
def State.putOut (s : State) (p c id m : Nat) (v : View) (cells : List OutCell) (poison : Bool) : State × Bool :=
  match s.xferOf c id with
  | none => (s, false)
  | some (x, t) =>
    let ds := s.destsFor c id (x.handleOf t.rs.wr)
    match v.rs.scale.bind fun k => if k.use = 2 then some k else none, v.scale, v.unitAt true m with
    | some cfg, some st, .pos pos => if s.link.up then (s.sendUnit p c id v x cfg st pos cells poison, true) else (s, false)
    | _, _, _ =>
      if v.wr.d.coded then match cells with
        | o :: _ => State.storeBlocks p c id poison v.wr.d (v.wr.d.stIndex (v.wr.d.stOf o.idx)) cells (List.range v.wr.d.nbs) 0 s
        | [] => (s, true)
      else State.storeCells p c id ds (cells.drop t.wrCell) s

/-- Issue what a unit writes, and count it (R62, R164, R188, R192). [Logs 19, 91 DESIGN CHOICE] -/
def State.issueUnit (s : State) (p c id m : Nat) (v : View) (a : UnitPart) : State × Bool :=
  match s.xferOf c id with
  | none => (s, false)
  | some (x, t) =>
    match if a.u.cells = [] then (s, true) else s.askGrants p c id (x.handleOf t.rs.wr) with
    | (s, false) => (s, false)
    | (s, true) =>
      let supp := if a.last then (if v.rs.byteMode then v.byteSuppressed m else v.suppressed m) + a.u.absent else 0
      let w := (a.codes.filter fun c => decide (c = 0xBF80)).length
      match s.putOut p c id m v a.u.cells false with
      | (s, true) =>
        ((s.modStream c fun x => ((((x.count 3 supp).count 4 a.u.sat).count 5 a.u.nan).count 15 (a.codes.length - w)).count 16 w).partDone
          c id a.cur a.hi a.last, true)
      | (s, false) => (s, false)

/-- The tile of a vector that failed (R167): its cells are written marked `POISON` by the same way as any cell of the unit, unless a Bunting has not
yet granted the transfer; then the lane raises the Burgee and stops. [Log 37 DEDUCED] -/
def State.failTile (s : State) (p c id m : Nat) (v : View) (u : UnitOut) (kind vec : Nat) : State × Bool :=
  match s.xferOf c id with
  | none => (s, false)
  | some (x, t) =>
    let tile := (u.cells.filter (v.inTile (vec / 16))).map fun o => { o with poison := true }
    let open_ := t.granted || (Tbl.find s.fw.buntings (x.handleOf t.rs.wr)).isNone
    match if open_ then s.putOut p c id m v tile true else (s, true) with
    | (s, true) => ((s.modXfer c id fun t => { t with failed := none, wrCell := 0 }).raiseProof p c kind, false)
    | (s, false) => (s, false)

/-- The Proof stage, then the writes (R167); `bad` is the vector whose sum check fails. -/
def State.closeUnit (s : State) (p c id m : Nat) (v : View) (a : UnitPart) (bad : Option Nat) : State × Bool :=
  match s.xferOf c id with
  | none => (s, false)
  | some (_, t) =>
    match t.failed with
    | some (kind, vec) => s.failTile p c id m v a.u kind vec
    | none =>
      match s.proofFault p t.rowNext true bad with
      | some (kind, vec) =>
        ((s.clearFlaws p).modXfer c id fun t => { t with failed := some (kind, vec), wrCell := 0 }).failTile p c id m v a.u kind vec
      | none => s.issueUnit p c id m v a

/-- The values of a Map or Complex unit are in (R171): a stream that is not split drains them; a member checks its own partials and keeps them, and
member 0 drains the sum once every member has. -/
def State.closeMap (s : State) (p c id m : Nat) (v : View) (kinds : List RowKind) (codes : List Nat) (cur : Cursor) (hi : Nat) (last : Bool) :
    State × Bool :=
  match s.xferOf c id with
  | none => (s, false)
  | some (x, t) =>
    let acc := if t.acc = [] then v.zeroAcc else t.acc
    let bad := v.badVector kinds t.rowNext hi acc
    let part := fun a => (⟨v.mapUnit t m t.rowNext hi a codes, codes, cur, hi, last⟩ : UnitPart)
    let key := partialKey m t.rowNext
    if x.g = 1 then s.closeUnit p c id m v (part acc) bad
    else if t.failed.isSome then s.closeUnit p c id m v (part acc) none
    else match s.proofFault p t.rowNext false bad with
    | some (kind, _) =>
      if x.idx = 0 then s.closeUnit p c id m v (part acc) bad else ((s.clearFlaws p).raiseProof p c kind, false)
    | none =>
      let s := s.modXfer c id fun t => { t with partials := Tbl.put key acc t.partials }
      if x.idx ≠ 0 then (s.partDone c id cur hi last, true)
      else match s.gather c x.g id key with
      | some ps => s.closeUnit p c id m v (part (joinMembers v kinds ps)) none
      | none => (s, false)

/-- Compute and issue the vectors of Map or Complex unit `m` up to `hi`, with the scale codes of its rows from the next one on. -/
def State.drainMap (s : State) (p c id m : Nat) (v : View) (codes : List Nat) (cur : Cursor) (hi : Nat) (last : Bool) : State × Bool :=
  match s.xferOf c id with
  | none => (s, false)
  | some (x, t) =>
    let kinds := if v.rs.consumes then List.replicate t.rowNext .plain ++ codes.map fun c => rowKind (some c) else []
    match State.chunksOf p c id m v kinds (x.chunks v.rs.x.kch) s with
    | (s, .yes) => s.closeMap p c id m v kinds codes cur hi last
    | (s, .wait) => (s, false)
    | (s, .fail r h) => (s.sizeHalt p r h, false)
    | (s, .bad) => (s.loseUnit c id m v cur, true)

/-- Some cell of scale block `b` was answered other than `OK`. -/
def Transfer.blockBad (t : Transfer) (st : Tensor) (b : Nat) : Bool :=
  (st.blockNeeds b).any fun d => match Tbl.find t.cells d.place.key with | some (.bad _) => true | _ => false

/-- Compute and issue write unit `m`, or the vectors of it before a scale block that failed; false when the engine has to wait or the lane stops. [Log 35 DEDUCED] -/
def State.drainUnit (s : State) (p c id m : Nat) : State × Bool :=
  match s.xferOf c id with
  | none => (s, false)
  | some (x, t) =>
    match s.view x t with
    | none => (s, false)
    | some v =>
      let lo := t.rowNext
      if x.idx ≠ 0 ∧ !v.rs.x.arith then (s.unitDone c id, true)
      else if !v.listsIn m then (s, false)
      else if !v.rs.x.arith then
        match s.unitReady p c id m (v.usesOf m ++ presentNeeds (v.scaleNeeds m)) with
        | (s, .wait) => (s, false)
        | (s, .fail r h) => (s.sizeHalt p r h, false)
        | (s, .bad) => (s.loseUnit c id m v x.cursor, true)
        | (s, .yes) =>
          match s.closeUnit p c id m v ⟨if v.rs.byteMode then v.byteUnit t m else v.passUnit t m, [], x.cursor, 0, true⟩ none with
          | (s, true) => (s.tallyVectors c id [(activityClass v.rd.d.fmt, v.passIssues m)], true)
          | r => r
      else match v.rowsOf t m lo (v.vectors - lo) x.cursor, v.scale with
      | .codes l k, _ => s.drainMap p c id m v l k v.vectors true
      | .need b, some st => if t.blockBad st b then (s.loseUnit c id m v x.cursor, true) else ((s.askNeeds p c id (st.blockNeeds b)).1, false)
      | .need _, none => (s, false)
      | .skew row r _, _ =>
        if row = lo then (s.skewHalt p r, false)
        else match v.rowsOf t m lo (row - lo) x.cursor with
        | .codes l k => s.drainMap p c id m v l k row false
        | _ => (s, false)

/-! ### One transfer -/

/-- Compute and issue the units that are left; `fuel` bounds them. -/
def State.drainUnits (p c id : Nat) : Nat → State → State × Bool
  | 0, s => (s, false)
  | f + 1, s =>
    match s.xferOf c id with
    | none => (s, false)
    | some (_, t) =>
      if t.wrNext ≥ t.wrUnits then (s, true)
      else if !s.mayIssue p then (s, false)
      else match s.drainUnit p c id t.wrNext with
      | (s, true) => State.drainUnits p c id f s
      | (s, false) => (s, false)

/-- Every cell an in-place transform reads is in before it writes (R70). -/
def Transfer.allIn (t : Transfer) : Bool := t.rdDone && t.cells.all fun e => decide (e.2 ≠ .waiting)

/-- The partly filled scale block of a transfer cannot leave while the link is down. -/
def State.blockWaits (s : State) (c id : Nat) : Bool :=
  ((s.xferOf c id).map fun e => e.2.rs.produces && decide (e.2.codes ≠ [])).getD false && !s.link.up

/-- The last write of a transfer has been issued: the partly filled scale block is closed (R182), the descriptor may end (R100, R107),
the transfer may be complete, and its phase has had a `DRAIN` (R302). A descriptor does not end while the lane stops (Table STREAM-12). -/
def State.finishDrain (s : State) (p c id : Nat) : State :=
  let s := match s.xferOf c id with
    | some (_, t) => match t.rs.scale with
      | some k => if k.use = 2 then match s.tensor k.handle with
        | some st => s.sendScaleBlock p c id st (if k.width = 1 then 1 else 0)
        | none => s else s
      | none => s
    | none => s
  let s := match s.xferOf c id with
    | some (_, t) => s.drainOcc c id t.rs.phase
    | none => s
  let s := s.modXfer c id fun t => { t with wrIssued := true }
  let s := s.popInsn p c
  let s := s.checkComplete p c id
  s.endExpired p c

/-- The fetch engine has carried the transfer's `EMIT` to its end (R110). -/
def State.readsDone (s : State) (c id : Nat) : Bool := ((s.xferOf c id).map fun e => e.2.rdDone).getD true

/-- The execute engine carries out a `DRAIN` as far as it gets. [Log 34 DEDUCED] -/
def State.goDrain (s : State) (p c id : Nat) : State :=
  match s.xferOf c id with
  | none => s
  | some (x, t) =>
    if x.awaitsFit || (t.inPlace && !t.allIn) then s
    else
      let s := s.modLane p fun l => { l with xst := if l.xst ≤ 3 then 2 else l.xst }
      let s := if t.wrNext = 0 then s.modXfer c id fun t => { t with snap := { t.snap with
          scaleBlock := x.scaleBlock, scaleSlot := x.scaleSlot, scaleRow := x.scaleRow, prodBlock := x.prodBlock } } else s
      match State.drainUnits p c id (t.wrUnits + 1) s with
      | (s, true) => if s.blockWaits c id || !s.readsDone c id then s else s.finishDrain p c id
      | (s, false) => s

/-- `DRAIN` (R89, R100): carried out as far as the engine gets; a later `DRAIN` of the same lane goes on with it. -/
def drainInsn (p : Nat) (s : State) : State :=
  let s := s.ageRequests p
  match s.execHead p with
  | some (c, _, q) => if q.i = .drain ∧ !(s.lane p).holding then s.goDrain p c q.xfer else s
  | none => s

/-- `DRAIN`. [Log 19 DESIGN CHOICE] -/
def execDrain (lane : Fin 10) (s : State) : Out := running s (drainInsn lane.val)

/-! ### The other instructions of the execute engine -/

/-- The execute engine performs an instruction that changes only its run state (R82, R97, R98). -/
def stateInsn (p : Nat) (is : FInsn → Bool) (s : State) : State :=
  match s.execHead p with
  | some (c, x, q) =>
    if is q.i && !(s.lane p).holding && !x.awaitsFit then (s.setStream c { x with xrs := x.xrs.apply q.i }).popInsn p c else s
  | none => s

/-- `XFORM` (R68): performed by the fetch engine, which passes it on, and by the execute engine. -/
def execXform (lane : Fin 10) (eng : Engine) (s : State) : Out :=
  let is : FInsn → Bool := fun i => match i with | .xform _ => true | _ => false
  running s (match eng with | .fetch => fetchInsn lane.val is | .execute => stateInsn lane.val is)

/-- `SCALE` (R162, R175): performed by both engines. -/
def execScale (lane : Fin 10) (eng : Engine) (s : State) : Out :=
  let is : FInsn → Bool := fun i => match i with | .scale _ => true | _ => false
  running s (match eng with | .fetch => fetchInsn lane.val is | .execute => stateInsn lane.val is)

/-- `SWAP` (R126): side 0 is the fetch engine's, side 1 the execute engine's. -/
def execSwap (lane : Fin 10) (eng : Engine) (s : State) : Out :=
  running s (match eng with
    | .fetch => fetchInsn lane.val fun i => match i with | .swap false _ => true | _ => false
    | .execute => stateInsn lane.val fun i => match i with | .swap true _ => true | _ => false)

/-- `DEADLINE` (R97): the execute engine's. -/
def execDeadline (lane : Fin 10) (s : State) : Out := running s (stateInsn lane.val fun i => match i with | .deadline _ => true | _ => false)

/-- `PHASE` (R98): performed by both engines. -/
def execPhase (lane : Fin 10) (eng : Engine) (s : State) : Out :=
  let is : FInsn → Bool := fun i => match i with | .phase _ => true | _ => false
  running s (match eng with | .fetch => fetchInsn lane.val is | .execute => stateInsn lane.val is)

/-- Entries of the event-out crossing (Table ARCH-6). -/
def evOutRoom : Nat := 32

/-- The command in hand abandons the stream of member `c`: no Pennant of its run is posted (R260). -/
def State.abandoning (s : State) (c : Nat) (x : Stream) : Bool :=
  match s.ctl.hand with
  | some (.waiting _ _ (.abandon a)) => decide (a = c - x.idx)
  | _ => false

/-- The execute engine meets a `POST` (R34, R95, R107, R227): it posts once every earlier write of the run has completed, the descriptors
before its own are gone, and the event-out crossing has room; only member 0 of a split stream posts (R171). -/
def postInsn (p : Nat) (s : State) : State :=
  match s.execHead p with
  | some (c, x, q) =>
    match q.i with
    | .post ev line hal add =>
      let first := decide ((s.lane p).queue.head? = (s.lane p).execEntry)
      if (s.lane p).holding || !first || x.writesOpen || s.abandoning c x || (ev && x.idx = 0 && decide (s.hal.evOutQ.length ≥ evOutRoom)) then s
      else if x.idx ≠ 0 then s.popInsn p c
      else
        let s := (s.postOrder c hal).halAdd hal add false
        let s := if ev then { s with hal := { s.hal with evOutQ := s.hal.evOutQ ++ [BitVec.ofNat 6 line] } } else s
        s.popInsn p c
    | _ => s
  | none => s

/-- `POST`. -/
def execPost (lane : Fin 10) (s : State) : Out := running s (postInsn lane.val)

end Sys2Proof.Machine
end

