-- ==== Sys2Proof/Machine/Tl64.lean ====
section
/-! DEFINITION. TL-64 streams on a compatibility lane (R121-R123, Tables STREAM-8, STREAM-9). -/
namespace Sys2Proof.Machine

/-! ### The checks of a bind (Table STREAM-9) -/

/-- The reserved fields of a descriptor are zero and `OP` and `FMT` hold assigned values. -/
def tlReservedOk (ws : List Word) : Bool :=
  decide (bits (dword ws 1) 31 28 ≤ 2) && decide (bits (dword ws 1) 27 26 ≤ 2) && decide (bits (dword ws 1) 25 20 = 0) &&
    decide (bits (dword ws 3) 31 20 = 0) && decide (bits (dword ws 7) 15 15 = 0)

/-- The status of one descriptor after the lane test, with the count of Halyards of the build. -/
def tlCheck (halyards : Nat) (ws : List Word) : Nat :=
  let d := Tl.of ws
  if !tlReservedOk ws then 2
  else if d.op = 1 ∧ (d.fmt = 0 ∨ d.lines % 64 ≠ 0 ∨ d.llen % (64 * d.esz) ≠ 0) then 2
  else if d.op = 1 ∧ (d.src % 64 ≠ 0 ∨ d.dst % 64 ≠ 0 ∨ d.sstride % 64 ≠ 0 ∨ d.dstride % 64 ≠ 0) then 4
  else if d.hal ≥ halyards then 3
  else 0

/-- The rows of Table STREAM-9, each over the whole array before the next: the first status that some descriptor gives. -/
def tlChecks (halyards : Nat) (ds : List (List Word)) : Nat :=
  let sts := ds.map (tlCheck halyards)
  ((([2, 4, 3] : List Nat).find? fun k => sts.contains k)).getD 0

/-! ### Reads -/

/-- The source cells of line `l`. -/
def Tl.sources (d : Tl) (l : Nat) : List Nat :=
  ((d.pieces l).flatMap fun q => match q.src with
    | some a => (spanCells a q.len).map fun c => c % 2 ^ 52
    | none => []).eraseDups

/-- The line after the last of the batch that begins at line `l`, with `b` input buffers (R122): a buffer holds 64 units of up to 4 KiB (Table
STREAM-2), and a batch at least one line; a fill reads nothing. [Log 45 DEDUCED] -/
def Tl.batchEnd (d : Tl) (b l : Nat) : Nat :=
  if d.op = 2 then d.lines else min d.lines (l + max 1 (64 * b / ceilDiv d.llen 4096))

/-- Ask for the cells of the lines of a batch that are left; `fuel` bounds them. -/
def State.tlFetch (p c id : Nat) (d : Tl) (stop : Nat) : Nat → State → State
  | 0, s => s
  | f + 1, s =>
    match s.xferOf c id with
    | none => s
    | some (_, t) =>
      if t.rdNext ≥ stop then s
      else
        let l := t.missing ((d.sources t.rdNext).map fun a => ⟨.host a, none⟩)
        match State.fetchNeeds p c id l.length l s with
        | (s, true) => State.tlFetch p c id d stop f (s.modXfer c id fun t => { t with rdNext := t.rdNext + 1 })
        | (s, false) => s

/-! ### Writes -/

/-- The byte at host address `a` among the cells read. -/
def Transfer.byteAt (t : Transfer) (a : Nat) : Byte := nth 0 (t.cellBytes (.host (a / 64 * 64))) (a % 64)

/-- One destination cell of a piece: its address, bytes and byte enables. -/
def Tl.cellOut (d : Tl) (t : Transfer) (c : Nat) (q : Piece) : Nat × List Byte × BitVec 64 :=
  let byte := fun i => if c + i < q.dst ∨ c + i ≥ q.dst + q.len then (0#8, false)
    else match q.src with
      | some a => (t.byteAt ((a + (c + i - q.dst)) % 2 ^ 52), true)
      | none => (d.fillByte (c + i - q.dst), true)
  let bs := (List.range 64).map byte
  (c % 2 ^ 52, bs.map (·.1), maskOf (bs.map (·.2)))

/-- Issue the destination cells of a line that are left. -/
def State.tlStore (p c id : Nat) : List (Nat × List Byte × BitVec 64) → State → State × Bool
  | [], s => (s, true)
  | (a, b, be) :: rest, s =>
    match s.storeAt p c id (.host a) b be false (crc32c b) with
    | (s, true) => State.tlStore p c id rest (s.modXfer c id fun t => { t with wrCell := t.wrCell + 1 })
    | (s, false) => (s, false)

/-- A source cell of a line was answered other than `OK`: the line issues no write. -/
def Transfer.lineBad (t : Transfer) (d : Tl) (l : Nat) : Bool :=
  (d.sources l).any fun a => match Tbl.find t.cells (Place.host a).key with | some (.data ..) => false | _ => true

/-- Write the lines of a batch that are left; `fuel` bounds them. [Log 45 DEDUCED] -/
def State.tlWrite (p c id : Nat) (d : Tl) (stop : Nat) : Nat → State → State
  | 0, s => s
  | f + 1, s =>
    match s.xferOf c id with
    | none => s
    | some (_, t) =>
      if t.wrNext ≥ stop ∨ !s.mayIssue p then s
      else
        let bad := t.lineBad d t.wrNext
        let lost := if bad then (d.cells t.wrNext).length else 0
        let cells := if bad then [] else ((d.cells t.wrNext).map fun e => d.cellOut t e.1 e.2).drop t.wrCell
        match State.tlStore p c id cells s with
        | (s, true) => State.tlWrite p c id d stop f (s.modXfer c id fun t => { t with
            wrNext := t.wrNext + 1, wrCell := 0, lost := t.lost + lost })
        | (s, false) => s

/-! ### The descriptor -/

/-- The stream's next descriptor begins as a transfer. [Log 45 DEDUCED] -/
def State.tlBegin (s : State) (p c : Nat) (x : Stream) (ws : List Word) : State :=
  let t := { Transfer.begin x.nextXfer x.rs { x.snapshot with pc := x.tlNext } s.now 0 with tl := some ws }
  (s.setStream c { x with emitting := true, xfers := [t], nextXfer := t.id + 1 }).modLane p fun l =>
    { l with xst := if l.xst ≤ 3 then 2 else l.xst }

/-- Every write of the descriptor has completed (R122): its Pennant is posted, and the stream stands at the next descriptor, where an
expired quantum ends. [Log 45 DEDUCED] -/
def State.tlPost (s : State) (p c : Nat) (x : Stream) (d : Tl) : State :=
  let l := s.lane p
  if l.holding || decide (l.queue.head? ≠ l.execEntry) || s.abandoning c x then s
  else
    let s := if d.add ≠ 0 then s.halAdd d.hal d.add false else s
    let s := s.modStream c fun x => { x with emitting := false, tlNext := x.tlNext + 1 }
    s.endExpired p c

/-- The lane reads the descriptor of transfer `t` from its place in the array (R121, R130), through translation, before it carries it out; answers
whether it is in. [Log 45 DEDUCED] -/
def State.tlRead (s : State) (p c : Nat) (x : Stream) (t : Transfer) (array : Nat) : State × Bool :=
  let a := array + 32 * x.tlNext
  let pl := Place.host (a / 64 * 64)
  match Tbl.find t.lists pl.key with
  | some (.data b _) => (s.modXfer c t.id fun t => { t with tl := some (wordsOf 8 (slice b (a % 64) 32)) }, true)
  | some _ => (s, false)
  | none => (if (s.lane p).fetching then s.askList p c t.id pl false else s, false)

/-- A batch goes on: its reads while the fetch engine may begin work, its writes once every cell asked for is in; the next batch begins
when the last write of this one has completed. -/
def State.tlGo (s : State) (p c : Nat) (b : Nat) (t : Transfer) (d : Tl) : State :=
  let fresh := decide (t.wrNext > t.unit0) && decide (t.wrNext ≥ d.batchEnd b t.unit0)
  if fresh && (decide (t.outstanding ≠ 0) || decide (t.err ≠ none) || !(s.lane p).fetching) then s
  else
    let t := if fresh then { t with unit0 := t.wrNext, cells := [] } else t
    let stop := d.batchEnd b t.unit0
    let s := s.modXfer c t.id fun _ => t
    let s := State.tlFetch p c t.id d stop (stop - t.rdNext + 1) s
    match s.xferOf c t.id with
    | none => s
    | some (_, t) =>
      if t.rdNext < stop ∨ t.cells.any (fun e => decide (e.2 = .waiting)) then s
      else
        let s := State.tlWrite p c t.id d stop (stop - t.wrNext + 1) s
        match s.xferOf c t.id with
        | none => s
        | some (_, t) =>
          if t.wrNext < d.lines then s
          else ((s.modStream c fun x => { x with tlDone := t.tl }).modXfer c t.id fun t => { t with rdDone := true, wrIssued := true }).checkComplete p c t.id

/-- The open transfer of a TL-64 stream goes on: its descriptor is read, then carried out. -/
def State.tlStep (s : State) (p c : Nat) (x : Stream) (t : Transfer) (array : Nat) : State :=
  match s.tlRead p c x t array with
  | (s, false) => s
  | (s, true) =>
    match (s.xferOf c t.id).map (·.2) with
    | some t => s.tlGo p c x.depth t (Tl.of (t.tl.getD []))
    | none => s

/-- The lane carries out the descriptor of its TL-64 stream as far as it gets. [Log 45 DEDUCED] -/
def tl64 (p : Nat) (s : State) : State :=
  let s := s.ageRequests p
  match s.execStream p with
  | none => s
  | some (c, x) =>
    match x.tl with
    | none => s
    | some (array, ds) =>
      if x.st ≠ .active ∨ (s.lane p).holding then s
      else match x.xfers, ds[x.tlNext]? with
      | t :: _, some _ => if t.wrIssued then s else s.tlStep p c x t array
      | [], some ws =>
        if x.emitting then s.tlPost p c x (Tl.of (x.tlDone.getD ws))
        else if (s.lane p).fetching then
          let s := s.tlBegin p c x ws
          match (s.stream c).bind fun x => x.xfers.head? with
          | some t => s.tlStep p c x t array
          | none => s
        else s
      | _, none => s

/-- `TL64_DESCRIPTOR` (R121-R123). -/
def execTl64Descriptor (lane : Fin 10) (s : State) : Out := running s (tl64 lane.val)

end Sys2Proof.Machine
end

