-- ==== Sys2Proof/Machine/LaneEvents.lean ====
section
/-! DEFINITION. The life of a run and of a lane (R75, R101-R104, R107, R118-R120, R127-R129, R133, R134, R138, R139, R184, R232, R239,
R258-R263, R334, R409): records, the start and end of runs, descriptors, drains and holds, lane reports, timers of streams. -/
namespace Sys2Proof.Machine

/-! ### Split streams -/

/-- The contexts of the stream whose member 0 is context `c` (R171, R259). -/
def State.group (s : State) (c : Nat) : List Nat :=
  match s.stream c with
  | some x => c :: (List.range (x.g - 1)).map (c + 1 + ·)
  | none => []

/-- Change every member of a stream. -/
def State.modGroup (s : State) (c : Nat) (f : Stream → Stream) : State := (s.group c).foldl (fun s d => s.modStream d f) s

/-- The logical lane's physical lane, of a stream. -/
def State.laneOf (s : State) (c : Nat) : Option Nat := (s.stream c).bind fun x => s.physOf x.lane

/-- Some member of the stream is Held. -/
def State.heldGroup (s : State) (c : Nat) : Bool := (s.group c).any fun d => ((s.stream d).map fun x : Stream => decide (x.st = .held)).getD false

/-! ### The stream record (R262, Table CTRL-21) -/

/-- The number of a stream state in word 0 of the record. -/
def SState.code : SState → Nat
  | .bound => 0 | .queued => 1 | .active => 2 | .parked => 3 | .held => 4

/-- Count `k` of a stream: runs and transfers are member 0's, the rest add up over the members. -/
def State.groupStat (s : State) (c k : Nat) : Nat :=
  match s.stream c with
  | some x => if k ≤ 2 then x.stat k else min ((s.group c).foldl (fun n d => n + ((s.stream d).map fun y : Stream => y.stat k).getD 0) 0) (2 ^ 32 - 1)
  | none => 0

/-- The 192 bytes of the record of the stream whose member 0 is `c`; `state` replaces the state code at the last write (R260). [Logs 33, 43 DEDUCED] -/
def State.recordBytes (s : State) (c : Nat) (x : Stream) (state : Nat) (pos : List Nat) : List Byte :=
  let w0 := c % 65536 + state * 65536 + (if x.paused then 2 ^ 23 else 0) + x.epoch.toNat * 2 ^ 24
  let ws : List Nat := (w0 :: ((List.range 27).map fun k => s.groupStat c (k + 1))) ++ [0, 0, 0, 0] ++ pos
  let b := ws.flatMap fun w => toBytes w 4
  b ++ toBytes (crc32c b) 4

/-- A `FAULT` entry for one stream that is clean. -/
def State.oneStream (s : State) (c : Nat) : List (Nat × Nat × Bool) :=
  match s.stream c with
  | some x => [(c, x.epoch.toNat, x.inError)]
  | none => []

/-- Write the record of a stream (R262); a write that fails gives a `FAULT` reply of cause 9. `pos` are the position words. -/
def State.putRecord (s : State) (h : HostView) (c : Nat) (state : Option Nat) (pos : Stream → List Nat) : State :=
  match s.stream c with
  | none => s
  | some x =>
    let b := s.recordBytes c x (state.getD ((if s.heldGroup c then SState.held else x.st).code)) (pos x)
    let s' := (s.modGroup c fun y => { y with statsSent := y.stats }).setStream c { x with savedPos := pos x, statsSent := x.stats, owed := false }
    if (hostBad s.build.cfg.ports h x.recAddr 192).isSome then s'.faultReply ⟨9, x.lane, 0, 0, x.recAddr % 2 ^ 32, x.recAddr / 2 ^ 32, s.oneStream c⟩
    else s'.fwWrite x.recAddr b

/-- The record at an event: with the position as it stands. [Log 64 DESIGN CHOICE] -/
def State.record (s : State) (h : HostView) (c : Nat) : State := s.putRecord h c none Stream.positionWords

/-- The record of the stream a context belongs to. -/
def State.recordOf (s : State) (h : HostView) (c : Nat) : State :=
  match s.stream c with
  | some x => s.record h (c - x.idx)
  | none => s

/-- Firmware writes the records that are due: those of events in rows that bring no view of host memory. [Log 64 DESIGN CHOICE] -/
def State.payRecords (s : State) (h : HostView) : State :=
  ((s.fw.streams.filter fun e => e.2.owed && decide (e.2.idx = 0)).map (·.1)).foldl (fun s c => s.record h c) s

/-- A count of some member of the stream has changed since its record. -/
def State.countsChanged (s : State) (c : Nat) : Bool :=
  (s.group c).any fun d => ((s.stream d).map fun y : Stream => decide (y.stats ≠ y.statsSent)).getD false

/-- `STREAM_RECORD_TIMER` (R262): every 1 ms the record of each Active stream a count of which has changed, with the last saved
position; and the records that are due. -/
def execStreamRecordTimer (h : HostView) (s : State) : Out :=
  running s fun s =>
    if !s.ctl.fwReady then s
    else ((s.payRecords h).fw.streams.map (·.1)).foldl (fun s c => match s.stream c with
      | some x => if x.idx = 0 && decide (x.st = .active) && s.countsChanged c then s.putRecord h c none Stream.savedPos else s
      | none => s) (s.payRecords h)

/-! ### Runs -/

/-- The state of a stream at the start of a run (R85, R182, R184, R188, R407): cursors and epoch stay. -/
def Stream.newRun (x : Stream) : Stream :=
  { x with
    heldBy := [], inError := false, denied := false, armed := true, fpc := 0, reps := [], rs := .start, xrs := .start, emitting := false
    fetchEnd := false, xq := [], xfers := [], pending := [], wide := false, scaleSlot := 0, scaleBlock := 0, scaleRow := 0, fetchCur := ⟨0, 0, 0⟩, bufs := []
    prodBlock := 0, units := 0
    regrant := 0, undone := [], tlNext := 0, tlDone := none }

/-- The other members of a split stream have ended their run. [Log 42 DEDUCED] -/
def State.othersEnded (s : State) (c : Nat) (x : Stream) : Bool :=
  x.idx ≠ 0 || ((s.group c).drop 1).all fun d => ((s.stream d).map fun y : Stream => decide (y.st ≠ .active)).getD true

/-- The run of a stream ends (R102, R104): it parks, or completes and releases its reservation; its descriptor ends. -/
def State.endRun (s : State) (h : HostView) (p c : Nat) (park : Bool) : State :=
  let s := s.modStream c fun x =>
    let x := if x.idx = 0 then x.count 1 1 else x
    { x with st := if park then .parked else .bound, xq := [], reserve := if park then x.reserve else [] }
  let s := s.endDescriptor p c
  match s.stream c with
  | some x => if x.idx = 0 then s.record h c else s
  | none => s

/-- The execute engine meets `END` (R102, R104, R107): it waits until every write of the run has completed. A TL-64 stream ends its run
once its last descriptor is done (R121). -/
def endInsn (h : HostView) (p : Nat) (s : State) : State :=
  match s.execStream p with
  | none => s
  | some (c, x) =>
    if (s.lane p).holding || decide (x.st ≠ .active) || decide (x.xfers ≠ []) then s
    else match x.tl with
    | some (_, ds) => if x.tlNext ≥ ds.length && !x.emitting then s.endRun h p c false else s
    | none => match x.xq with
      | q :: _ => match q.i with
        | .endRun park => if s.othersEnded c x then s.endRun h p c park else s
        | _ => s
      | [] => s

/-- `END` (R102, R104): the fetch engine passes it on and goes no further; the execute engine ends the run. [Log 42 DEDUCED] -/
def execEndRun (lane : Fin 10) (eng : Engine) (h : HostView) (s : State) : Out :=
  running s (match eng with
    | .fetch => fetchInsn lane.val fun i => match i with | .endRun _ => true | _ => false
    | .execute => endInsn h lane.val)

/-! ### Admission (R75, R232) -/

/-- The positions a stream takes: firmware's choice when it names free positions, else the lowest free ones. -/
def State.reservePlaces (s : State) (place : List Nat) (n : Nat) : Option (List Nat) :=
  let free := s.freePositions
  if free.length < n then none
  else if place.length = n ∧ place.eraseDups = place ∧ place.all (free.contains ·) then some place
  else some (free.take n)

/-- The stream at the head of the admission queue takes its reservation and becomes Active. [Log 46 DEDUCED] -/
def State.admitHead (s : State) (place : List Nat) : State :=
  match s.fw.admitQ with
  | [] => s
  | c :: rest =>
    match s.stream c with
    | none => { s with fw := { s.fw with admitQ := rest } }
    | some x =>
      match s.reservePlaces place (x.g * x.depth) with
      | none => s
      | some l =>
        let s := { s with fw := { s.fw with admitQ := rest } }
        (List.range x.g).foldl (fun s i =>
          let s := s.modStream (c + i) fun y => { y with reserve := (l.drop (i * x.depth)).take x.depth, st := .active }
          match s.stream (c + i) with
          | some y => if y.runnable then s.makeRunnable (c + i) else s
          | none => s) s

/-- `STREAM_ADMISSION` (R232): firmware admits the stream at the head of the admission queue once its buffers are free. -/
def execStreamAdmission (place : List Nat) (s : State) : Out := running s fun s => if s.ctl.fwReady then s.admitHead place else s

/-! ### Descriptors (R107, R340) -/

/-- The first descriptor of a lane's queue that it has not begun. -/
def Lane.nextEntry (l : Lane) : Option DescEntry := l.queue.find? fun e => !e.begun

/-- Mark the first unbegun descriptor as begun. -/
def beginFirst : List DescEntry → List DescEntry
  | [] => []
  | e :: t => if e.begun then e :: beginFirst t else { e with begun := true } :: t

/-- The lane's checks of a descriptor (R340): the CRC of the message, and the two copies of the derived fields. -/
def DescEntry.sound (e : DescEntry) : Bool := decide (crc32c (bytesOfWords e.mail) = e.crc) && decide (e.derived = e.copy)

/-- The first descriptor that a lane has not begun is damaged. -/
def spoilFirst : List DescEntry → List DescEntry
  | [] => []
  | e :: t => if e.begun then e :: spoilFirst t else { e with crc := e.crc ^^^ 1 } :: t

/-- A descriptor that fails its check is not taken (R340): kind 28. -/
def State.refuseDescriptor (s : State) (p : Nat) (e : DescEntry) : State :=
  (s.modLane p fun l => { l with queue := l.queue.erase e }).raise ⟨0, p, 28, ((s.stream e.sctx).map (formatP e.sctx)).getD 0⟩

/-- `LANE_DESCRIPTOR` (R107, R261, R340): the lane takes its next descriptor once the fetch engine has issued the last read of the one before,
and checks it. -/
def laneDescriptor (p : Nat) (s : State) : State :=
  let l := s.lane p
  match l.nextEntry with
  | none => s
  | some e =>
    if !l.fetching || (s.fetchEntry p).isSome || l.queue.any (fun d => decide (d.sctx = e.sctx) && d.begun && !d.ended) then s
    else if !e.sound then s.refuseDescriptor p e
    else ((s.setLane p { l with queue := beginFirst l.queue, used := true }).restartOccs e.sctx).passOn p

/-- `LANE_DESCRIPTOR`. -/
def execLaneDescriptor (lane : Fin 10) (s : State) : Out := running s (laneDescriptor lane.val)

/-- `QUANTUM_EXPIRY` (R107, R129, R233, R261): the descriptor that runs ends at the next transfer boundary; at once when the stream
stands at one. [Log 47 DEDUCED] -/
def quantumExpiry (p : Nat) (s : State) : State :=
  let l := s.lane p
  match l.execEntry with
  | none => s
  | some e =>
    let s := s.setLane p { l with queue := l.queue.map fun d => if d.sctx = e.sctx ∧ d.begun ∧ !d.ended then { d with expired := true } else d }
    match s.stream e.sctx with
    | some x => if l.stops = [] ∧ x.headXfer.isNone ∧ !x.emitting then s.endDescriptor p e.sctx else s
    | none => s

/-- `QUANTUM_EXPIRY`. [Log 47 DEDUCED] -/
def execQuantumExpiry (lane : Fin 10) (s : State) : Out := running s (quantumExpiry lane.val)

/-! ### Holds (R118, R119, R127, R133, R334) -/

/-- The held reason a stop gives its streams; none for a pause. -/
def Stop.heldBy : Stop → Option HeldBy
  | .error => some .error
  | .page _ => some .page
  | .halt b => some b
  | .safe => some .safe
  | _ => none

/-- `XST` of a lane that holds for `stops` (Tables STREAM-5, STREAM-12); `old` is the error status of an error hold. -/
def holdXst (stops : List Stop) (old : Nat) : Nat :=
  if stops.contains .error then (if old = 7 then 7 else 6)
  else if stops.any fun x => match x with | .halt _ => true | .safe => true | _ => false then 8
  else if stops.any fun x => match x with | .page _ => true | _ => false then 5
  else if stops = [] then 0 else 4

/-- The execute engine carries out its next instruction, `END` excepted (R118, R408). [Log 13 DESIGN CHOICE] -/
def execOne (p : Nat) (s : State) : State :=
  match s.execHead p with
  | none => s
  | some (_, _, q) => match q.i with
    | .drain => drainInsn p s
    | .post .. => postInsn p s
    | .endRun _ => s
    | _ => stateInsn p (fun _ => true) s

/-- The execute engine goes on until it can do no more; `fuel` bounds the instructions. -/
def runDry (p : Nat) : Nat → State → State
  | 0, s => s
  | n + 1, s =>
    match s.execHead p with
    | none => s
    | some (c, x, _) =>
      let t := execOne p s
      match t.stream c with
      | some y => if y.xq = x.xq then t else runDry p n t
      | none => t

/-- The streams whose transfers a lane's stop concerns (R118, R409): those of its queue, and those of its logical lane with a transfer in
error. -/
def State.laneStreams (s : State) (p : Nat) : List Nat :=
  let own := ((s.lane p).queue.map fun e : DescEntry => e.sctx).eraseDups
  let late := (s.fw.streams.filter fun (e : Nat × Stream) => decide (s.physOf e.2.lane = some p) && !own.contains e.1 &&
    e.2.xfers.any fun t => decide (t.err ≠ none)).map (·.1)
  own ++ late

/-- The last response of the lane is in (R118 step 3): no port request, coded block, walk, weight load or peer request of its own waits. -/
def State.laneQuiet (s : State) (p : Nat) : Bool :=
  let l := s.lane p
  l.walk.isNone && l.loading.isNone &&
    (s.ports.all fun e => (e.2.reads.all fun r => r.2.parts.all fun x => !(x.owner.ofLane p)) && (e.2.waitR.all fun x => !(x.owner.ofLane p)) &&
      (e.2.writes.all fun w => w.2.cells.all fun x => !(x.owner.ofLane p)) && (e.2.waitW.all fun x => !(x.owner.ofLane p)) &&
      (e.2.expand.all fun j => decide (j.phys ≠ p)) && (e.2.compress.all fun j => decide (j.phys ≠ p))) &&
    (s.link.reads.all fun r => decide (r.2.owner.phys ≠ p)) &&
    ((s.laneStreams p).all fun c => ((s.stream c).map fun x : Stream => x.xfers.all fun t => decide (t.outstanding = 0)).getD true)

/-- In the safe state a transfer that had begun, issued a write and did not complete ends in error (R334). -/
def Stream.safeErrors (x : Stream) : Stream :=
  { x with xfers := x.xfers.map fun t => if t.wrBegun && !t.complete then { t with err := some (t.err.getD .fail) } else t }

/-- A stop ends the skew timer (R238), and a transfer that has no grant, or whose members have all gone (Table SYNC-9), becomes ready anew. -/
def Transfer.regroup (t : Transfer) : Transfer :=
  if t.granted ∧ t.party ≠ some [] then { t with skewFrom := none } else { t with skewFrom := none, granted := false, party := none }

/-- A stream is Held (R119, R334): a stream with a transfer in error has its position restored from the snapshot of the oldest transfer
that is in error or has writes not complete; any other is exact. Cells of a coded block that failed a check are read again. -/
def Stream.hold (x : Stream) (bs : List HeldBy) : Stream :=
  let bad := x.xfers.any fun t => decide (t.err ≠ none)
  let denied := x.xfers.any fun t => decide (t.err ≠ none) && t.inPlace && t.wrBegun
  let x := { x with xfers := x.xfers.map Transfer.regroup }
  if bs = [] then x
  else
    let y := { x with st := .held, heldBy := (x.heldBy ++ bs).eraseDups, inError := x.inError || bad, denied := x.denied || denied }
    if bad then
      match x.xfers.find? fun t => !t.complete with
      | some t => y.restore t
      | none => y
    else y

/-- A stream is remote-end (R283): its program makes it so, or, once base slots are substituted, its last re-arm did. -/
def State.remoteEnd (s : State) (x : Stream) : Bool := if x.subst = [] then (s.progOf x).elim false Prog.remote else x.remote

/-- The remote-end streams are the ones that a peer loss holds (R283). -/
def State.holdsFor (s : State) (c : Nat) (b : HeldBy) : Bool :=
  match b with
  | .peer => (s.stream c).elim false s.remoteEnd
  | _ => true

/-- The head stream of a physical lane: of the oldest descriptor it holds. -/
def State.headStream (s : State) (p : Nat) : Option (Nat × Stream) :=
  match (s.lane p).queue with
  | e :: _ => (s.stream e.sctx).map fun x => (e.sctx, x)
  | [] => none

/-- The write-beat counter of the head transfer (R115): of the oldest whose writes have not all completed. [Log 44 DEDUCED] -/
def State.laneBeats (s : State) (p : Nat) : Nat :=
  match s.headStream p with
  | some (_, x) => match x.xfers with
    | t :: _ => s.beats x t
    | [] => 0
  | none => 0

/-- The reasons of lane `p` that it has not yet held for. -/
def Lane.freshStops (l : Lane) : List Stop := l.stops.filter fun x => !l.reported.contains x

/-- The Burgee that follows the hold of a halt: `EXPAND_SIZE` with the header of the block (R208), `SCALE_SKEW` with the position of the stream (R189). -/
def State.haltBurgee (s : State) (p : Nat) (x : Stop) : State :=
  match x, s.execStream p with
  | .halt .size, some (c, _) => (s.raise ⟨0, p, 36, formatA (s.lane p).haltAddr⟩).modStream c fun x => x.count 26 1
  | .halt .skew, some (c, y) => (s.raise ⟨0, p, 33, formatP c y⟩).modStream c fun x => x.count 17 1
  | _, _ => s

/-- A tile that failed the Proof stage and could not be written before the lane had to hold (R167): its Burgee is raised all the same. -/
def State.failLate (s : State) (p c : Nat) : State :=
  match (s.stream c).bind fun x => x.headXfer.bind fun t => t.failed.map fun f => (t.id, f.1) with
  | some (id, kind) => (s.modXfer c id fun t => { t with failed := none }).raiseProof p c kind
  | none => s

/-- The reports of a hold for the stops `fresh`, with the streams `cs` of the lane. [Log 17 DEDUCED] -/
def State.holdReports (s : State) (p : Nat) (cs : List Nat) (fresh : List Stop) : List LaneReport :=
  let l := s.lane p
  let entry := fun c => match s.stream c with | some x => [(c, x.epoch.toNat, x.inError)] | none => []
  let merged := (fresh.filter fun x => decide (x ≠ .hostPause)).filter fun x => !(fresh.contains .error && (x = .halt .skew || x = .halt .size || x = .halt .noMember)) &&
    !(fresh.contains (.halt .proof) && decide (x = .safe))
  let listed := fun x => if x = .halt .peer then cs.filter fun c => s.holdsFor c .peer else cs
  merged.map fun x => LaneReport.held x (((listed x).flatMap entry).take 4) l.resp l.reason (if x = .halt .size then l.haltAddr else l.errAddr)

/-- The lane holds: every stream takes its saved position, and its status from the stops that are new. [Log 44 DEDUCED] -/
def State.holdLane (s : State) (p : Nat) : State :=
  let cs := s.laneStreams p
  let s := cs.foldl (fun s c => s.failLate p c) s
  let l := s.lane p
  let fresh := l.freshStops
  let beats := s.laneBeats p
  let s := if fresh.contains .safe then cs.foldl (fun s c => s.modStream c Stream.safeErrors) s else s
  let bs := fresh.filterMap Stop.heldBy
  let s := cs.foldl (fun s c => s.modStream c fun x => (x.hold (bs.filter (s.holdsFor c))).savePos) s
  let s := cs.foldl (fun s c => match s.stream c with | some x => if x.st = .held then s.delist c else s | none => s) s
  let reports := s.holdReports p cs fresh
  let s := s.modLane p fun l => { l with
    draining := false, holding := true, skip := none, xst := holdXst l.stops l.xst, report := l.report ++ reports, reported := l.stops
    beats := beats }
  fresh.foldl (fun s x => s.haltBurgee p x) s

/-- `LANE_DRAIN_DONE` (R118, R127, R133): a lane that drains uses every unit whose data is in; once its last response is in, it holds. A lane that
holds already, and is to stop for a further reason, holds for that too (Table STREAM-12). -/
def laneDrainDone (p : Nat) (s : State) : State :=
  let l := s.lane p
  if l.draining then
    let s := runDry p 256 (tl64 p s)
    if (s.lane p).draining && s.laneQuiet p then s.holdLane p else s
  else if l.holding && decide (l.freshStops ≠ []) then s.holdLane p
  else s

/-- `LANE_DRAIN_DONE`. -/
def execLaneDrainDone (lane : Fin 10) (s : State) : Out := running s (laneDrainDone lane.val)

/-! ### Leaving a stop -/

/-- A lane without stop `x`: it goes on from where it stands when no other stop is left. -/
def Lane.unstop (l : Lane) (x : Stop) : Lane :=
  let stops := l.stops.filter fun y => decide (y ≠ x)
  let l := { l with stops := stops, reported := l.reported.filter fun y => decide (y ≠ x) }
  if l.holding then { l with xst := holdXst stops l.xst, holding := decide (stops ≠ []) }
  else { l with draining := l.draining && decide (stops ≠ []) }

/-- `XST` as a lane leaves its hold (Table STREAM-5): `RUN` in the middle of a transfer, else `IDLE`. [Log 44 DEDUCED] -/
def State.leaveXst (s : State) (p : Nat) : Nat :=
  if ((s.execStream p).bind fun e => e.2.headXfer).isSome then 2 else 0

/-- Remove a stop of a physical lane and fill its queue. -/
def State.unstop (s : State) (p : Nat) (x : Stop) : State :=
  let held := (s.lane p).holding
  let s := s.modLane p fun l => l.unstop x
  let xst := s.leaveXst p
  let s := if held && !(s.lane p).holding then s.modLane p fun l => { l with xst := xst } else s
  match s.logicalOf p with
  | some n => s.refill n
  | none => s

/-- A stop that lasts until the host has decided every stream (R120). -/
def Stop.decided : Stop → Bool
  | .halt b => decide (b ≠ .peer)
  | .error | .safe => true
  | _ => false

/-- The lane leaves an error hold, a halt or the safe hold when every stream it held has been resumed or abandoned (R120); it keeps no
descriptor. -/
def State.settle (s : State) (p : Nat) : State :=
  let l := s.lane p
  let bs := (l.stops.filter Stop.decided).filterMap Stop.heldBy
  if !l.holding || decide (bs = []) then s
  else if s.fw.streams.any fun (e : Nat × Stream) => decide (s.physOf e.2.lane = some p) && decide (e.2.st = .held) && e.2.heldBy.any (bs.contains ·) then s
  else (l.stops.filter Stop.decided).foldl (fun s x => s.unstop p x) (s.modLane p fun l => { l with queue := [] })

/-- Settle the lanes of a stream's members. -/
def State.settleGroup (s : State) (ps : List Nat) : State := ps.foldl State.settle s

/-- The records of streams, one for each. -/
def State.recordAll (s : State) (h : HostView) (cs : List Nat) : State := cs.foldl (fun s c => s.recordOf h c) s

/-- The lane leaves its page hold (R134): its streams Held only on the page become Active again, and their records are written (R262). -/
def State.leavePage (s : State) (h : HostView) (p : Nat) : State :=
  let l := s.lane p
  let cs := (s.fw.streams.filter fun (e : Nat × Stream) => decide (s.physOf e.2.lane = some p) && e.2.heldBy.contains .page).map (·.1)
  let s := cs.foldl (fun s c => s.modStream c fun x =>
    let hb := x.heldBy.filter fun b => decide (b ≠ .page)
    { x with heldBy := hb, st := if hb = [] then .active else .held }) s
  let s := cs.foldl (fun s c => match s.stream c with
    | some x => if x.runnable then (s.enlist c).recordOf h c else s
    | none => s) s
  (l.stops.filter fun x => match x with | .page _ => true | _ => false).foldl (fun s x => s.unstop p x) s

/-- Lane `p` stopped on a page fault of one of the streams `cs`. -/
def State.pagedBy (s : State) (p : Nat) (cs : List Nat) : Bool :=
  (s.lane p).stops.any fun x => match x with | .page f => cs.contains f.sctx | _ => false

/-! ### The host's lane pause (R127, R266) -/

/-- `LANE_PAUSE` (R127): the host sets `LANEn.CTL.PAUSE`. -/
def State.lanePause (s : State) (n : Nat) : State :=
  if n ≥ s.nLanes then s
  else
    let s := { s with ctl := { s.ctl with pause := setBit s.ctl.pause n true } }
    match s.physOf n with
    | some p => s.stopLane p .hostPause
    | none => s

/-- `LANE_PAUSE`. -/
def execLanePause (n : Fin 8) (s : State) : Out := running s fun s => s.lanePause n.val

/-- `LANE_UNPAUSE` (R127, Table STREAM-12): the host clears it. -/
def State.laneUnpause (s : State) (n : Nat) : State :=
  if n ≥ s.nLanes then s
  else
    let s := { s with ctl := { s.ctl with pause := setBit s.ctl.pause n false } }
    match s.physOf n with
    | some p => s.unstop p .hostPause
    | none => s

/-- `LANE_UNPAUSE`. -/
def execLaneUnpause (n : Fin 8) (s : State) : Out := running s fun s => s.laneUnpause n.val

/-! ### Lane reports (R119, R133, R184, R189, R208, R239, R263) -/

/-- The stream, epoch and lane word of an asynchronous reply (Table CTRL-23). -/
def whoWord (c : Nat) (x : Stream) : Nat := c % 65536 * 65536 + x.epoch.toNat * 256 + x.lane

/-- The `FAULT` cause of a stop on physical lane `p` (R329): in the safe state, 7 for the lane whose Burgee entered it, else 10. -/
def State.stopCause (s : State) (p : Nat) : Stop → Nat
  | .error => 1
  | .halt .skew => 2
  | .halt .size => 3
  | .halt .noMember => 5
  | .halt .peer => 6
  | .halt .proof => 7
  | _ =>
    let k := bits s.flt.first.toNat 53 48
    if 22 ≤ k ∧ k ≤ 31 ∧ bits s.flt.first.toNat 59 54 = p then 7 else 10

/-- The Bunting whose last member has gone, of the first stream of a halted lane: its handle and transfer count. [Log 98 DESIGN CHOICE] -/
def State.emptyBunting (s : State) (c : Nat) : Nat × Nat :=
  match (s.stream c).bind fun x => x.headXfer.map fun t => x.handleOf t.rs.wr with
  | some h => (h, ((Tbl.find s.fw.buntings h).map fun b : Bunting => b.xfers).getD 0)
  | none => (0, 0)

/-- `P2` and `P3` of the `FAULT` reply of a stop. -/
def State.stopWords (s : State) (x : Stop) (streams : List (Nat × Nat × Bool)) (addr : Nat) : Nat × Nat :=
  match x with
  | .error | .halt .size => (addr % 2 ^ 32, addr / 2 ^ 32 % 2 ^ 20)
  | .halt .noMember => match streams with
    | (c, _, _) :: _ => ((s.emptyBunting c).1 * 65536, (s.emptyBunting c).2)
    | [] => (0, 0)
  | .halt .skew | .halt .peer => (0, 0)
  | _ => (s.flt.first.toNat % 2 ^ 32, s.flt.first.toNat / 2 ^ 32)

/-- Take stream `c` off lane `p` after a drain for it alone (R128, R260). -/
def State.takeGroupOff (s : State) (p : Nat) (cs : List Nat) : State := cs.foldl (fun s c => s.takeOff p c) s

/-- A stream is Held for another reason than a page: it stays with its lane's hold. -/
def State.heldHard (s : State) (c : Nat) : Bool :=
  match s.stream c with
  | some x => decide (x.st = .held) && x.heldBy.any fun b => decide (b ≠ .page)
  | none => false

/-- Free everything a stream holds (R260): admission place, reservation, model tables, contexts. -/
def State.dropStream (s : State) (c : Nat) : State :=
  let s := s.delist c
  { s with fw := { s.fw with streams := Tbl.drop c s.fw.streams, admitQ := s.fw.admitQ.filter fun d => decide (d ≠ c) } }

/-- The held places of a stream's model tables. -/
def tableHolds (x : Stream) : List (Nat × Nat) := x.tblHeld.map (·.2)

/-- The end of a `STREAM_ABANDON` (R260): the record with state 5, then the stream is gone; its lanes settle. -/
def State.finishAbandon (s : State) (h : HostView) (c : Nat) : State :=
  let cs := s.group c
  let ps := cs.filterMap s.laneOf
  let s := s.putRecord h c (some 5) Stream.positionWords
  let s := match s.stream c with
    | some x => (tableHolds x).foldl (fun s r => s.unhold r.1 r.2) s
    | none => s
  let s := cs.foldl (fun s d => match s.laneOf d with | some p => s.takeOff p d | none => s) s
  let s := cs.foldl State.dropStream s
  let s := ps.foldl (fun s p => if s.pagedBy p cs then s.leavePage h p else s) s
  let s := s.settleGroup ps
  ps.foldl (fun s p => match s.logicalOf p with | some n => s.refill n | none => s) s

/-- Some member of stream `c` still lies in a queue of a lane that drains for the command in hand. -/
def State.stillOn (s : State) (c : Nat) : Bool :=
  (s.group c).any fun d => match s.laneOf d with
    | some p => (s.lane p).stops.contains .fwPause
    | none => false

/-- The lane has drained for `STREAM_PAUSE` or `STREAM_ABANDON` (R128, R260): the stream's member leaves it, the lane goes on, and the
command is answered once every member has left. -/
def State.fwPauseDone (s : State) (h : HostView) (p : Nat) : State :=
  match s.ctl.hand with
  | some (.waiting _ _ (.pause c)) =>
    let s := (s.takeGroupOff p ((s.group c).filter fun d => !s.heldHard d)).unstop p .fwPause
    if s.stillOn c then s
    else (s.record h c).finishHand 0 []
  | some (.waiting _ _ (.abandon c)) =>
    let s := (s.takeGroupOff p (s.group c)).unstop p .fwPause
    if s.stillOn c then s
    else (s.finishAbandon h c).finishHand 0 []
  | some (.waiting _ _ .detach) => s
  | _ => s.unstop p .fwPause

/-- Firmware starts a transfer again from its snapshot with every row wide (R184). -/
def State.wideRerun (s : State) (c id : Nat) : State :=
  match s.stream c with
  | none => s
  | some x =>
    match x.xfer id with
    | none => s
    | some t =>
      if !(t.complete && t.rerun) then s
      else
        let y := { x.restore t with wide := true }
        let s := s.setStream c (y.count 14 1)
        s.queueAsync ⟨.wideRerun, toWords [whoWord c x, t.rs.wr.tix % 65536, t.nr, t.nf]⟩

/-- Firmware takes one report of physical lane `p`. After a peer loss the lane's remote-end streams leave it and it goes on (R283). -/
def State.takeReport (s : State) (h : HostView) (p : Nat) (r : LaneReport) : State :=
  let n := (s.logicalOf p).getD 15
  match r with
  | .wideRerun c id => s.wideRerun c id
  | .held .fwPause _ _ _ _ => s.fwPauseDone h p
  | .held .hostPause _ _ _ _ => s
  | .held .subst _ _ _ _ => s
  | .held (.page f) cs _ _ _ =>
    let s := s.recordAll h (cs.map fun e : Nat × Nat × Bool => e.1)
    match s.stream f.sctx with
    | some x => s.pageReply [whoWord f.sctx x, f.addr % 2 ^ 32, f.addr / 2 ^ 32 % 2 ^ 20 + (if f.write then 2 ^ 24 else 0) + f.reason * 2 ^ 28]
    | none => s
  | .held x cs resp reason addr =>
    let s := s.recordAll h (cs.map fun e : Nat × Nat × Bool => e.1)
    let w := s.stopWords x cs addr
    let hand := decide (x = .halt .skew) || decide (x = .halt .size)
    let s := s.faultReply ⟨s.stopCause p x, n, if hand then reason else 0, if x = .error then resp else 0, w.1, w.2, cs⟩
    if x = .halt .peer then (s.takeGroupOff p (cs.map fun e : Nat × Nat × Bool => e.1)).unstop p x else s

/-! ### Deadlines (R97, R138, R139) -/

/-- Send a `DEADLINE` reply with the misses since the last (R139). -/
def State.deadlineReply (s : State) (c : Nat) (x : Stream) : State :=
  (s.setStream c { x with missUnsent := 0, missReplied := some s.now }).queueAsync ⟨.deadline, toWords [whoWord c x, x.missUnsent]⟩

/-- A reply is due: misses are unsent, and none was sent in the last 1 ms of `NS_CNT`. -/
def Stream.replyDue (x : Stream) (now : Nat) : Bool :=
  decide (x.missUnsent > 0) && (match x.missReplied with
    | none => true
    | some t => decide ((now + 2 ^ 64 - t) % 2 ^ 64 ≥ 1000000))

/-- A deadline that has passed. [Log 55 DEDUCED] -/
def passedDeadline (deadline start now : Nat) : Bool := decide (deadline ≠ 0) && reached64 now ((start + deadline) % 2 ^ 64)

/-- The transfer has a deadline that has passed, has not completed, and has raised no miss. [Log 55 DEDUCED] -/
def Transfer.late (t : Transfer) (now : Nat) : Bool := !t.missed && !t.complete && passedDeadline t.rs.deadline t.start now

/-- The stream with the miss of its oldest late transfer marked; one held after an error still raises it (R138). [Log 55 DEDUCED] -/
def Stream.takeMiss (x : Stream) (now : Nat) : Option Stream :=
  match x.xfers.find? fun t => t.late now with
  | some t => some (x.setXfer { t with missed := true })
  | none => match x.undone.find? fun u => !u.missed && passedDeadline u.deadline u.start now with
    | some u => some { x with undone := x.undone.map fun v => if v.id = u.id then { v with missed := true } else v }
    | none => none

/-- `DEADLINE_MISS` (R138, R139): the oldest late transfer of a stream raises its miss. -/
def deadlineMiss (c : Nat) (s : State) : State :=
  match s.stream c with
  | none => s
  | some x =>
    match if x.idx = 0 then x.takeMiss s.now else none with
    | none => s
    | some y =>
      let x := ({ y with missUnsent := y.missUnsent + 1 }).count 8 1
      let s := (s.setStream c x).raise ⟨0, (s.physOf x.lane).getD 0, 32, formatP c x⟩
      if s.ctl.fwReady && x.replyDue s.now then s.deadlineReply c x else s

/-- `DEADLINE_MISS`. -/
def execDeadlineMiss (sctx : BitVec 12) (s : State) : Out := running s (deadlineMiss sctx.toNat)

/-- `DEADLINE_REPLY_TIMER` (R139): 1 ms after the last reply, the misses since are reported. -/
def execDeadlineReplyTimer (sctx : BitVec 12) (s : State) : Out :=
  running s fun s => match s.stream sctx.toNat with
    | some x => if s.ctl.fwReady && x.replyDue s.now then s.deadlineReply sctx.toNat x else s
    | none => s

/-! ### Evictions (R238, R239) -/

/-- A Bunting with member `i` evicted. -/
def Bunting.evict (b : Bunting) (i : Nat) : Bunting :=
  { b with members := b.members.mapIdx fun k m => if k = i then { m with evicted := true } else m }

/-- Member `i` of Bunting `h` takes part no longer in the transfers that were ready before it left (R239, R241). -/
def State.leaveParty (s : State) (h i : Nat) : State :=
  let leave := fun (x : Stream) (t : Transfer) => if x.handleOf t.rs.wr = h then { t with party := t.party.map fun l => l.filter fun k => decide (k ≠ i) } else t
  { s with fw := { s.fw with streams := s.fw.streams.map fun e => (e.1, { e.2 with xfers := e.2.xfers.map (leave e.2) }) } }

/-- Evict member `i` of Bunting `h` on behalf of stream `c` on lane `p` (R239). -/
def State.evictMember (s : State) (p c h i : Nat) : State :=
  match Tbl.find s.fw.buntings h, s.stream c with
  | some b, some x =>
    let s := ({ s with fw := { s.fw with buntings := Tbl.put h (b.evict i) s.fw.buntings } }).leaveParty h i
    let s := (s.modStream c fun x => x.count 27 1).raise ⟨0, p, 34, formatP c x⟩
    s.faultReply ⟨4, x.lane, 0, 0, h * 65536 + i, b.xfers, s.oneStream c⟩
  | _, _ => s

/-- `BUNTING_SKEW_TIMER` (R238, R239): the timer of the lane's transfer has reached the skew bound; every member that has not granted is
evicted. -/
def buntingSkew (p : Nat) (s : State) : State :=
  match s.execStream p with
  | none => s
  | some (c, x) =>
    match x.headXfer with
    | none => s
    | some t =>
      let h := x.handleOf t.rs.wr
      match t.skewFrom, Tbl.find s.fw.buntings h with
      | some t0, some b =>
        if decide ((s.lane p).stops ≠ []) || decide ((s.now + 2 ^ 64 - t0) % 2 ^ 64 < b.skew) then s
        else
          let out := (b.partyOf t).filter fun i => match b.members[i]? with
            | some m => !s.memberGrants m
            | none => false
          out.foldl (fun s i => s.evictMember p c h i) (s.modXfer c t.id fun t => { t with skewFrom := none })
      | _, _ => s

/-- `BUNTING_SKEW_TIMER`. -/
def execBuntingSkewTimer (lane : Fin 10) (s : State) : Out := running s (buntingSkew lane.val)

/-! ### Activity, weights, pacing -/

/-- `ACTIVITY_WINDOW` (R172, R173). -/
def execActivityWindow (lane : Fin 10) (work : Fin 9) (s : State) : Out := running s fun s => s.activityWindow lane.val work.val

/-- Read `n` cells of the pool from `a` on: the bytes, or the first cell answered other than `OK`. -/
def readCells : Nat → Nat → State → State × (List Byte ⊕ Nat)
  | 0, _, s => (s, .inl [])
  | n + 1, a, s =>
    match s.plateRead a with
    | (s, .ok, b, _) => match readCells n (a + 64) s with
      | (s, .inl bs) => (s, .inl (b ++ bs))
      | (s, .inr e) => (s, .inr e)
    | (s, _, _, _) => (s, .inr a)

/-- A cell of a block of weights answers `POISON` (R331): the transfer that needs the block ends in error. -/
def State.weightError (s : State) (p a : Nat) : State :=
  match (s.execStream p).bind fun e => e.2.headXfer.map fun t => (e.1, t.id) with
  | some (c, id) => s.plateError p c id a
  | none => (s.raise ⟨0, p, 19, a / 64⟩).stopLane p .error

/-- The lane's running stream loads for a slot bound with the relay flag (R156). -/
def State.relays (s : State) (p : Nat) : Bool :=
  match s.execStream p with
  | some (_, x) => match x.headXfer with
    | some t => x.relay.getLsbD t.rs.x.wslot
    | none => false
  | none => false

/-- A block passes along the weight relay from lane `p` (R156): a later lane whose next shadow load is the same block, and whose shadow
buffer is free, latches it. -/
def State.relayBlock (s : State) (p : Nat) (b : WBlock) : State :=
  let order := s.build.cfg.physLanes
  (order.drop (order.idxOf p + 1)).foldl (fun s q => s.modLane q fun l =>
    match l.loading with
    | some (mid, blk, slot) => if mid = b.mid ∧ blk = b.blk ∧ l.shadow = none then { l with loading := none, shadow := some (slot, b) } else l
    | none => l) s

/-- `n` of class `k` are counted to the block, and to the transfer that lane `p` runs (R313). -/
def State.tallyLane (s : State) (p k n : Nat) : State :=
  match (s.execStream p).bind fun e => e.2.headXfer.map fun t => (e.1, t.id) with
  | some (c, id) => s.tally c id k n
  | none => s.tallyBlock k n

/-- `WEIGHT_BLOCK_LOADED` (R154): the load in progress fills the shadow buffer. -/
def weightLoaded (p : Nat) (s : State) : State :=
  match (s.lane p).loading with
  | none => s
  | some (mid, blk, slot) =>
    let s := s.modLane p fun l => { l with loading := none }
    match s.blockAddr mid blk with
    | none => s
    | some (a, n) =>
      match readCells (n / 64) a (s.tallyLane p plateClass (n / 64)) with
      | (s, .inl bs) =>
        let s := s.modLane p fun l => { l with shadow := some (slot, ⟨mid, blk, bs⟩) }
        if s.relays p then s.relayBlock p ⟨mid, blk, bs⟩ else s
      | (s, .inr e) => s.weightError p e

/-- `WEIGHT_BLOCK_LOADED`. -/
def execWeightBlockLoaded (lane : Fin 10) (s : State) : Out := running s (weightLoaded lane.val)

/-- `DREQ_ASSERT` (R135). -/
def execDreqAssert (k : Fin 32) (s : State) : Out :=
  onPin s (fun p => { p with dreq := setBit p.dreq k.val true }) id

/-- `DREQ_RELEASE` (R135, R136): the lane lowers `DACK` when it sees `DREQ` low. -/
def execDreqRelease (k : Fin 32) (s : State) : Out :=
  onPin s (fun p => { p with dreq := setBit p.dreq k.val false }) fun s =>
    { s with pins := { s.pins with dack := setBit s.pins.dack k.val false } }

end Sys2Proof.Machine
end

