-- ==== Sys2Proof/Machine/Programs.lean ====
section
/-! DEFINITION. Checks of programs (R77-R81, R91, R102, R103, R142, R143, R148, R175, R196, R236, R283, R406) and `PROGRAM_LOAD`. -/
namespace Sys2Proof

/-! ### The image (Table FYUSH-2, rows 2 to 6) -/

/-- `END` is the last instruction and stands nowhere else (R77). -/
def endsOk (ws : List Insn) : Bool :=
  decide (ws.length ≤ 8192) && (match ws.getLast? with | some w => decide (bits w.toNat 63 58 = 0x3F) | none => false) &&
    decide ((ws.filter fun w => decide (bits w.toNat 63 58 = 0x3F)).length = 1)

/-- The base slots of a program take the handles substituted for them (R102). -/
def substCode (t : Tbl Nat) (code : List FInsn) : List FInsn :=
  code.map fun i => match i with
    | .base w k false h oa ob bo => .base w k false ((Tbl.find t k).getD h) oa ob bo
    | j => j

/-- Both sides have a `BASE` and a `TILE` at an `EMIT`. -/
def RunState.hasSides (r : RunState) : Bool :=
  decide (r.rd.handle ≠ 0) && r.rd.tile.isSome && decide (r.wr.handle ≠ 0) && r.wr.tile.isSome

/-- The format a side's `TILE` names. -/
def Side.fmt (d : Side) : Option Fmt := d.tile.bind fun t => if t.byte then none else Fmt.ofCode t.fmt

/-- A side is in byte mode. -/
def Side.byte (d : Side) : Bool := match d.tile with | some t => t.byte | none => false

/-- The height of a side's unit. -/
def Side.height (d : Side) : Nat := match d.tile with | some t => t.u1 | none => 0

/-- A non-zero step along D1, D2 or D3 at some level. -/
def Side.sideSteps (d : Side) : Bool := d.st.any fun v => decide (v.d1 ≠ 0) || decide (v.d2 ≠ 0) || decide (v.d3 ≠ 0)

/-- Reversals, rotation or shift. -/
def Xform.moves (x : Xform) : Bool := decide (x.rev ≠ 0) || decide (x.rot ≠ 0) || decide (x.shift ≠ 0)

/-- Some padding amount is non-zero. -/
def Pad.some_ (p : Pad) : Bool := p.lo.any (fun x => decide (x ≠ 0)) || p.hi.any fun x => decide (x ≠ 0)

/-- The scale link of a run state with use `u`. [Log 50 DEDUCED] -/
def RunState.link (r : RunState) (u : Nat) : Option Scale := r.scale.bind fun c => if c.use = u then some c else none

end Sys2Proof

namespace Sys2Proof.Machine

/-! ### The combination rules (Tables FYUSH-6, BURIN-2, R143, R236) -/

/-- The mode and the formats select a row of Table BURIN-2 (R142). [Log 23 DEDUCED] -/
def modeOk (r : RunState) : Bool :=
  if r.rd.byte || r.wr.byte then true
  else match r.rd.fmt, r.wr.fmt with
  | some a, some b =>
    match r.x.mode with
    | 0 => (mapShape a).isSome && !a.complex && !b.complex
    | 4 => (mapShape a).isSome && a.complex && b.complex
    | 3 => decide (a.complex = b.complex)
    | _ => decide (a = b)
  | _, _ => true

/-- The formats of the `TILE`s of a Map, Complex or Cast `EMIT` that select no row of Table BURIN-2 are a reserved combination of field
values (R142, R8; DEDUCED, log 23). Those of Permute and Broadcast fall under the combination rules only. [Log 23 DEDUCED] -/
def modeReserved (r : RunState) : Bool := decide (r.x.mode = 1) || decide (r.x.mode = 2) || modeOk r

/-- A scale link with `USE` 1 in force at an `EMIT` (R143): the mode is not Permute or Broadcast. -/
def scaleModeOk (r : RunState) : Bool :=
  match r.scale with
  | some c => !(decide (c.use = 1) && (decide (r.x.mode = 1) || decide (r.x.mode = 2)))
  | none => true

/-- A `SCALE` with `USE` 1 names, wherever it stands, a handle of a format of R143, if the handle is live. -/
def State.scaleOk (s : State) (i : FInsn) : Bool :=
  match i with
  | .scale c =>
    if c.use = 1 then
      match s.tensor c.handle with
      | some t => decide (t.d.fmt = .fp32) || decide (t.d.fmt = .bf16) || decide (t.d.fmt = .fp16)
      | none => true
    else true
  | _ => true

/-- The format of each side's `TILE` is that of its handle. [Log 23 DEDUCED] -/
def State.formatOk (s : State) (r : RunState) : Bool :=
  let ok := fun (d : Side) (t : Option Tensor) => d.byte || decide (d.fmt = t.map fun t => t.d.fmt)
  ok r.rd (s.tensor r.rd.handle) && ok r.wr (s.layoutOf r.wr.handle)

/-- The byte-mode row of Table FYUSH-6. -/
def byteRulesOk (r : RunState) (e : V4 Nat) : Bool :=
  decide (r.x.mode = 1) && !r.x.moves && !r.pad.some_ && r.rd.list.isNone && r.wr.list.isNone && r.scale.isNone &&
    !r.rd.sideSteps && !r.wr.sideSteps && decide (r.rd.org.d2 = 0) && decide (r.rd.org.d3 = 0) && decide (r.wr.org.d2 = 0) &&
    decide (r.wr.org.d3 = 0) && decide (r.rd.blen = r.wr.blen) && decide (r.clampLo = .all 0) && decide (r.clampHi e = e.map (· - 1))

/-- The Stipple rows of Table FYUSH-6 for one side with its handle's layout. -/
def listRulesOk (d : Side) (t : Option Tensor) : Bool :=
  match d.list, t with
  | some l, some t =>
    (if l.super then decide (d.cells = t.d.stc) && decide (d.height = t.d.str * 16) else decide (d.cells = 1) && decide (d.height = 16)) &&
      decide (d.units ≤ l.len)
  | _, _ => true

/-- Every row of Table FYUSH-6 at an `EMIT`, and the write-side rules of R236. [Log 48 DEDUCED] -/
def State.combineOk (s : State) (r : RunState) : Bool :=
  let listed := r.rd.list.isSome || r.wr.list.isSome
  let rd := s.tensor r.rd.handle
  let wr := s.layoutOf r.wr.handle
  decide (r.rd.byte = r.wr.byte) && modeOk r &&
    !(listed && (r.x.moves || r.pad.some_ || decide (r.x.mode = 2))) && !(r.x.arith && r.x.moves) &&
    (if r.rd.byte then byteRulesOk r (match rd with | some t => t.d.e | none => .all 0) else listRulesOk r.rd rd && listRulesOk r.wr wr) &&
    !((Tbl.find s.fw.buntings r.wr.handle).isSome && (r.wr.list.isSome || (match r.scale with | some c => decide (c.use = 2) | none => false)))

/-- A side's width in elements. -/
def sideWidth (d : Side) : Nat := match d.fmt with | some f => d.cells * f.td0 | none => 0

/-- The unit shapes of a Map or Complex pass (Table BURIN-3; of a consuming stream, Table WIRE-6). -/
def shapesOk (r : RunState) : Bool :=
  match r.rd.fmt, r.wr.fmt with
  | some a, some b =>
    let use3 := match r.scale with | some c => decide (c.use = 3) | none => false
    let f := if use3 then narrowFmt a (sideWidth r.rd) else a
    match mapShape f with
    | some (k, m) =>
      if r.x.axis = 0 then
        (use3 || decide (r.rd.cells = 2)) && decide (r.wr.height = r.rd.height) && decide (r.wr.cells * 512 = m * b.bits)
      else decide (r.rd.height = k) && decide (r.wr.height = m) && decide (r.wr.cells * 512 = r.rd.cells * a.td0 * b.bits)
    | none => false
  | _, _ => false

/-- The unit counts of R91. [Log 48 DEDUCED] -/
def unitsOk (r : RunState) : Bool :=
  if r.x.arith then shapesOk r && decide (r.rd.units = r.wr.units * r.x.kch)
  else if r.readDriven then
    decide (r.rd.units = r.wr.units) &&
      (r.rd.byte || (decide (sideWidth r.rd = sideWidth r.wr) && decide (r.rd.height = r.wr.height)))
  else true

/-- The clamp bounds at an `EMIT` (R61). [Log 48 DEDUCED] -/
def State.clampOk (s : State) (r : RunState) : Bool :=
  r.rd.byte || (match s.tensor r.rd.handle with
    | some t => (List.range 4).all fun d => match r.clamp.at d with
      | some (lo, hi) => decide (lo ≤ hi) && decide (hi < t.d.e.at d)
      | none => true
    | none => true)

/-! ### The rows of Table FYUSH-2 that concern handles -/

/-- The handles an instruction names are live; only a `BASE` may name a Bunting. [Log 49 DEDUCED] -/
def State.handlesLive (s : State) (i : FInsn) : Bool :=
  (insnHandles i).all fun h => (s.tensor h).isSome || (Tbl.find s.fw.buntings h).isSome

/-- A Bunting handle stands only in a write-side `BASE` (R236). [Log 49 DEDUCED] -/
def State.buntingsOk (s : State) (i : FInsn) : Bool :=
  match i with
  | .base true _ _ _ _ _ _ => true
  | j => (insnHandles j).all fun h => (Tbl.find s.fw.buntings h).isNone

/-- A Stipple list lies in the footprint of its handle. [Logs 49, 51 DEDUCED] -/
def State.listFits (s : State) : FInsn → Bool
  | .stipple _ _ h n => match s.tensor h with | some t => decide (n * 8 ≤ t.d.span) | none => true
  | _ => true

/-- The Halyards an instruction names exist. -/
def State.halyardsOk (s : State) : FInsn → Bool
  | .wait c => decide (c.hal < s.build.cfg.halyards)
  | .pace (.halyard c) => decide (c.hal < s.build.cfg.halyards)
  | .post _ _ h _ => decide (h < s.build.cfg.halyards)
  | _ => true

/-- A `POST` adds something. -/
def postOk : FInsn → Bool
  | .post _ _ _ a => decide (a ≠ 0)
  | _ => true

/-- The first of a list of tests that fails gives its status; 0 when none does. -/
def firstStatus : List (Bool × Nat) → Nat
  | [] => 0
  | (ok, st) :: t => if ok then firstStatus t else st

/-- The handle rows of Table FYUSH-2, from the live handles to the length of lists; `STREAM_REARM` repeats them (R103). -/
def State.handleRows (s : State) (code : List FInsn) (es : List RunState) : Nat :=
  firstStatus [(code.all s.handlesLive, 7), (code.all s.buntingsOk, 2), (es.all s.formatOk, 2), (es.all s.combineOk, 2),
    (es.all unitsOk, 2), (es.all s.clampOk, 3), (code.all s.listFits, 3)]

/-! ### Narrow-wire links (R175, Table WIRE-1) -/

/-- A test that holds unless a scale link with use `u` is in force. -/
def linkTest (r : RunState) (u : Nat) (f : Scale → Bool) : Bool := match r.link u with | some c => f c | none => true

/-- The positions of every write unit of a transfer. -/
def writePositions (r : RunState) : List (V4 Int) := (List.range r.wr.units).map r.wr.nestPos

/-- The super-tiles that the write units of a transfer reach. -/
def reachedTiles (r : RunState) (d : Desc) : List Nat :=
  ((writePositions r).flatMap fun p => ((unitPairs r.wr.cells r.wr.height).map fun cr => unitIndex p d.fmt.td0 (cr.1 * d.fmt.td0) cr.2).filter
    fun u => inWindow d.e u).map fun u => d.stIndex (d.stOf u.toNats)

/-- The rows that a producing transfer sends (R176). -/
def rowsSent (r : RunState) (d : Desc) : Nat :=
  ((writePositions r).map fun p => ((List.range r.wr.height).filter fun k => inWindow d.e (unitIndex p d.fmt.td0 0 k)).length).sum

/-- Every owner entry of a list of super-tiles is 0x01. -/
def Tensor.allPeer (t : Tensor) (l : List Nat) : Bool := l.all fun i => decide (nth 0xFF#8 t.owner i = 0x01)

/-- The read units of a consuming transfer hold whole rows, and those of one write unit the same rows (Table WIRE-1). -/
def consumeShape (r : RunState) : Bool :=
  match r.rd.fmt with
  | some a =>
    let w := sideWidth r.rd
    decide ((mapShape (narrowFmt a w)).map (·.1) = some w) && r.rd.list.isNone &&
      ((List.range r.wr.units).all fun m => (List.range r.x.kch).all fun c =>
        let p := r.rd.nestPos (m * r.x.kch + c)
        let q := r.rd.nestPos (m * r.x.kch)
        decide (p.d1 = q.d1) && decide (p.d2 = q.d2) && decide (p.d3 = q.d3))
  | none => false

/-- A format that travels on the narrow wire. [Log 50 DEDUCED] -/
def narrowSide (f : Option Fmt) : Bool := decide (f = some .int16) || decide (f = some .bf16) || decide (f = some .ci16) || decide (f = some .cbf16)

/-- Both uses of a link. [Log 50 DEDUCED] -/
def wireTest (r : RunState) (f : Scale → Bool) : Bool := linkTest r 2 f && linkTest r 3 f

/-- Scale blocks in one run (R182). -/
def State.runBlocks (s : State) (es : List RunState) : Nat :=
  (es.map fun r => match r.link 2, s.layoutOf r.wr.handle with
    | some _, some t => ceilDiv (rowsSent r t.d) 64
    | _, _ => 0).sum

/-- The rows of Table WIRE-1, each over every `EMIT` before the next. [Log 50 DEDUCED] -/
def State.wireRows (s : State) (es : List RunState) : Nat :=
  let wr := fun (r : RunState) (f : Tensor → Bool) => (s.layoutOf r.wr.handle).elim false f
  let sc := fun (c : Scale) (f : Tensor → Bool) => (s.tensor c.handle).elim false f
  firstStatus [
    (es.all fun r => wireTest r fun c => !c.col, 2),
    (es.all fun r => linkTest r 3 fun c => decide (c.width = 0) && !c.dither && decide (c.zsh = 0) && decide (c.rsh = 0) && decide (c.seed = 0), 2),
    (es.all fun r => linkTest r 2 fun c => decide (c.width ≤ 1) && !(decide (c.width = 1) && (r.wr.fmt.elim false Fmt.complex)), 2),
    (es.all fun r => wireTest r fun _ => !(r.x.arith && decide (r.x.axis = 1)), 2),
    (es.all fun r => linkTest r 3 fun _ => r.x.arith, 2),
    (es.all fun r => linkTest r 2 (fun _ => narrowSide r.wr.fmt) && linkTest r 3 (fun _ => narrowSide r.rd.fmt), 2),
    (es.all fun r => linkTest r 2 fun _ => wr r (fun t => decide (t.d.loc = 2) && t.d.padw) && r.wr.list.isNone, 2),
    (es.all fun r => linkTest r 2 fun _ => wr r fun t => t.allPeer (reachedTiles r t.d), 2),
    (es.all fun r => linkTest r 2 fun _ => wr r fun t => (writePositions r).all (fun p => decide (p.d0 = 0)) &&
      decide (r.wr.st.d0.d0 = 0) && decide (r.wr.st.d1.d0 = 0) && decide (r.wr.st.d2.d0 = 0) && decide (sideWidth r.wr ≥ t.d.e.d0), 2),
    (es.all fun r => linkTest r 3 fun _ => consumeShape r, 2),
    (es.all fun r => wireTest r fun c => sc c fun t => decide (t.d.fmt = .int16) && decide (t.d.e.d0 = 96) && decide (t.d.e.d2 = 1) && decide (t.d.e.d3 = 1), 2),
    (es.all fun r => linkTest r 2 fun c => sc c fun t => decide (t.d.loc = 2) && t.allPeer (List.range t.d.nst), 2),
    (es.all fun r => linkTest r 2 fun c => sc c fun t => decide (s.runBlocks es ≤ t.d.e.d1), 3)]

/-! ### Coded sides (R196, Table DICT-1) -/

/-- The sides of an `EMIT` whose handle is coded: write side or not, the side, the descriptor. -/
def State.codedSides (s : State) (r : RunState) : List (Bool × Side × Desc) :=
  ((match s.tensor r.rd.handle with | some t => [(false, r.rd, t.d)] | none => []) ++
    (match s.layoutOf r.wr.handle with | some t => [(true, r.wr, t.d)] | none => [])).filter fun e => e.2.2.coded

/-- `BASE` and every stride in use is a multiple of 4,096. -/
def codedAligned (d : Desc) : Bool :=
  decide (d.base % 4096 = 0) && (List.range 4).all fun i => decide (d.n.at i ≤ 1) || decide (d.s.at i % 4096 = 0)

/-- A coded write unit is one super-tile at a super-tile origin. -/
def codedUnit (r : RunState) (d : Desc) : Bool :=
  decide (r.wr.cells = d.stc) && decide (r.wr.height = d.str * 16) && (r.wr.list.isSome || (writePositions r).all fun p =>
    decide (p.d0 % d.stc = 0) && decide (p.d1 % d.w1 = 0))

/-- The rows of Table DICT-1, each over every coded side before the next. -/
def State.codedRows (s : State) (es : List RunState) : Nat :=
  let all := fun (f : RunState → Bool × Side × Desc → Bool) => es.all fun r => (s.codedSides r).all (f r)
  firstStatus [
    (all fun _ e => !e.2.1.byte, 2),
    (all fun _ e => codedAligned e.2.2, 4),
    (all fun _ e => decide (e.2.2.base + e.2.2.codedSpan ≤ e.2.2.allocBase + e.2.2.allocLen * 64), 3),
    (all fun r e => !e.1 || codedUnit r e.2.2, 2)]

/-! ### A program -/

/-- The checks of Table FYUSH-2 on an image whose CRC is right, then those of Tables WIRE-1 and DICT-1; `room` says whether a contiguous
area of the store is free. [Log 48 DEDUCED] -/
def State.programStatus (s : State) (ws : List Insn) (room : Bool) : Nat :=
  if !endsOk ws then 2
  else match decodeAll ws with
  | none => 2
  | some code =>
    if !bodiesOk (code.length - 1) code 0 [] || !emitDrainOk code then 2
    else
      let es := runEmits code
      if !(es.all fun r => modeReserved r && scaleModeOk r && r.hasSides) || !code.all s.scaleOk then 2
      else
        let h := s.handleRows code es
        if h ≠ 0 then h
        else
          let t := firstStatus [(code.all s.halyardsOk, 3), (code.all postOk, 2), (room, 6)]
          if t ≠ 0 then t
          else
            let w := s.wireRows es
            if w ≠ 0 then w else s.codedRows es

/-- A handle makes a stream remote-end (R283): a split tensor that the peer holds a part of. -/
def State.remoteHandle (s : State) (h : Nat) : Bool :=
  match s.tensor h with
  | some t => decide (t.d.loc = 2) && t.owner.contains 0x01
  | none => false

/-- A program makes its stream remote-end (R283). -/
def State.remoteCode (s : State) (code : List FInsn) : Bool :=
  code.any fun i => match i with
    | .base _ _ false h _ _ _ => s.remoteHandle h
    | .scale c => decide (c.use = 2) && s.remoteHandle c.handle
    | _ => false

/-! ### The program store (R77-R79) -/

/-- The 64-byte cells of a lane's store. -/
def storeSize : Nat := 1024

/-- The cells a program of `n` instructions takes. -/
def progCells (n : Nat) : Nat := ceilDiv n 8

/-- The areas in use in the store of logical lane `lane`, without program `pid`. -/
def State.storeAreas (s : State) (lane pid : Nat) : List (Nat × Nat) :=
  (s.fw.programs.filter fun (e : Nat × Prog) => decide (e.1 / 64 = lane) && decide (e.1 ≠ progKey lane pid)).map fun (e : Nat × Prog) =>
    (e.2.area, progCells e.2.code.length)

/-- `n` cells from `a` are free. -/
def areaFree (l : List (Nat × Nat)) (a n : Nat) : Bool := decide (a + n ≤ storeSize) && !meetsAny l a n

/-- Where firmware places a program of `n` instructions: its choice when that is free, else the lowest free area. -/
def State.storePlace (s : State) (lane pid place n : Nat) : Option Nat :=
  let l := s.storeAreas lane pid
  if areaFree l place (progCells n) then some place
  else ((0 :: l.map fun e => e.1 + e.2).filter fun a => areaFree l a (progCells n)).min?

/-- A stream bound to program `pid` of logical lane `lane` is neither complete nor abandoned. -/
def State.progBusy (s : State) (lane pid : Nat) : Bool :=
  s.fw.streams.any fun (e : Nat × Stream) => e.2.live && e.2.tl.isNone && decide (e.2.lane = lane) && decide (e.2.pid = pid)

/-- A logical lane of the configuration is out of service (R344). -/
def State.laneDown (s : State) (n : Nat) : Bool := (s.physOf n).isNone

/-- The instruction words of an image. -/
def insnsOf : Nat → List Byte → List Insn
  | 0, _ => []
  | n + 1, b => BitVec.ofNat 64 (ofBytes (b.take 8)) :: insnsOf n (b.drop 8)

/-- Firmware writes cell `c` of a stored program again from the image address given at `PROGRAM_LOAD` (R343, kind 27); a read that fails leaves the
cell as it is. [Log 67 DESIGN CHOICE] -/
def State.reloadCell (h : HostView) (key : Nat) (s : State) (c : Nat) : State :=
  match Tbl.find s.fw.programs key with
  | none => s
  | some g =>
    let n := min 8 (g.code.length - 8 * c)
    match fwRead s h (g.img + 64 * c) (8 * n) with
    | none => s
    | some b =>
      let g' := { g with code := g.code.take (8 * c) ++ insnsOf n b ++ g.code.drop (8 * c + n), bad := g.bad.erase c }
      { s with fw := { s.fw with programs := Tbl.put key g' s.fw.programs } }

/-- Firmware writes a stored program again: its cells that fail their check value, or every cell. -/
def State.rereadProgram (s : State) (h : HostView) (key : Nat) (only : Bool) : State :=
  match Tbl.find s.fw.programs key with
  | none => s
  | some g => (if only then g.bad else List.range (progCells g.code.length)).foldl (State.reloadCell h key) s

/-- Firmware copies the programs of logical lane `n` into the store of a spare (R343): cells that fail are read again. -/
def State.copyStore (s : State) (h : HostView) (n : Nat) : State :=
  ((s.fw.programs.map (·.1)).filter fun k => decide (k / 64 = n)).foldl (fun s k => s.rereadProgram h k true) s

/-- `PROGRAM_LOAD` (R78-R81, R406, Table FYUSH-12, R344). [Log 52 DEDUCED] -/
def programLoadBody (h : HostView) (place : Nat) (s : State) (p : Nat → Nat) : Ans :=
  let count := bits (p 0) 29 16
  let pid := bits (p 0) 13 8
  let lane := bits (p 0) 3 0
  let k := progKey lane pid
  if bits (p 0) 31 30 ≠ 0 ∨ bits (p 0) 15 14 ≠ 0 ∨ bits (p 0) 7 4 ≠ 0 ∨ bits (p 2) 31 20 ≠ 0 then Ans.err s 2
  else if lane ≥ s.nLanes then Ans.err s 3
  else if s.laneDown lane then Ans.err s 8
  else if s.fw.compat.getLsbD lane then Ans.err s 2
  else if (Tbl.find s.fw.programs k).isSome ∧ s.progBusy lane pid then Ans.err s 1
  else if count = 0 then
    if (Tbl.find s.fw.programs k).isNone then Ans.err s 7
    else Ans.ok { s with fw := { s.fw with programs := Tbl.drop k s.fw.programs } } []
  else if p 1 % 64 ≠ 0 then Ans.err s 4
  else
    let a := addr52 (p 1) (p 2)
    match fwRead s h a (8 * count) with
    | none => Ans.err s 8
    | some b =>
      if crc32c b ≠ p 3 then Ans.err s 10
      else
        let ws := insnsOf count b
        let area := s.storePlace lane pid place count
        let st := s.programStatus ws area.isSome
        if st ≠ 0 then Ans.err s st
        else
          let code := (decodeAll ws).getD []
          Ans.ok { s with fw := { s.fw with programs := Tbl.put k ⟨ws, area.getD 0, a, s.remoteCode code, []⟩ s.fw.programs } } []

/-- `PROGRAM_LOAD`. -/
def execProgramLoad (h : HostView) (place : Nat) (s : State) : Out :=
  command 0x30 anyVariant (fun s p => (programLoadBody h place s p).verdict) s

end Sys2Proof.Machine
end

