-- ==== Sys2Proof/Machine/Models.lean ====
section
/-! DEFINITION. Models and weight-slot bindings (R150-R156, Tables BURIN-5, BURIN-6): `MODEL_LOAD`, `MODEL_SELECT`. -/
namespace Sys2Proof.Machine

/-! ### Who names a model -/

/-- A binding names model `m` with a fixed binding. -/
def WBind.fixes (m : Nat) : WBind → Bool
  | .fixed k => decide (k = m)
  | _ => false

/-- A table snapshot names model `m`. -/
def WBind.lists (m : Nat) : WBind → Bool
  | .table _ es => es.contains m
  | _ => false

/-- Some binding of a stream that is neither complete nor abandoned satisfies `f`. -/
def State.liveBind (s : State) (f : WBind → Bool) : Bool := s.fw.streams.any fun (e : Nat × Stream) => e.2.live && e.2.wbind.any f

/-! ### `MODEL_LOAD` (R151, Table BURIN-5) -/

/-- The pool offset and length of a model's blocks. -/
def State.modelRange (s : State) (m : Nat) : Option (Nat × Nat) :=
  (Tbl.find s.fw.models m).bind fun md => (s.blockAddr m 0).map fun a => (a.1, md.nb * a.2)

/-- A failed read of the image (Table BURIN-5): a model that a live snapshot names stays, the contents of its blocks undefined (free
values); any other model of that ID is unloaded. [Log 24 DEDUCED] -/
def State.loadFailed (s : State) (m : Nat) : State :=
  if s.liveBind (WBind.lists m) then
    match s.modelRange m with
    | some (a, n) => let (b, s) := s.freeBytes n; (s.plateFill a b).forgetModel m
    | none => s
  else s.unloadModel m

/-- `MODEL_LOAD`. [Log 52 DEDUCED] -/
def modelLoadBody (h : HostView) (s : State) (p : Nat → Nat) : Ans :=
  let nb := bits (p 0) 23 16 + 1
  let wfmt := bits (p 0) 15 10
  let mid := bits (p 0) 9 0
  let first := bits (p 1) 31 16
  let handle := bits (p 1) 15 0
  if bits (p 0) 31 24 ≠ 0 ∨ bits (p 3) 31 20 ≠ 0 then Ans.err s 2
  else match (Fmt.ofCode wfmt).bind fun f => (mapShape f).map fun _ => blockBytes f with
  | none => Ans.err s 2
  | some size =>
    if p 2 % 64 ≠ 0 then Ans.err s 4
    else match s.tensor handle with
    | none => Ans.err s (if (Tbl.find s.fw.buntings handle).isSome then 2 else 7)
    | some t =>
      if t.d.loc ≠ 1 then Ans.err s 2
      else if (first + nb) * size > t.d.span then Ans.err s 3
      else if s.liveBind (WBind.fixes mid) then Ans.err s 1
      else if s.liveBind (WBind.lists mid) ∧ ((Tbl.find s.fw.models mid).map fun m : Model => m.fmt) ≠ some wfmt then Ans.err s 1
      else match fwRead s h (addr52 (p 2) (p 3)) (nb * size) with
      | none => Ans.err (s.loadFailed mid) 8
      | some b =>
        if crc32c b ≠ p 4 then Ans.err s 10
        else
          let s := (s.plateFill (t.d.base + first * size) b).forgetModel mid
          Ans.ok { s with fw := { s.fw with models := Tbl.put mid ⟨wfmt, nb, handle, first⟩ s.fw.models } } []

/-- `MODEL_LOAD`. -/
def execModelLoad (h : HostView) (s : State) : Out := command 0x40 anyVariant (fun s p => (modelLoadBody h s p).verdict) s

/-! ### Checks of bindings (R152, Table BURIN-6) -/

/-- A weight format serves a read format. -/
def weightFits (read weight : Fmt) : Bool :=
  match read with
  | .e4m3 | .e5m2 => decide (weight = .e4m3) || decide (weight = .e5m2)
  | .bf16 | .fp16 => decide (weight = .bf16) || decide (weight = .fp16)
  | f => decide (weight = f)

/-- The format an `EMIT`'s weights are held against: the read format, or the narrow format of a consuming stream (R187). -/
def weightSide (r : RunState) : Option Fmt :=
  r.rd.fmt.map fun f => if r.consumes then narrowFmt f (sideWidth r.rd) else f

/-- Model `m` can serve an `EMIT`. -/
def State.modelFits (s : State) (r : RunState) (m : Nat) : Bool :=
  match (Tbl.find s.fw.models m).bind fun md => Fmt.ofCode md.fmt, weightSide r with
  | some w, some f => weightFits f w
  | _, _ => false

/-- The rows of Table BURIN-6 for one binding at one `EMIT`, the last excepted. -/
def State.bindStatus (s : State) (r : RunState) : WBind → Nat
  | .unbound => 2
  | .fixed m => firstStatus [((Tbl.find s.fw.models m).isSome, 7), (s.modelFits r m, 2)]
  | .table _ es => firstStatus [(es.all fun m => decide (m ≤ 1023), 3), (es.all fun m => (Tbl.find s.fw.models m).isSome, 7),
      (es.all (s.modelFits r), 2)]

/-- The first status other than `OK` of a list. -/
def firstNonZero (l : List Nat) : Nat := (l.find? fun n => decide (n ≠ 0)).getD 0

/-- The `EMIT`s of a stream's run, with its substituted handles. -/
def State.emitsOfStream (s : State) (x : Stream) : List RunState :=
  match s.progOf x with
  | some p => runEmits (substCode x.subst p.insns)
  | none => []

/-- Every Map or Complex `EMIT` of a run against the slot it uses (R152). -/
def State.bindingsStatus (s : State) (wb : List WBind) (es : List RunState) : Nat :=
  firstNonZero ((es.filter fun r => r.x.arith).map fun r => s.bindStatus r (nth .unbound wb r.x.wslot))

/-! ### Model tables (R152) -/

/-- The cells that hold the entries of a model table. -/
def tableCells (d : Desc) : List Nat := (List.range (ceilDiv d.e.d0 32)).map fun c => (d.addrOf ⟨32 * c, 0, 0, 0⟩).1

/-- Read cells of a tensor in host memory or the pool; none when an access fails. -/
def State.readTensorCells (h : HostView) (loc : Nat) : List Nat → State → State × Option (List Byte)
  | [], s => (s, some [])
  | a :: rest, s =>
    let r : State × Option (List Byte) :=
      if loc = 1 then match s.plateRead a with
        | (s, .ok, b, _) => (s, some b)
        | (s, _, _, _) => (s, none)
      else (s, fwRead s h a 64)
    match r with
    | (s, none) => (s, none)
    | (s, some b) => match State.readTensorCells h loc rest s with
      | (s, some bs) => (s, some (b ++ bs))
      | (s, none) => (s, none)

/-- The entries of a model table from the bytes of its cells. -/
def tableEntries (n : Nat) (b : List Byte) : List Nat := (List.range n).map fun i => fieldLE b (2 * i) 2

/-- What is wrong with a handle as a model table: it is not live, or is no INT16 tensor with `LOC` 0 or 1, or has too many entries. -/
def State.tableStatus (s : State) (h : Nat) : Nat :=
  match s.tensor h with
  | none => if (Tbl.find s.fw.buntings h).isSome then 2 else 7
  | some t => if t.d.fmt ≠ .int16 ∨ t.d.loc > 1 ∨ t.d.coded then 2 else if t.d.e.d0 > 65536 then 3 else 0

/-- Read a model table: its entries, or the status of the failure. -/
def State.readTable (s : State) (hv : HostView) (h : Nat) : State × (Nat ⊕ List Nat) :=
  let st := s.tableStatus h
  if st ≠ 0 then (s, .inl st)
  else match s.tensor h with
  | none => (s, .inl 7)
  | some t =>
    match State.readTensorCells hv t.d.loc (tableCells t.d) s with
    | (s, none) => (s, .inl 8)
    | (s, some b) => (s, .inr (tableEntries t.d.e.d0 b))

/-- The checks made on the entries whenever a table is read. -/
def State.entriesStatus (s : State) (es : List Nat) : Nat :=
  firstStatus [(es.all fun m => decide (m ≤ 1023), 3), (es.all fun m => (Tbl.find s.fw.models m).isSome, 7)]

/-- The bytes of a snapshot. -/
def snapshotBytes (es : List Nat) : List Byte := es.flatMap fun m => toBytes m 2

/-- Write a snapshot into the space held for it. -/
def State.putSnapshot (s : State) (a : Nat) (es : List Nat) : State := s.plateFill a (snapshotBytes es)

/-! ### `MODEL_SELECT` -/

/-- Set the binding of slot `k` of a stream (all its members), with its relay flag; the space held for an earlier snapshot is released. -/
def State.setBind (s : State) (c k : Nat) (b : WBind) (relay : Bool) (held : Option (Nat × Nat)) : State :=
  let s := match (s.stream c).bind fun x => Tbl.find x.tblHeld k with
    | some r => s.unhold r.1 r.2
    | none => s
  let s := s.modGroup c fun x => { x with wbind := setNth x.wbind k b, relay := setBit x.relay k relay }
  s.modStream c fun x => { x with tblHeld := match held with | some r => Tbl.put k r x.tblHeld | none => Tbl.drop k x.tblHeld }

/-- The `EMIT`s a `MODEL_SELECT` of slot `k` checks. -/
def slotEmits (es : List RunState) (k : Nat) : List RunState := es.filter fun r => r.x.arith && decide (r.x.wslot = k)

/-- `MODEL_SELECT` (R152, Table BURIN-6). [Log 52 DEDUCED; log 95 DESIGN CHOICE] -/
def modelSelectBody (h : HostView) (place : Nat) (s : State) (p : Nat → Nat) : Ans :=
  let c := bits (p 0) 15 0
  let kind := bits (p 0) 19 18
  let k := bits (p 0) 17 16
  let id := bits (p 1) 15 0
  if bits (p 0) 31 21 ≠ 0 ∨ bits (p 1) 31 16 ≠ 0 ∨ kind = 3 then Ans.err s 2
  else match s.stream c with
  | none => Ans.err s 7
  | some x =>
    let es := slotEmits (s.emitsOfStream x) k
    if x.idx ≠ 0 then Ans.err s 2
    else if x.st ≠ .bound ∧ x.st ≠ .parked then Ans.err s 1
    else match kind with
    | 0 => Ans.ok (s.setBind c k .unbound (bitOn (p 0) 20) none) []
    | 1 =>
      if id > 1023 then Ans.err s 3
      else
        let st := firstNonZero (es.map fun r => s.bindStatus r (.fixed id))
        if st ≠ 0 then Ans.err s st else Ans.ok (s.setBind c k (.fixed id) (bitOn (p 0) 20) none) []
    | _ =>
      match s.readTable h id with
      | (s, .inl st) => Ans.err s st
      | (s, .inr t) =>
        let st := firstNonZero (s.entriesStatus t :: es.map fun r => s.bindStatus r (.table id t))
        if st ≠ 0 then Ans.err s st
        else match s.holdPlace place (2 * t.length) with
        | none => Ans.err s 6
        | some a =>
          let s := (s.hold a (2 * t.length)).putSnapshot a t
          Ans.ok (s.setBind c k (.table id t) (bitOn (p 0) 20) (some (a, 2 * t.length))) []

/-- `MODEL_SELECT`. -/
def execModelSelect (h : HostView) (place : Nat) (s : State) : Out :=
  command 0x41 anyVariant (fun s p => (modelSelectBody h place s p).verdict) s

/-- Read again the tables of a stream's bindings (R152, at a re-arm): the bindings with the entries as they read now, or the status of
the first failure. -/
def State.rereadTables (hv : HostView) : List WBind → State → State × (Nat ⊕ List WBind)
  | [], s => (s, .inr [])
  | b :: rest, s =>
    let r : State × (Nat ⊕ WBind) := match b with
      | .table h _ => match s.readTable hv h with
        | (s, .inl st) => (s, .inl st)
        | (s, .inr es) => (s, if s.entriesStatus es ≠ 0 then .inl (s.entriesStatus es) else .inr (.table h es))
      | b => (s, .inr b)
    match r with
    | (s, .inl st) => (s, .inl st)
    | (s, .inr b) => match State.rereadTables hv rest s with
      | (s, .inl st) => (s, .inl st)
      | (s, .inr bs) => (s, .inr (b :: bs))

/-- Write the snapshots of a stream's tables again. -/
def State.putSnapshots (s : State) (x : Stream) (bs : List WBind) : State :=
  (List.range 4).foldl (fun s k => match nth .unbound bs k, Tbl.find x.tblHeld k with
    | .table _ es, some r => s.putSnapshot r.1 es
    | _, _ => s) s

end Sys2Proof.Machine
end

