-- ==== Sys2Proof/Machine/Streams.lean ====
section
/-! DEFINITION. The stream commands (R69, R102-R104, R119-R121, R128, R134, R137, R152, R171, R232, R257, R259, R260, R284, R344): bind, arm,
re-arm, pause, resume, abandon, and `PAGE_RESUME`. -/
namespace Sys2Proof.Machine

/-! ### Overlap (R69, R236, Table LAYOUT-7) -/

/-- An in-place transform (Table LAYOUT-7, row 2). -/
def inPlaceOk (r : RunState) (a b : Desc) : Bool :=
  a.sameLayout b && decide (a.n = .all 1) && decide (r.x.resultExtents (paddedExtents a.e r.pad.lo r.pad.hi) = b.e)

/-- The descriptors of every member of a write-side handle. -/
def State.memberDescs (s : State) (h : Nat) : List Desc :=
  match Tbl.find s.fw.buntings h with
  | some b => b.members.filterMap fun m => (s.tensor m.handle).map fun t => t.d
  | none => match s.tensor h with | some t => [t.d] | none => []

/-- The descriptor of a live tensor, as a list. -/
def State.descOf (s : State) (h : Nat) : List Desc := match s.tensor h with | some t => [t.d] | none => []

/-- The descriptor of a scale tensor linked with one of the uses. -/
def State.scaleDesc (s : State) (r : RunState) (uses : List Nat) : List Desc :=
  match r.scale with
  | some c => if uses.contains c.use then s.descOf c.handle else []
  | none => []

/-- The footprints of an `EMIT` share no byte where they must not (R69). -/
def State.disjointEmit (s : State) (r : RunState) : Bool :=
  let rd := s.descOf r.rd.handle
  let side := [r.rd, r.wr].flatMap fun d => match d.list with | some l => s.descOf l.handle | none => []
  let reads := side ++ s.scaleDesc r [1, 3]
  let wr := s.memberDescs r.wr.handle
  let prod := s.scaleDesc r [2]
  (rd.all fun a => wr.all fun b => !a.meets b || inPlaceOk r a b) &&
    (rd.all fun a => prod.all fun b => !a.meets b) && (reads.all fun a => (wr ++ prod).all fun b => !a.meets b)

/-! ### `STREAM_BIND` (R257, Table CTRL-17) -/

/-- The `DREQ` lines a program names. -/
def dreqLines (code : List FInsn) : List Nat :=
  code.filterMap fun i => match i with
    | .pace (.dreq l _) => some l
    | _ => none

/-- The `DREQ` lines of every live stream (R137). -/
def State.heldLines (s : State) : List Nat :=
  (s.fw.streams.map fun (e : Nat × Stream) => if e.2.live then match s.progOf e.2 with | some p => dreqLines p.insns | none => [] else []).flatten

/-- `g` consecutive free contexts from `c`. -/
def State.contextsFree (s : State) (g c : Nat) : Bool :=
  decide (c + g ≤ s.build.cfg.contexts) && (List.range g).all fun i => (s.stream (c + i)).isNone

/-- Where firmware puts `g` contexts: its choice when they are free, else the lowest. [Log 8 DESIGN CHOICE] -/
def State.newContexts (s : State) (g pick : Nat) : Option Nat :=
  if s.contextsFree g pick then some pick else (List.range s.build.cfg.contexts).find? (s.contextsFree g)

/-- The parameters of a bind. -/
structure BindArgs where
  lanes : List Nat
  g : Nat
  rt : Bool
  depth : Nat
  pid : Nat
  quantum : Nat
  recAddr : Nat
  tl : Option (Nat × List (List Word))
  deriving DecidableEq, Repr

/-- A stream as it is bound: cursors 0 and epoch 0 (R94, Table CTRL-17). -/
def BindArgs.stream (b : BindArgs) (now uid first i lane : Nat) : Stream :=
  { first := first, g := b.g, idx := i, lane := lane, rt := b.rt, quantum := b.quantum, depth := b.depth, pid := b.pid, tl := b.tl
    recAddr := b.recAddr, st := .bound, heldBy := [], inError := false, denied := false, paused := false, armed := false, fpc := 0, reps := []
    rs := .start, xrs := .start, emitting := false, fetchEnd := false, xq := [], xfers := [], nextXfer := 0
    cursors := List.replicate 8 0, pending := [], epoch := 0, wide := false, scaleSlot := 0, scaleBlock := 0, scaleRow := 0, fetchCur := ⟨0, 0, 0⟩, bufs := [], prodBlock := 0, subst := []
    remote := false, wbind := List.replicate 4 .unbound, relay := 0, tblHeld := [], reserve := [], units := 0, regrant := 0, undone := [], tlNext := 0, tlDone := none
    stats := [], statsSent := [], missUnsent := 0, missReplied := none, energy := 0, occs := [], uid := uid, knows := [], boundAt := now, savedPos := List.replicate 15 0, owed := false, mail := [] }

/-- Bind the members to contexts from `c` on. -/
def State.bindAll (s : State) (b : BindArgs) (c : Nat) : State :=
  let uid := s.plate.clock + 1
  (b.lanes.mapIdx fun i n => (i, n)).foldl (fun s e => s.setStream (c + e.1) (b.stream s.now uid c e.1 e.2))
    { s with plate := { s.plate with clock := uid } }

/-- The decoded program `pid` of a logical lane. -/
def State.codeOf (s : State) (lane pid : Nat) : Option (List Insn) := (Tbl.find s.fw.programs (progKey lane pid)).map fun p => p.code

/-- The rows of Table CTRL-17 from the images of the lanes to the `DREQ` lines, for a native stream. -/
def State.nativeRows (s : State) (lanes : List Nat) (pid : Nat) : Nat :=
  let codes := lanes.map fun n => s.codeOf n pid
  match codes with
  | some c :: _ =>
    let code := (decodeAll c).getD []
    let es := runEmits code
    firstStatus [(codes.all (Option.isSome ·), 7),
      (decide (lanes.length = 1) || (codes.all (fun k => decide (k = some c)) && es.any fun r => r.x.arith), 2),
      (es.all s.disjointEmit, 5), ((dreqLines code).all fun l => !s.heldLines.contains l, 1)]
  | _ => 7

/-- The descriptors of a TL-64 array of `n` entries. -/
def tlArray (n : Nat) (b : List Byte) : List (List Word) := (List.range n).map fun i => wordsOf 8 (slice b (32 * i) 32)

/-- The rows of Table CTRL-17 that concern a TL-64 array: its descriptors, or a status. -/
def State.tlRows (s : State) (h : HostView) (a n : Nat) : Nat ⊕ List (List Word) :=
  match fwRead s h a (32 * n) with
  | none => .inl 8
  | some b =>
    let ds := tlArray n b
    let st := tlChecks s.build.cfg.halyards ds
    if st ≠ 0 then .inl st else .inr ds

/-- The last rows: contexts and buffer positions (R75). -/
def State.bindPlace (s : State) (b : BindArgs) (pick : Nat) : Ans :=
  match s.newContexts b.g pick with
  | none => Ans.err s 6
  | some c => if s.openPositions.length < b.g * b.depth then Ans.err s 6 else Ans.ok (s.bindAll b c) [c]

/-- `STREAM_BIND`. -/
def streamBindBody (h : HostView) (pick : Nat) (s : State) (p : Nat → Nat) : Ans :=
  let lanes := onBits 8 (bits (p 0) 31 24)
  let tl := bitOn (p 0) 21
  let depth := bits (p 0) 19 16
  let g := 2 ^ bits (p 0) 15 14
  let pid := bits (p 0) 13 8
  let q := bits (p 0) 7 0
  let args : BindArgs := ⟨lanes, g, bitOn (p 0) 20, depth, pid, if q = 0 then 10 else q, addr52 (p 1) (p 2), none⟩
  if bits (p 0) 23 22 ≠ 0 ∨ bits (p 2) 31 20 ≠ 0 ∨ depth < 2 ∨ depth > 8 ∨ lanes.length ≠ g ∨ (tl ∧ (g > 1 ∨ pid ≠ 0)) then Ans.err s 2
  else if lanes.any fun n => decide (n ≥ s.nLanes) then Ans.err s 3
  else if lanes.any s.laneDown then Ans.err s 8
  else if lanes.any fun n => s.fw.compat.getLsbD n != tl then Ans.err s 2
  else if p 1 % 64 ≠ 0 ∨ (tl ∧ p 3 % 64 ≠ 0) then Ans.err s 4
  else if tl then
    let a := p 3 + bits (p 4) 19 0 * 2 ^ 32
    match s.tlRows h a (bits (p 4) 31 20 + 1) with
    | .inl st => Ans.err s st
    | .inr ds => s.bindPlace { args with tl := some (a, ds) } pick
  else
    let st := s.nativeRows lanes pid
    if st ≠ 0 then Ans.err s st else s.bindPlace args pick

/-- `STREAM_BIND`. -/
def execStreamBind (h : HostView) (pick : BitVec 12) (s : State) : Out :=
  command 0x31 anyVariant (fun s p => (streamBindBody h pick.toNat s p).verdict) s

/-! ### The stream a command names (R259) -/

/-- Member 0 of the stream that a command names, or the status: `NOTFOUND`, or `INVALID` for another member. -/
def State.named (s : State) (c : Nat) : Nat ⊕ Stream :=
  match s.stream c with
  | none => .inl 7
  | some x => if x.idx ≠ 0 then .inl 2 else .inr x

/-- A remote-end stream while the link is down (R284). -/
def State.linkDenies (s : State) (x : Stream) : Bool := s.remoteEnd x && !s.link.up

/-! ### `STREAM_ARM` (Table CTRL-20, R152, R232) -/

/-- A new run begins (Table CTRL-20): after a completed run the epoch rises. -/
def Stream.arm (x : Stream) : Stream := { x.newRun with st := .queued, epoch := if x.armed then x.epoch + 1 else x.epoch }

/-- `STREAM_ARM`. [Log 97 DESIGN CHOICE] -/
def streamArmBody (s : State) (p : Nat → Nat) : Ans :=
  let c := bits (p 0) 15 0
  if bits (p 0) 31 16 ≠ 0 then Ans.err s 2
  else match s.named c with
  | .inl st => Ans.err s st
  | .inr x =>
    if s.linkDenies x then Ans.err s 9
    else if x.st ≠ .bound then Ans.err s 1
    else if x.tl.isNone && (s.progOf x).isNone then Ans.err s 7
    else
      let st := s.bindingsStatus x.wbind (s.emitsOfStream x)
      if st ≠ 0 then Ans.err s st
      else
        let s := s.modGroup c fun y => { y.arm with mail := s.ctl.mail }
        Ans.ok { s with fw := { s.fw with admitQ := s.fw.admitQ ++ [c] } } []

/-- `STREAM_ARM`. -/
def execStreamArm (s : State) : Out := command 0x32 anyVariant (fun s p => (streamArmBody s p).verdict) s

/-! ### `STREAM_REARM` (R102-R104, Table FYUSH-10) -/

/-- The handle of slot `k` in a payload. -/
def rearmHandle (p : Nat → Nat) (k : Nat) : Nat := bits (p (1 + k / 2)) (16 * (k % 2) + 15) (16 * (k % 2))

/-- Format, STC and STR of a handle as the programs see it. -/
def State.handleShape (s : State) (h : Nat) : Option (Fmt × Nat × Nat) := (s.layoutOf h).map fun t => (t.d.fmt, t.d.stc, t.d.str)

/-- A substituted handle has the shape of the handle that each `BASE` of its slot names now (R103). -/
def State.shapesKept (s : State) (code : List FInsn) (old new : Tbl Nat) (mask : Nat) : Bool :=
  code.all fun i => match i with
    | .base _ k false h _ _ _ => !bitOn mask k || decide (s.handleShape ((Tbl.find old k).getD h) = s.handleShape ((Tbl.find new k).getD h))
    | _ => true

/-- The checks of substituted handles (R103, R175, R196): the code with the new handles. [Log 95 DESIGN CHOICE] -/
def State.substStatus (s : State) (code : List FInsn) (old new : Tbl Nat) (mask : Nat) : Nat :=
  let c := substCode new code
  let es := runEmits c
  let live := (onBits 8 mask).all fun k => match Tbl.find new k with
    | some h => (s.tensor h).isSome || (Tbl.find s.fw.buntings h).isSome
    | none => true
  firstNonZero [if live then 0 else 7, if s.shapesKept code old new mask then 0 else 2, s.handleRows c es, s.wireRows es, s.codedRows es,
    if es.all s.disjointEmit then 0 else 5]

/-- The new run of a re-armed stream (R102). -/
def Stream.rearm (x : Stream) (subst : Tbl Nat) (remote : Bool) (wb : List WBind) : Stream :=
  { x.newRun with st := .active, subst := subst, remote := remote, wbind := wb, epoch := x.epoch + 1 }

/-- Substitute, and begin the new run; a stream marked paused begins it at `STREAM_RESUME` (Table FYUSH-10). -/
def State.rearmAll (s : State) (c : Nat) (x : Stream) (subst : Tbl Nat) (remote : Bool) (wb : List WBind) : State :=
  let s := (s.putSnapshots x wb).modGroup c fun y => { y.rearm subst remote wb with mail := s.ctl.mail }
  (s.group c).foldl (fun s d => match s.stream d with
    | some y => if y.runnable then s.makeRunnable d else s
    | none => s) s

/-- What a re-arm meets in each state of the stream (Table FYUSH-10); 0 when it is parked. -/
def rearmState (x : Stream) : Nat :=
  match x.st with
  | .parked => 0
  | .bound => 9
  | _ => 1

/-- `STREAM_REARM`. [Log 52 DEDUCED] -/
def streamRearmBody (h : HostView) (s : State) (p : Nat → Nat) : Ans :=
  let c := bits (p 0) 15 0
  let mask := bits (p 0) 23 16
  if bits (p 0) 31 24 ≠ 0 ∨ (List.range 8).any (fun k => !bitOn mask k && decide (rearmHandle p k ≠ 0)) then Ans.err s 2
  else match s.named c with
  | .inl st => Ans.err s st
  | .inr x =>
    match s.progOf x with
    | none => Ans.err s 2
    | some g =>
      let code := g.insns
      if code.getLast? ≠ some (.endRun true) then Ans.err s 2
      else if s.linkDenies x then Ans.err s 9
      else if rearmState x ≠ 0 then Ans.err s (rearmState x)
      else
        let new := (onBits 8 mask).foldl (fun t k => Tbl.put k (rearmHandle p k) t) x.subst
        let st := s.substStatus code x.subst new mask
        let remote := s.remoteCode (substCode new code)
        if st ≠ 0 then Ans.err s st
        else if remote ∧ !s.link.up then Ans.err s 9
        else match State.rereadTables h x.wbind s with
        | (s, .inl st) => Ans.err s st
        | (s, .inr wb) =>
          let st := s.bindingsStatus wb (runEmits (substCode new code))
          if st ≠ 0 then Ans.err s st else Ans.ok (s.rearmAll c x new remote wb) [(x.epoch + 1).toNat]

/-- `STREAM_REARM`. -/
def execStreamRearm (h : HostView) (s : State) : Out := command 0x33 anyVariant (fun s p => (streamRearmBody h s p).verdict) s

/-! ### `STREAM_PAUSE` and `STREAM_ABANDON` (R128, R260) -/

/-- Stream context `d` has a descriptor in the queue of a lane. -/
def State.onLane (s : State) (d : Nat) : Option Nat :=
  match s.laneOf d with
  | some p => if (s.lane p).queue.any fun e => decide (e.sctx = d) then some p else none
  | none => none

/-- The lanes that must drain before every member of a stream is off: those that do not hold yet. -/
def State.toDrain (s : State) (c : Nat) : List Nat :=
  (s.group c).filterMap fun d => match s.onLane d with
    | some p => if (s.lane p).holding then none else some p
    | none => none

/-- Members on a lane that holds leave it at once, unless they are Held for a reason the host has to decide. -/
def State.leaveHeld (s : State) (c : Nat) (all : Bool) : State :=
  (s.group c).foldl (fun s d => match s.onLane d with
    | some p => if (s.lane p).holding && (all || !s.heldHard d) then s.takeOff p d else s
    | none => s) s

/-- `STREAM_PAUSE` (R128, Table CTRL-20). [Log 53 DEDUCED] -/
def streamPauseBody (h : HostView) (s : State) (p : Nat → Nat) : State × Verdict :=
  let c := bits (p 0) 15 0
  if bits (p 0) 31 16 ≠ 0 then (s, .done 2 [])
  else match s.named c with
  | .inl st => (s, .done st [])
  | .inr x =>
    if x.paused then (s, .done 0 [])
    else
      let s := s.modGroup c fun y => { y with paused := true }
      let s := (s.group c).foldl State.delist s
      let s := s.leaveHeld c false
      match s.toDrain c with
      | [] => (s.record h c, .done 0 [])
      | ps => (ps.foldl (fun s p => s.stopLane p .fwPause) s, .wait (.pause c))

/-- `STREAM_PAUSE`. -/
def execStreamPause (h : HostView) (s : State) : Out := command 0x34 anyVariant (streamPauseBody h) s

/-- `STREAM_ABANDON` (R260). -/
def streamAbandonBody (h : HostView) (s : State) (p : Nat → Nat) : State × Verdict :=
  let c := bits (p 0) 15 0
  if bits (p 0) 31 16 ≠ 0 then (s, .done 2 [])
  else match s.named c with
  | .inl st => (s, .done st [])
  | .inr _ =>
    let s := (s.group c).foldl State.delist s
    match s.toDrain c with
    | [] => (s.finishAbandon h c, .done 0 [])
    | ps => (ps.foldl (fun s p => s.stopLane p .fwPause) s, .wait (.abandon c))

/-- `STREAM_ABANDON`. -/
def execStreamAbandon (h : HostView) (s : State) : Out := command 0x36 anyVariant (streamAbandonBody h) s

/-! ### `STREAM_RESUME` (Tables CTRL-20, STREAM-7, R134, R284, R344) -/

/-- The cells that a halted transfer reads again when it goes on (R189, R208): those of a coded block that failed with its header, and
the scale blocks from the cursor on. [Logs 41, 55 DEDUCED] -/
def Transfer.again (t : Transfer) (scale : Option Tensor) (from_ : Nat) : Transfer :=
  let heads := t.cells.filterMap fun (e : Nat × Cell) => match e.2 with
    | .fail _ h => some (Place.host (h / 64 * 64)).key
    | _ => none
  let blocks := match scale with
    | some st => if t.rs.consumes then ((List.range 257).flatMap fun i => (st.blockNeeds (from_ + i)).map fun (d : Need) => d.place.key) else []
    | none => []
  { t with
    cells := t.cells.filter fun (e : Nat × Cell) => (match e.2 with | .fail _ _ => false | _ => true) && !blocks.contains e.1
    lists := t.lists.filter fun (e : Nat × Cell) => !heads.contains e.1 }

/-- A Held stream goes on from its position: a stream with no reservation waits for admission again. -/
def State.unhold1 (s : State) (c : Nat) : State :=
  s.modStream c fun x =>
    let again := fun t : Transfer => t.again (t.rs.scale.bind fun k => s.tensor k.handle) x.scaleBlock
    { x with
      st := if x.reserve = [] then .queued else .active
      xfers := if x.heldBy.contains .skew || x.heldBy.contains .size then x.xfers.map again else x.xfers
      heldBy := []
      inError := false
      denied := false
      mail := s.ctl.mail }

/-- Every member of a Held stream goes on; the lanes that waited for the host's decision may leave their hold (R120). -/
def State.resumeHeld (s : State) (h : HostView) (c : Nat) : State :=
  let ps := (s.group c).filterMap s.laneOf
  let s := (s.group c).foldl (fun s d => match s.stream d with
    | some y => if y.st = .held then s.unhold1 d else s
    | none => s) s
  let queued : Bool := match s.stream c with | some x => decide (x.st = .queued) && !s.fw.admitQ.contains c | none => false
  let s := if queued then { s with fw := { s.fw with admitQ := s.fw.admitQ ++ [c] } } else s
  let s := (s.group c).foldl (fun s d => match s.stream d with
    | some y => if y.runnable then s.enlist d else s
    | none => s) s
  let s := s.settleGroup ps
  (ps.foldl (fun s p => match s.logicalOf p with | some n => s.refill n | none => s) s).record h c

/-- Some member of the stream satisfies `f`. -/
def State.anyMember (s : State) (c : Nat) (f : Stream → Bool) : Bool := (s.group c).any fun d => ((s.stream d).map f).getD false

/-- `STREAM_RESUME`. [Log 53 DEDUCED] -/
def streamResumeBody (h : HostView) (s : State) (p : Nat → Nat) : Ans :=
  let c := bits (p 0) 15 0
  if bits (p 0) 31 16 ≠ 0 then Ans.err s 2
  else match s.named c with
  | .inl st => Ans.err s st
  | .inr x =>
    if s.linkDenies x then Ans.err s 9
    else if s.heldGroup c then
      if (s.group c).any fun d => (s.laneOf d).isNone then Ans.err s 8
      else if s.anyMember c fun y => y.heldBy.contains .page then Ans.err s 1
      else if s.anyMember c fun y => y.denied then Ans.err s 9
      else Ans.ok (s.resumeHeld h c) []
    else if !x.paused then Ans.err s 2
    else
      let s := s.modGroup c fun y => { y with paused := false, mail := s.ctl.mail }
      let s := (s.group c).foldl (fun s d => match s.stream d with
        | some y => if y.runnable then s.makeRunnable d else s
        | none => s) s
      Ans.ok (s.record h c) []

/-- `STREAM_RESUME`. -/
def execStreamResume (h : HostView) (s : State) : Out := command 0x35 anyVariant (fun s p => (streamResumeBody h s p).verdict) s

/-! ### `PAGE_RESUME` (R132, R134) -/

/-- The lane is held on a page. -/
def Lane.onPage (l : Lane) : Bool := l.holding && l.stops.any fun x => match x with | .page _ => true | _ => false

/-- The reserved bits of a `PAGE_RESUME`. -/
def pageReserved (p0 : Nat) : Bool := decide (bits p0 31 24 ≠ 0) || decide (bits p0 15 9 ≠ 0) || decide (bits p0 7 4 ≠ 0)

/-- `PAGE_RESUME` with `INV` = 0. -/
def pageResumeBody (h : HostView) (s : State) (p : Nat → Nat) : Ans :=
  let n := bits (p 0) 3 0
  if pageReserved (p 0) then Ans.err s 2
  else if n ≥ s.nLanes then Ans.err s 3
  else match s.physOf n with
  | some q => if (s.lane q).onPage then Ans.ok (s.leavePage h q) [] else Ans.err s 7
  | none => Ans.err s 7

/-- `PAGE_RESUME`: the messages with `INV` = 0. -/
def execPageResume (h : HostView) (s : State) : Out := command 0xC0 (fun p0 => !bitOn p0 8) (fun s p => (pageResumeBody h s p).verdict) s

/-- Empty a lane's translation cache (R132); a walk in progress is walked again. -/
def Lane.invalidate (l : Lane) : Lane := { l with xlat := [], walk := l.walk.map fun w => { w with stale := true } }

/-- `PAGE_RESUME` with `INV` = 1. -/
def pageInvalidateBody (s : State) (p : Nat → Nat) : Ans :=
  let lanes := onBits 8 (bits (p 0) 23 16)
  if pageReserved (p 0) then Ans.err s 2
  else if lanes.any fun n => decide (n ≥ s.nLanes) then Ans.err s 3
  else Ans.ok ((lanes.filterMap s.physOf).foldl (fun s q => s.modLane q Lane.invalidate) s) []

/-- `PAGE_RESUME_INVALIDATE`: the messages with `INV` = 1. -/
def execPageResumeInvalidate (s : State) : Out := command 0xC0 (fun p0 => bitOn p0 8) (fun s p => (pageInvalidateBody s p).verdict) s

end Sys2Proof.Machine
end

