-- ==== Sys2Proof/Machine/Buntings.lean ====
section
/-! DEFINITION. Buntings (R235-R237, R241, Table SYNC-8): define, readmit, delete; eviction of the peer member (Table SYNC-9). -/
namespace Sys2Proof.Machine

/-- The skew bound a payload gives (R235). -/
def skewOf (v : Nat) : Nat := if v = 0 then 4000 else v

/-- The members a define names. -/
def definedMembers (s : State) (p : Nat → Nat) : List Member :=
  (List.range (min (bits (p 0) 15 12) 8)).map fun i =>
    let credit := bits (p (2 + i)) 15 0
    ⟨bits (p (2 + i)) 31 20, credit, bits (p (10 + i / 4)) (8 * (i % 4) + 7) (8 * (i % 4)), (s.hword credit).count.toNat, 0, false⟩

/-- Reserved fields of a define are zero (Table SYNC-8, row 1). -/
def bunReserved (p : Nat → Nat) : Bool :=
  decide (bits (p 0) 29 28 ≠ 0) || decide (bits (p 0) 8 0 ≠ 0) || decide (bits (p 1) 31 16 ≠ 0) ||
    (List.range 8).any fun i => decide (bits (p (2 + i)) 19 16 ≠ 0)

/-- Two descriptors may be members of one Bunting: equal `FMT`, `PADW`, `STC`, `STR` and extents. -/
def sameShape (a b : Desc) : Bool :=
  decide (a.fmt = b.fmt) && decide (a.padw = b.padw) && decide (a.stc = b.stc) && decide (a.str = b.str) && decide (a.e = b.e)

/-- Every pair of a list, in order. -/
def pairs {α : Type} : List α → List (α × α)
  | [] => []
  | x :: xs => xs.map (fun y => (x, y)) ++ pairs xs

/-- The rows of Table SYNC-8 after the first. -/
def State.bunStatus (s : State) (ms : List Member) (skew : Nat) : Nat :=
  let ts := ms.filterMap fun m => s.tensor m.handle
  firstStatus [
    (ms.all fun m => (s.tensor m.handle).isSome, 7),
    (ts.all fun t => decide (t.d.loc ≠ 0), 2),
    ((ts.all fun t => decide (t.d.loc ≠ 2) || t.allPeer (List.range t.d.nst)) && decide ((ts.filter fun t => decide (t.d.loc = 2)).length ≤ 1), 2),
    ((pairs ts).all fun e => sameShape e.1.d e.2.d, 2),
    (ms.all fun m => decide (m.credit < s.build.cfg.halyards), 3),
    (decide (skew = 0) || (decide (500 ≤ skew) && decide (skew ≤ 64000)), 3),
    ((pairs ts).all fun e => !e.1.d.meets e.2.d, 5),
    (decide (s.fw.buntings.length < 256) && decide (s.liveHandles < 4095), 6)]

/-- The define operation, and the reserved operation 3. -/
def buntingDefineBody (pick : Nat) (s : State) (p : Nat → Nat) : Ans :=
  let n := bits (p 0) 15 12
  let ms := definedMembers s p
  if bits (p 0) 31 30 ≠ 0 ∨ bunReserved p ∨ bits (p 0) 27 16 ≠ 0 ∨ n = 0 ∨ n > 8 ∨ ms.any (fun m => decide (m.depth = 0)) then Ans.err s 2
  else
    let st := s.bunStatus ms (bits (p 1) 15 0)
    if st ≠ 0 then Ans.err s st
    else match s.newHandle pick with
    | none => Ans.err s 6
    | some k =>
      let s := ms.foldl (fun s m => s.halCheck m.credit) s
      Ans.ok { s with fw := { s.fw with buntings := Tbl.put k ⟨skewOf (bits (p 1) 15 0), ms, 0⟩ s.fw.buntings } } [k, 0]

/-- `BUNTING_DEFINE`: the messages with `OP` 0, and those with the reserved value 3. -/
def execBuntingDefine (pick : BitVec 12) (s : State) : Out :=
  command 0x60 (fun p0 => decide (bits p0 31 30 = 0) || decide (bits p0 31 30 = 3)) (fun s p => (buntingDefineBody pick.toNat s p).verdict) s

/-- Words P1 to P11 and the reserved bits of P0 of a readmit or delete are zero (R250). -/
def bunShort (p : Nat → Nat) : Bool :=
  decide (bits (p 0) 29 28 = 0) && decide (bits (p 0) 8 0 = 0) && (List.range 11).all fun i => decide (p (1 + i) = 0)

/-- A transfer to Bunting `h` is ready and waits for its grants: it goes ahead of a member readmitted now (R241). [Log 53 DEDUCED] -/
def State.readyXfers (s : State) (h : Nat) : Nat :=
  (s.fw.streams.map fun (e : Nat × Stream) => (e.2.xfers.filter fun t => decide (e.2.handleOf t.rs.wr = h) && t.party.isSome && !t.granted).length).sum

/-- The member lies with the peer. -/
def State.peerMember (s : State) (m : Member) : Bool := match s.tensor m.handle with | some t => decide (t.d.loc = 2) | none => false

/-- The readmit operation (R237, R241). [Log 53 DEDUCED] -/
def buntingReadmitBody (s : State) (p : Nat → Nat) : Ans :=
  let h := bits (p 0) 27 16
  let i := bits (p 0) 11 9
  if !bunShort p then Ans.err s 2
  else match Tbl.find s.fw.buntings h with
  | none => Ans.err s 7
  | some b =>
    match b.members[i]? with
    | none => Ans.err s 3
    | some m =>
      if !m.evicted then Ans.err s 2
      else if s.peerMember m ∧ !s.link.up then Ans.err s 8
      else
        let s := s.halCheck m.credit
        let m' := { m with evicted := false, v := (s.hword m.credit).count.toNat, j := 0 }
        let n := b.xfers + s.readyXfers h
        Ans.ok { s with fw := { s.fw with buntings := Tbl.put h { b with members := b.members.set i m' } s.fw.buntings } } [h, n]

/-- `BUNTING_READMIT`: the messages with `OP` 1. -/
def execBuntingReadmit (s : State) : Out :=
  command 0x60 (fun p0 => decide (bits p0 31 30 = 1)) (fun s p => (buntingReadmitBody s p).verdict) s

/-- The delete operation (R236, R241). -/
def buntingDeleteBody (s : State) (p : Nat → Nat) : Ans :=
  let h := bits (p 0) 27 16
  if !bunShort p then Ans.err s 2
  else if (Tbl.find s.fw.buntings h).isNone then Ans.err s 7
  else if s.programNames h || s.streamNames h then Ans.err s 1
  else Ans.ok { s with fw := { s.fw with buntings := Tbl.drop h s.fw.buntings } } [h, 0]

/-- `BUNTING_DELETE`: the messages with `OP` 2. -/
def execBuntingDelete (s : State) : Out :=
  command 0x60 (fun p0 => decide (bits p0 31 30 = 2)) (fun s p => (buntingDeleteBody s p).verdict) s

/-! ### The peer is lost (Table SYNC-9) -/

/-- A stream that writes to Bunting `h`: the lane's Burgee and the `FAULT` reply of an eviction name it. [Log 54 DEDUCED] -/
def State.bunUser (s : State) (h : Nat) : Option (Nat × Stream) :=
  let uses := fun (x : Stream) => match s.progOf x with
    | some p => (substCode x.subst p.insns).any fun i => match i with
      | .base true _ false k _ _ _ => decide (k = h)
      | _ => false
    | none => false
  s.fw.streams.find? fun (e : Nat × Stream) => decide (e.2.idx = 0) && e.2.live && uses e.2

/-- Evict member `i` of Bunting `h`: by the lane of a stream that uses it, or, with no such stream, without a report. [Log 54 DEDUCED] -/
def State.evictPeer (s : State) (h i : Nat) : State :=
  match s.bunUser h with
  | some (c, x) => s.evictMember ((s.physOf x.lane).getD 0) c h i
  | none => match Tbl.find s.fw.buntings h with
    | some b => ({ s with fw := { s.fw with buntings := Tbl.put h (b.evict i) s.fw.buntings } }).leaveParty h i
    | none => s

/-- Every peer member of every Bunting is evicted. [Log 54 DEDUCED] -/
def State.evictPeers (s : State) : State :=
  (s.fw.buntings.flatMap fun (e : Nat × Bunting) => (e.2.liveIdx.filter fun i => match e.2.members[i]? with
    | some m => s.peerMember m
    | none => false).map fun i => (e.1, i)).foldl (fun s e => s.evictPeer e.1 e.2) s

end Sys2Proof.Machine
end

