-- ==== Sys2Proof/Machine/LinkRx.lean ====
section
/-! DEFINITION. Peer-link ingress (Tables LINK-2 to LINK-6, R271-R277): the checks, acknowledgements, what each frame does at the
receiving chip. -/
namespace Sys2Proof

/-- The response a code of Table PORTS-4 names. -/
def Resp.ofCode : Nat → Resp
  | 0 => .ok
  | 1 => .fail
  | 2 => .decode
  | _ => .poison


/-- The cell writes of one row at index `(d1, d2, d3)` from its native bytes. -/
def Desc.rowWrites (d : Desc) (i : V4 Nat) (native : List Byte) : List (Nat × List Byte × BitVec 64) :=
  (List.range (ceilDiv d.e.d0 d.fmt.td0)).map fun c =>
    let n := min (d.e.d0 - c * d.fmt.td0) d.fmt.td0 * (d.fmt.bits / 8)
    ((d.addrOf { i with d0 := c * d.fmt.td0 }).1, slice native (64 * c) 64, BitVec.ofNat 64 (2 ^ n - 1))

/-- The super-tiles a row reaches. -/
def Desc.rowTiles (d : Desc) (i : V4 Nat) : List Nat := (List.range d.n.d0).map fun c => d.stIndex (d.stOf { i with d0 := c * d.w0 })

/-- The coordinates of a row index. -/
def Desc.rowAt (d : Desc) (r : Nat) : V4 Nat := ⟨0, r % d.e.d1, r / d.e.d1 % d.e.d2, r / d.e.d1 / d.e.d2⟩

end Sys2Proof

namespace Sys2Proof.Machine

/-! ### Frames -/

/-- The parts of a transport frame (Table LINK-2). -/
structure RxHead where
  ver : Nat
  type : Nat
  flags : Nat
  seq : Nat
  rcv : Nat
  cmp : Nat
  tag : Nat
  plen : Nat
  session : Nat
  spec : List Byte
  payload : List Byte
  deriving DecidableEq, Repr

/-- Read a field of the type-specific bytes. -/
def RxHead.field (h : RxHead) (o n : Nat) : Nat := fieldLE h.spec o n

/-- The four bytes of a 32-bit type-specific word: 0 for bytes 16 to 19, 1 for bytes 20 to 23. -/
def RxHead.word (h : RxHead) (i : Nat) : Nat := h.field (4 * i) 4

/-- Remove one 802.1Q tag (R267). [Log 85 PRESUMED] -/
def untag (b : List Byte) : List Byte := if fieldLE b 12 2 = 0x0081 then b.take 12 ++ b.drop 16 else b

/-- The EtherType of an untagged frame. -/
def etherType (b : List Byte) : Nat := ofBytesBE (slice b 12 2)

/-- The parts of a frame of at least 68 bytes. -/
def RxHead.of (b : List Byte) : RxHead :=
  { ver := fieldLE b 14 1 / 16
    type := fieldLE b 14 1 % 16
    flags := fieldLE b 15 1
    seq := fieldLE b 16 2
    rcv := fieldLE b 18 2
    cmp := fieldLE b 20 2
    tag := fieldLE b 22 2
    plen := fieldLE b 24 2
    session := fieldLE b 26 2
    spec := slice b 30 32
    payload := slice b 64 (b.length - 68) }

/-- The reserved bits of the type-specific bytes are zero, and no field holds a reserved value (Table LINK-3). [Log 57 DEDUCED] -/
def RxHead.specOk (h : RxHead) : Bool :=
  let w := h.word 0
  let v := h.word 1
  let rest := fun o : Nat => decide (h.field o (32 - o) = 0)
  match h.type with
  | 0 => rest 0
  | 1 => decide (bits v 31 12 = 0) && rest 24
  | 2 => decide (bits v 7 6 = 0) && decide (bits v 15 9 = 0) && rest 24
  | 3 => decide (bits v 15 12 = 0) && decide (bits v 31 23 = 0) && rest 10
  | 4 => decide (bits w 31 16 = 0) && decide (bits v 31 2 = 0) && rest 8
  | 5 => decide (bits w 31 15 = 0) && decide (bits v 31 16 = 0) && rest 8
  | 6 => decide (bits w 31 16 = 0) && decide (bits v 31 2 = 0) && decide (bits v 1 0 ≠ 0) && rest 8
  | _ => decide (bits w 7 2 = 0) && decide (bits w 31 9 = 0) && decide (bits w 1 0 ≠ 3) && rest 12

/-- The payload has the shape Table LINK-3 gives the type. [Log 57 DEDUCED] -/
def RxHead.shapeOk (h : RxHead) : Bool :=
  let n := h.payload.length
  match h.type with
  | 1 => decide (n % 64 = 0) && decide (64 ≤ n)
  | 2 => true
  | 4 => decide (n % 64 = 0)
  | 7 => decide (n = if bits (h.word 0) 1 0 = 1 then 8192 else 0)
  | _ => decide (n = 0)

/-- Row 4 of Table LINK-4: addresses, version, type, reserved fields, session. [Log 57 DEDUCED] -/
def Link.headerOk (l : Link) (b : List Byte) (h : RxHead) : Bool :=
  decide (fieldLE b 0 6 = l.smac.toNat) && decide (fieldLE b 6 6 = l.dmac.toNat) && decide (h.ver = 1) && decide (h.type < 8) &&
    decide (h.flags < 4) && decide (h.tag < 4096) && decide (fieldLE b 28 2 = 0) && decide (fieldLE b 62 2 = 0) && h.specOk &&
    h.shapeOk && (decide (h.type = 7) || decide (h.session = l.peerCtr.toNat))

/-- `FCRC` is right. [Log 59 DEDUCED] -/
def fcrcOk (b : List Byte) : Bool := decide (crc32c (slice b 14 (b.length - 18)) = fieldLE b (b.length - 4) 4)

/-- One `ACK` with `NAK` for each value of `RCV` + 1 (R272). [Log 58 DEDUCED] -/
def State.nakOnce (s : State) : State :=
  let n := (s.link.rcv + 1).toNat
  if s.link.up && decide (s.link.nakFor ≠ some n) then ({ s with link := { s.link with nakFor := some n } }).sendAck true else s

/-- A frame is discarded under counter `k`. [Log 57 DEDUCED] -/
def State.discard (s : State) (k : Nat) : State := (s.linkBump k 1).nakOnce

/-! ### Frames of the peer: what they carry -/

/-- Change an accepted frame. -/
def State.modRx (s : State) (uid : Nat) (f : RxFrame → RxFrame) : State :=
  { s with link := { s.link with rx := s.link.rx.map fun r => if r.uid = uid then f r else r } }

/-- An accepted frame by key. -/
def State.rxOf (s : State) (uid : Nat) : Option RxFrame := s.link.rx.find? fun r => decide (r.uid = uid)

/-- Issue the writes of a frame that are left, while the port takes them; in the safe state no write request is new (Table FAULT-7). -/
def State.issueRxWrites (uid : Nat) (poison : Bool) : List (Nat × List Byte × BitVec 64) → State → State
  | [], s => s
  | w :: rest, s =>
    match (if s.flt.safe then none else s.issueWrite (.rxWrite uid) w.1 w.2.1 w.2.2 poison (crc32c w.2.1)) with
    | some s => State.issueRxWrites uid poison rest (s.modRx uid fun r => { r with outstanding := r.outstanding + 1, todoW := rest })
    | none => s

/-- Issue the reads of a frame that are left, while tags are free. [Log 61 DEDUCED] -/
def State.issueRxReads (uid : Nat) : List (Nat × Nat × Nat) → State → State
  | [], s => s
  | d :: rest, s =>
    match s.issueRead (.rxRead uid d.2.1 d.1 d.2.2) d.2.1 (64 * d.2.2) with
    | some s => State.issueRxReads uid rest (s.modRx uid fun r => { r with outstanding := r.outstanding + 1, todoR := rest })
    | none => s

/-- A frame waits for no port request. -/
def RxFrame.idle (r : RxFrame) : Bool := decide (r.outstanding = 0) && decide (r.todoW = []) && decide (r.todoR = [])

/-- The add of an `HADD` frame is applied, or discarded and counted when the Halyard does not exist (R230). -/
def State.rxHadd (s : State) (r : RxFrame) : State :=
  if s.halExists r.hadd.1 then s.halAdd r.hadd.1 r.hadd.2 true else s.linkBump 10 1

/-- The `RDATA` frame of a served `READ` (Table LINK-6). -/
def RxFrame.reply (r : RxFrame) : TxFrame :=
  ⟨4, 0, toBytes r.rid 4 ++ toBytes r.err 4, if r.err = 0 then (r.rdata.map fun (e : Nat × List Byte) => e.2).flatten else [], false, []⟩

/-- The `STATUS` frame of a failed frame. -/
def RxFrame.report (r : RxFrame) : TxFrame := ⟨6, 0, toBytes r.seq 4 ++ toBytes r.err 4, [], false, []⟩

/-- Carry an accepted frame on (R272, R275, R277): `earlier` are the frames received before it. [Log 61 DEDUCED] -/
def State.serveRx (s : State) (earlier : List RxFrame) (uid : Nat) : State :=
  let turn := earlier.all fun r => r.type ≠ 3 || r.done
  let s := match s.rxOf uid with
    | some r => if r.type = 3 then (if turn then State.issueRxReads uid r.todoR s else s) else State.issueRxWrites uid r.poison r.todoW s
    | none => s
  match s.rxOf uid with
  | none => s
  | some r =>
    if r.done || !r.idle then s
    else match r.type with
    | 3 => if turn then (s.modRx uid fun r => { r with done := true }).egress r.reply else s
    | 5 => if earlier.all RxFrame.idle then (s.modRx uid fun r => { r with done := true }).rxHadd r else s
    | _ =>
      let s := s.modRx uid fun r => { r with done := true }
      if r.err ≠ 0 && s.link.up then s.egress r.report else s

/-- Carry every accepted frame on, in sequence order. -/
def State.serveAll : List Nat → List Nat → State → State
  | _, [], s => s
  | seen, u :: rest, s => State.serveAll (seen ++ [u]) rest (s.serveRx (seen.filterMap s.rxOf) u)

/-- `CMP` may advance over a frame (R272): it is done, and a report of its failure is covered by the peer's `RCV`. -/
def Link.coverable (l : Link) (r : RxFrame) : Bool :=
  r.done && (decide (r.err = 0) || decide (r.type = 3) || (match r.statusSeq with
    | some n => reached16 l.peerRcv.toNat n
    | none => false))

/-- The key of a sequence number of this session. -/
def Link.uidOf (l : Link) (seq : Nat) : Nat := l.trains.toNat * 65536 + seq

/-- Advance `CMP` over the frames at the head; those of an older session leave once they are done. -/
def Link.advanceCmp : List RxFrame → Link → Link
  | [], l => { l with rx := [] }
  | r :: rest, l =>
    if r.uid / 65536 ≠ l.trains.toNat then
      if r.done then Link.advanceCmp rest l else
        let l' := Link.advanceCmp rest l
        { l' with rx := r :: l'.rx }
    else if l.coverable r then Link.advanceCmp rest { l with cmp := BitVec.ofNat 16 r.seq, ackDue := true }
    else { l with rx := r :: rest }

/-- Serve what can be served and advance `CMP`. -/
def State.rxSettle (s : State) : State :=
  let s := State.serveAll [] (s.link.rx.map fun (r : RxFrame) => r.uid) s
  { s with link := Link.advanceCmp s.link.rx s.link }

/-- A write of an accepted frame has its response. -/
def State.rxWrote (s : State) (uid : Nat) (r : Resp) : State :=
  (s.modRx uid fun f => { f with outstanding := f.outstanding - 1, err := if f.err = 0 then r.code else f.err }).rxSettle

/-- A read for a `READ` frame has ended: the cells from `idx` on, or its response. -/
def State.rxRead (s : State) (uid idx n : Nat) (r : Resp) (b : List Byte) : State :=
  (s.modRx uid fun f => { f with
    outstanding := f.outstanding - 1
    err := if f.err = 0 then r.code else f.err
    rdata := (List.range n).foldl (fun t i => Tbl.put (idx + i) (slice b (64 * i) 64) t) f.rdata }).rxSettle

/-! ### Acknowledgements (R271-R274) -/

/-- Writes of a transfer that travelled in frames have completed. -/
def State.ownerDone (s : State) (o : FrameOwner) : State :=
  let s := s.modXfer o.sctx o.xfer fun t => { t with outstanding := t.outstanding - o.n }
  s.checkComplete ((s.laneOf o.sctx).getD o.phys) o.sctx o.xfer

/-- `CMP` covers frame `n`: its slot is free, and its writes have completed unless a `STATUS` named it (R273, R274). -/
def State.covered (s : State) (n : Nat) : State :=
  let f := Tbl.find s.link.retry n
  let s := { s with link := { s.link with retry := Tbl.drop n s.link.retry } }
  ((f.map TxFrame.owners).getD []).foldl State.ownerDone s

/-- The frames from `a` + 1 to `b`. -/
def seqRange (a b : BitVec 16) : List Nat := (List.range (b - a).toNat).map fun i => (a.toNat + 1 + i) % 65536

/-- Use the `RCV` and `CMP` of a frame (R271, R273): they count as far as they name frames sent. [Log 58 DEDUCED] -/
def State.useAcks (s : State) (rcv cmp : BitVec 16) : State :=
  let l := s.link
  let s := if (rcv - l.peerRcv).toNat ≤ (l.seq - 1 - l.peerRcv).toNat ∧ rcv ≠ l.peerRcv then
      { s with link := { l with peerRcv := rcv, expiries := 0 } } else s
  let l := s.link
  let s := if (cmp - l.peerCmp).toNat ≤ (l.peerRcv - l.peerCmp).toNat then
      (seqRange l.peerCmp cmp).foldl State.covered { s with link := { l with peerCmp := cmp } } else s
  (s.pump).rxSettle

/-! ### Tensor frames (Table LINK-6) -/

/-- The live handle with `LOC` 2 that holds a tag. -/
def State.tagged (s : State) (tag : Nat) : Option Tensor :=
  (s.fw.tensors.find? fun (e : Nat × Tensor) => decide (e.2.d.loc = 2) && decide (e.2.d.peerTag = tag)).map (·.2)

/-- The local owner entry of a super-tile is 0x00. -/
def Tensor.mine (t : Tensor) (sti : Nat) : Bool := decide (nth 0xFF#8 t.owner sti = 0x00)

/-- The address of the first of `n` cells of a super-tile, when rows 2 and 3 of Table LINK-6 pass. -/
def Tensor.cellRun (t : Tensor) (sti first n : Nat) : Option Nat :=
  if sti < t.d.nst ∧ first + n ≤ t.d.f / 64 ∧ t.mine sti then some (t.d.stAddr (t.d.stCoord sti) + 64 * first) else none

/-- The writes of a `WRITE` frame (Table LINK-3); a cell without an enabled byte has none (R381). -/
def RxHead.cellWrites (h : RxHead) (a : Nat) : List (Nat × List Byte × BitVec 64) :=
  let n := h.payload.length / 64
  ((List.range n).map fun i =>
    let be := if i = 0 then BitVec.ofNat 64 (h.field 8 8) else if i + 1 = n then BitVec.ofNat 64 (h.field 16 8) else beAll
    (a + 64 * i, slice h.payload (64 * i) 64, be)).filter fun w => decide (w.2.2 ≠ 0)

/-- The payload bytes of a row of `n` elements (R276); none for a format or kind that has none. [Log 61 DEDUCED] -/
def rowLength (f : Fmt) (n kind : Nat) (int4 : Bool) : Option Nat :=
  if !narrowSide (some f) || decide (kind = 3) || (int4 && f.complex) then none
  else if kind = 2 then some (n * (f.bits / 8))
  else if int4 then some ((n + 1) / 2)
  else some (if f.complex then 2 * n else n)

/-- The native bytes of a row's slots (Table WIRE-4). -/
def rowSlots (kind : Nat) (int4 : Bool) (parts : Nat) (b : List Byte) : List Byte :=
  if kind = 2 then b
  else (List.range parts).flatMap fun i =>
    let q := if int4 then signed 4 (bits (nth 0#8 b (i / 2)).toNat (4 * (i % 2) + 3) (4 * (i % 2))) else signed 8 (nth 0#8 b i).toNat
    toBytes (wrap 16 q) 2

/-- Cut a payload into rows of the given lengths. [Log 61 DEDUCED] -/
def cutRows : List Nat → List Byte → List (List Byte)
  | [], _ => []
  | n :: rest, b => b.take n :: cutRows rest (b.drop n)

/-- The writes of a `ROWS` frame (R276), or none when a row of Table LINK-6 refuses it. [Log 61 DEDUCED] -/
def RxHead.rowsWrites (h : RxHead) (t : Tensor) : Option (List (Nat × List Byte × BitVec 64)) :=
  let v := h.word 1
  let int4 := bitOn v 8
  let n := bits v 31 16
  let k := bits v 5 0 + 1
  let first := h.word 0
  let kinds := (List.range k).map fun i => bits (h.field 8 16) (2 * i + 1) (2 * i)
  let rows := (List.range k).map fun i => t.d.rowAt (first + i)
  if n ≠ t.d.e.d0 ∨ first + k > t.d.e.d1 * t.d.e.d2 * t.d.e.d3 then none
  else if !(rows.all fun r => (t.d.rowTiles r).all t.mine) then none
  else (kinds.mapM fun q => rowLength t.d.fmt n q int4).bind fun lens =>
    if lens.sum ≠ h.payload.length then none
    else
      let parts := n * (if t.d.fmt.complex then 2 else 1)
      some (((rows.zip kinds).zip (cutRows lens h.payload)).flatMap fun e => t.d.rowWrites e.1.1 (rowSlots e.1.2 int4 parts e.2))

/-- Split `n` cells from address `a` into port requests (R30): first index, address and count of each; `fuel` bounds them. -/
def windowRuns : Nat → Nat → Nat → Nat → List (Nat × Nat × Nat)
  | 0, _, _, _ => []
  | _, _, _, 0 => []
  | f + 1, i, a, n =>
    let m := min n ((4096 - a % 4096) / 64)
    (i, a, m) :: windowRuns f (i + m) (a + 64 * m) (n - m)

/-- A frame as it is accepted. -/
def RxHead.accepted (h : RxHead) (uid : Nat) : RxFrame :=
  { uid := uid, seq := h.seq, type := h.type, poison := bitOn h.flags 1, outstanding := 0, todoW := [], todoR := [], err := 0, statusSeq := none
    done := decide (h.type = 4) || decide (h.type = 6), rid := 0, rdata := [], hadd := (0, 0) }

/-- What an accepted tensor frame or relayed add asks of this chip (Table LINK-6). -/
def State.rxWork (s : State) (h : RxHead) (uid : Nat) : RxFrame :=
  let r := h.accepted uid
  let refused := { r with err := 2 }
  match h.type, s.tagged h.tag with
  | 1, some t => match t.cellRun (h.word 0) (bits (h.word 1) 11 0) (h.payload.length / 64) with
    | some a => { r with todoW := h.cellWrites a }
    | none => refused
  | 2, some t => match h.rowsWrites t with
    | some l => { r with todoW := l }
    | none => refused
  | 3, some t =>
    let n := bits (h.word 1) 22 16 + 1
    match t.cellRun (h.word 0) (bits (h.word 1) 11 0) n with
    | some a => { r with rid := h.field 8 2, todoR := windowRuns 4 0 a n }
    | none => { refused with rid := h.field 8 2 }
  | 3, none => { refused with rid := h.field 8 2 }
  | 1, none => refused
  | 2, none => refused
  | 5, _ => { r with hadd := (bits (h.word 0) 14 0, bits (h.word 1) 15 0) }
  | _, _ => r

/-! ### Answers of the peer (R274) -/

/-- Format L of a peer-link address (Table FAULT-3). [Logs 59, 60 DEDUCED] -/
def formatL (seq sti : Nat) : Nat := seq % 65536 * 2 ^ 30 + sti % 65536

/-- A peer-link access of a transfer was answered other than `OK` (R118, R274). [Log 60 DEDUCED] -/
def State.peerError (s : State) (o : FrameOwner) (write : Bool) (r : Resp) (addr : Nat) : State :=
  let p := (s.laneOf o.sctx).getD o.phys
  (s.raise ⟨0, p, 6 + busKind write r, addr⟩).errXfer p o.sctx o.xfer r addr

/-- `RDATA`: the read that chose the identifier completes (R274, R277). Data marked poisoned takes response `POISON`. -/
def State.rxData (s : State) (h : RxHead) : State :=
  match Tbl.find s.link.reads (bits (h.word 0) 15 0) with
  | none => s
  | some q =>
    let s := { s with link := { s.link with reads := Tbl.drop (bits (h.word 0) 15 0) s.link.reads } }
    let code := Resp.ofCode (bits (h.word 1) 1 0)
    let r := if code ≠ .ok then code else if bitOn h.flags 1 then .poison else if h.payload.length ≠ 64 * q.keys.length then .fail else .ok
    let s := s.charge q.owner.sctx q.owner.xfer linkClass ((h.payload.length + 66 + 63) / 64)
    if r = .ok then s.putData q.owner.sctx q.owner.xfer (nth 0 q.keys 0) q.keys.length h.payload
    else (s.putCells q.owner.sctx q.owner.xfer q.keys (.bad r)).peerError q.owner false r (formatL q.seq q.sti)

/-- The super-tile index of format L: that of the frame; a frame that carries none leaves the field free. [Log 59 DEDUCED] -/
def State.stiOr (s : State) (sti : Option Nat) : State × Nat :=
  match sti with
  | some n => (s, n)
  | none =>
    let (b, s) := s.freeBytes 2
    (s, fieldLE b 0 2)

/-- A frame is discarded for its CRC (Table LINK-4): counted, with a `LINK_CRC` Burgee of the `SEQ` and `STI` as received. [Log 59 DEDUCED] -/
def State.discardCrc (s : State) (h : RxHead) : State :=
  let (s, sti) := s.stiOr (if h.type = 1 ∨ h.type = 3 then some (h.word 0) else none)
  (s.raise ⟨5, 1, 42, formatL h.seq sti⟩).discard 5

/-- `STATUS`: a write response of its code for the frame it names (R274). [Log 60 DEDUCED] -/
def State.rxStatus (s : State) (h : RxHead) : State :=
  let n := bits (h.word 0) 15 0
  match Tbl.find s.link.retry n with
  | none => s
  | some f =>
    if f.owners = [] then s
    else
      let s := { s with link := { s.link with retry := Tbl.put n { f with owners := [] } s.link.retry } }
      let (s, sti) := s.stiOr (if f.type = 1 then some (fieldLE f.spec 0 4) else none)
      f.owners.foldl (fun s o =>
        (s.modXfer o.sctx o.xfer fun t => { t with outstanding := t.outstanding - o.n }).peerError o true (Resp.ofCode (bits (h.word 1) 1 0)) (formatL n sti)) s

/-! ### One frame -/

/-- Bytes of the ingress crossing (Table ARCH-6) that the cells of accepted frames still hold. [Log 88 DESIGN CHOICE] -/
def Link.ingressUsed (l : Link) : Nat := (l.rx.map fun (r : RxFrame) => 64 * r.todoW.length).sum

/-- The checks of Table LINK-4 down to `FCRC`: the state after a discard, or the parts of the frame. `full` says that the crossing has not yet
handed on enough of earlier frames. [Log 58 DEDUCED] -/
def State.screen (s : State) (f : Frame) (full : Bool) : State ⊕ RxHead :=
  let b := untag f.bytes
  let h := RxHead.of b
  if full || decide (16384 < s.link.ingressUsed + 9216) then .inl (s.discard 6)
  else if f.bad then .inl (s.discardCrc h)
  else if b.length < 68 ∨ b.length > 8260 ∨ h.plen ≠ b.length - 68 then .inl (s.discard 8)
  else if !s.link.headerOk b h then .inl (s.discard 8)
  else if !fcrcOk b then .inl (s.discardCrc h)
  else .inr h

/-- A sequenced frame in its order is accepted (R272). -/
def State.acceptSeq (s : State) (h : RxHead) : State :=
  let s := { s with link := { s.link with rcv := BitVec.ofNat 16 h.seq, nakFor := none, ackDue := true } }.linkBump 4 1
  let s := { s with link := { s.link with rx := s.link.rx ++ [s.rxWork h (s.link.uidOf h.seq)] } }
  let s := if h.type = 4 then s.rxData h else if h.type = 6 then s.rxStatus h else s
  s.rxSettle

/-- A frame that passes Table LINK-4 while the link is up (R272, R273): a `NAK` brings the resend. [Log 58 DEDUCED] -/
def State.takeUp (s : State) (h : RxHead) : State :=
  let s := s.useAcks (BitVec.ofNat 16 h.rcv) (BitVec.ofNat 16 h.cmp)
  let s := if bitOn h.flags 0 then s.resend else s
  if h.type = 0 then s
  else if h.seq ≠ (s.link.rcv + 1).toNat then s.discard 7
  else s.acceptSeq h

/-! ### Training and loss (R279-R283) -/

/-- Link accesses of a transfer that are not complete: its writes in frames sent or waiting, and its reads. -/
def Link.openWrites (l : Link) (c id : Nat) : Nat :=
  let own := fun o : FrameOwner => if o.sctx = c ∧ o.xfer = id then o.n else 0
  ((l.retry.map (·.2) ++ l.waitQ ++ (match l.open_ with | some o => [o.frame] | none => [])).map fun (f : TxFrame) => (f.owners.map own).sum).sum

/-- The reads of a transfer that the peer has not answered. -/
def Link.openReads (l : Link) (c id : Nat) : List PeerRead :=
  (l.reads.map (·.2)).filter fun (q : PeerRead) => decide (q.owner.sctx = c) && decide (q.owner.xfer = id)

/-- The link accesses of one transfer are dropped (R283, Table SYNC-9): a remote-end stream's transfer ends in error; one that
only writes to a Bunting goes on without the peer member. [Log 65 DEDUCED] -/
def State.dropXferLink (s : State) (l : Link) (remote : Bool) (c id : Nat) : State :=
  let n := l.openWrites c id
  let qs := l.openReads c id
  if n = 0 ∧ qs = [] then s
  else
    let s := qs.foldl (fun s q => s.putCells c id q.keys (.bad .fail)) s
    let s := s.modXfer c id fun t => { t with outstanding := t.outstanding - n }
    if remote then s.modXfer c id fun t => { t with err := some (t.err.getD .fail) }
    else if qs ≠ [] then s.errXfer ((s.laneOf c).getD 0) c id .fail 0
    else s.checkComplete ((s.laneOf c).getD 0) c id

/-- Every link access not complete is dropped; the link's own queues are emptied. [Log 65 DEDUCED] -/
def State.dropAccesses (s : State) : State :=
  let l := s.link
  let s := { s with link := { l with retry := [], waitQ := [], txQ := l.txQ.filter fun x => decide (x = TxItem.train 2), ackQ := [], open_ := none, reads := [], rx := l.rx.filter fun (r : RxFrame) => decide (r.type ≠ 3) } }
  s.fw.streams.foldl (fun s (e : Nat × Stream) => e.2.xfers.foldl (fun s t => s.dropXferLink l (s.remoteEnd e.2) e.1 t.id) s) s

/-- The remote-end streams that are Active off a lane, or Queued (R283). [Log 65 DEDUCED] -/
def State.strays (s : State) : List Nat :=
  let on := s.build.cfg.physLanes.flatMap s.laneStreams
  (s.fw.streams.filter fun (e : Nat × Stream) => s.remoteEnd e.2 && (decide (e.2.st = .queued) || (decide (e.2.st = .active) && !on.contains e.1))).map (·.1)

/-- The remote-end streams on no lane become Held, with one `FAULT` reply for them (R283); their records are due (R262). [Log 64 DESIGN CHOICE; log 65 DEDUCED] -/
def State.holdStrays (s : State) : State :=
  let cs := s.strays
  if cs = [] then s
  else
    let s := cs.foldl (fun s c => (s.delist c).modStream c fun x => x.hold [.peer]) s
    let s := { s with fw := { s.fw with admitQ := s.fw.admitQ.filter fun c => !cs.contains c } }
    let s := cs.foldl (fun s c => match s.stream c with
      | some x => s.modStream (c - x.idx) fun y => { y with owed := true }
      | none => s) s
    s.faultReply ⟨6, 15, 0, 0, 0, 0, (cs.flatMap s.oneStream).take 4⟩

/-- Some lane has not yet reported that it holds for the loss of the peer. -/
def State.lossOpen (s : State) : Bool :=
  s.build.cfg.physLanes.any fun p => ((s.lane p).stops.contains (.halt .peer) && !(s.lane p).reported.contains (.halt .peer)) ||
    (s.lane p).report.any fun r => match r with
      | .held (.halt .peer) .. => true
      | _ => false

/-- `LINK_STATE` with the reason of a loss follows the lanes' `FAULT` replies (R283 steps 5 and 6). -/
def State.tellLoss (s : State) : State :=
  match s.link.lossNews with
  | some p => if s.lossOpen then s else ({ s with link := { s.link with lossNews := none } }).sendLinkState p
  | none => s

/-- The peer is lost for `reason` (R282, R283). [Logs 61, 65 DEDUCED] -/
def State.losePeer (s : State) (reason : Nat) : State :=
  let n := s.link.unackedAdds
  let s := ({ s with link := { s.link with st := 4, loss := reason } }.linkBump 14 1).linkBump 10 n
  let s := s.evictPeers.dropAccesses
  let ps := s.build.cfg.physLanes.filter fun p => (s.laneStreams p).any fun c => s.holdsFor c .peer
  let s := ps.foldl (fun s p => s.stopLane p (.halt .peer)) s
  ({ s.holdStrays with link := { s.holdStrays.link with lossNews := some (s.holdStrays.link.stateWord reason) } }).tellLoss

/-- The session opens (R280 step 5): numbers start under R271, `LINK_UP` is answered, and a last `HELLO` carries this side's report. -/
def State.linkOpen (s : State) : State :=
  let st := if s.link.reducedNow then 3 else 2
  let s := { s with link := { s.link with
    st := st, seq := 0, rcv := 0xFFFF, cmp := 0xFFFF, peerRcv := 0xFFFF, peerCmp := 0xFFFF, retry := [], waitQ := [], open_ := none, reads := []
    nakFor := none, ackDue := false, expiries := 0 } }
  let s := s.sendTrain 0
  match s.ctl.hand with
  | some (.waiting _ _ .linkUp) => (s.finishHand 0 [st]).linkStateReply 0
  | _ => s.linkStateReply 0

/-- Training is over once this side's egress has passed and the peer's series is in. [Log 62 DEDUCED] -/
def State.tryOpen (s : State) : State := if s.link.st = 1 && s.link.egressOk && decide (s.link.peerIntact = 256) then s.linkOpen else s

/-- Send a series of 256 probes (R280 step 3). [Log 62 DEDUCED] -/
def State.sendSeries (s : State) : State := (List.range 256).foldl (fun s _ => s.sendTrain 1) { s with link := { s.link with seriesSent := true } }

/-- A `HELLO` while training (R280 steps 3 and 4). [Log 62 DEDUCED] -/
def State.helloTraining (s : State) (h : RxHead) : State :=
  let pc := BitVec.ofNat 16 (h.field 4 2)
  let seen := decide (h.field 6 2 = s.link.trains.toNat)
  let l := s.link
  let s := { s with link := if pc = l.peerCtr then l else { l with peerCtr := pc, peerIntact := 0, peerReduced := bitOn (h.word 0) 8 } }
  if !seen then s
  else
    let s := { s with link := { s.link with helloBack := true } }
    if !s.link.seriesSent then s.sendSeries
    else if h.field 8 4 = 256 then ({ s with link := { s.link with egressOk := true } }).tryOpen
    else if s.link.egressOk || s.link.reducedNow then s
    else { s with link := { s.link with reducedNow := true } }.sendSeries

/-- A `PROBE` while training: an intact one counts for the peer's latest series (R280). [Log 62 DEDUCED] -/
def State.probeTraining (s : State) (h : RxHead) : State :=
  let red := bitOn (h.word 0) 8
  if h.field 4 2 ≠ s.link.peerCtr.toNat then s
  else
    let n := if red = s.link.peerReduced then s.link.peerIntact else 0
    let good := h.payload = probePayload
    ({ s with link := { s.link with peerReduced := red, peerIntact := if good then min (n + 1) 256 else n } }).tryOpen

/-- A `TRAIN` frame. [Log 62 DEDUCED] -/
def State.takeTrain (s : State) (h : RxHead) : State :=
  match bits (h.word 0) 1 0 with
  | 0 => if s.link.st = 1 then s.helloTraining h else if h.field 4 2 ≠ s.link.peerCtr.toNat then s.losePeer 4 else s
  | 1 => if s.link.st = 1 then s.probeTraining h else s
  | _ => if s.link.up then s.losePeer 5 else s

/-- A frame arrives from the MAC side for the row of type `ty` (of a `TRAIN` frame, with `OP` `op`): with another EtherType it is no
transport frame; one whose type is another row's is not this row's; while the link is down nothing is accepted (Table LINK-7). -/
def ingress (ty op : Nat) (f : Frame) (full : Bool) (s : State) : State :=
  let b := untag f.bytes
  let h := RxHead.of b
  let other := decide (b.length ≥ 68) && decide (h.type < 8) &&
    (decide (h.type ≠ ty) || (decide (ty = 7) && decide (bits (h.word 0) 1 0 < 3) && decide (bits (h.word 0) 1 0 ≠ op)))
  if etherType b ≠ s.link.etype.toNat ∨ other then s
  else match s.screen f full with
  | .inl s => s
  | .inr h =>
    if !(s.link.up || decide (s.link.st = 1)) then s
    else if h.type = 7 then s.takeTrain h
    else if s.link.up then (s.takeUp h).tallyBlock linkClass f.beats.length
    else s

/-- `WRITE_FRAME` (R275, R276). -/
def execWriteFrame (f : Frame) (full : Bool) (s : State) : Out := running s (ingress 1 0 f full)
/-- `ROWS_FRAME` (R181, R276). -/
def execRowsFrame (f : Frame) (full : Bool) (s : State) : Out := running s (ingress 2 0 f full)
/-- `READ_FRAME` (R275, R277). -/
def execReadFrame (f : Frame) (full : Bool) (s : State) : Out := running s (ingress 3 0 f full)
/-- `RDATA_FRAME` (R274). -/
def execRdataFrame (f : Frame) (full : Bool) (s : State) : Out := running s (ingress 4 0 f full)
/-- `HADD_FRAME` (R230). -/
def execHaddFrame (f : Frame) (full : Bool) (s : State) : Out := running s (ingress 5 0 f full)
/-- `STATUS_FRAME` (R274). -/
def execStatusFrame (f : Frame) (full : Bool) (s : State) : Out := running s (ingress 6 0 f full)
/-- `ACK_FRAME` (R271-R273). -/
def execAckFrame (f : Frame) (full : Bool) (s : State) : Out := running s (ingress 0 0 f full)
/-- `TRAIN_HELLO_FRAME` (R280, Table LINK-10). -/
def execTrainHelloFrame (f : Frame) (full : Bool) (s : State) : Out := running s (ingress 7 0 f full)
/-- `PROBE_FRAME` (R280). -/
def execProbeFrame (f : Frame) (full : Bool) (s : State) : Out := running s (ingress 7 1 f full)
/-- `BYE_FRAME` (R281, Table LINK-10). -/
def execByeFrame (f : Frame) (full : Bool) (s : State) : Out := running s (ingress 7 2 f full)

end Sys2Proof.Machine
end

