-- ==== Sys2Proof/Machine/LinkCtl.lean ====
section
/-! DEFINITION. The peer link from this side (R268, R272, R273, R278-R284, R288-R290): `LINK_UP` and `LINK_DOWN`, timers, the link-status pin, and
the pass-through with its transparent clock. -/
namespace Sys2Proof.Machine

/-! ### `LINK_UP` and `LINK_DOWN` -/

/-- Bytes of the retry buffer: 256 slots of 9 KiB (R273). -/
def retryBytes : Nat := 2359296

/-- Release the retry buffer. [Log 63 DEDUCED] -/
def State.freeBuffer (s : State) : State :=
  match s.link.buf with
  | some a => let s := s.unhold a retryBytes
    { s with link := { s.link with buf := none } }
  | none => s

/-- An EtherType that `LINK_UP` refuses (Table LINK-8); 0 selects 0x88B5. -/
def badEtype (e : Nat) : Bool := (decide (e ≠ 0) && decide (e < 0x0600)) || decide (e = 0x8100) || decide (e = 0x88A8) || decide (e = 0x88F7)

/-- A MAC address that `LINK_UP` refuses: zero, or with the group bit of its first octet. [Log 21 PRESUMED] -/
def badMac (m : Nat) : Bool := decide (m = 0) || bitOn m 0

/-- `LINK_UP` (Table LINK-8, R280): the session's settings are taken and training begins. [Log 7 DESIGN CHOICE] -/
def linkUpBody (place : Nat) (s : State) (p : Nat → Nat) : State × Verdict :=
  let dmac := p 1 + bits (p 2) 15 0 * 2 ^ 32
  let smac := p 3 + bits (p 4) 15 0 * 2 ^ 32
  let etype := bits (p 0) 15 0
  if s.link.st = 5 then (s, .done 9 [])
  else if s.link.st ≠ 0 ∧ s.link.st ≠ 4 then (s, .done 1 [])
  else if bits (p 0) 31 17 ≠ 0 ∨ bits (p 2) 31 16 ≠ 0 ∨ bits (p 4) 31 16 ≠ 0 ∨ badMac dmac ∨ badMac smac ∨ badEtype etype then (s, .done 2 [])
  else match s.freeBuffer.holdPlace place retryBytes with
  | none => (s, .done 6 [])
  | some a =>
    let s := s.freeBuffer.hold a retryBytes
    let red := bitOn (p 0) 16 || s.boot.linkReduced
    let s := { s with link := { s.link with
      st := 1, trains := s.link.trains + 1, etype := if etype = 0 then 0x88B5 else BitVec.ofNat 16 etype
      dmac := BitVec.ofNat 48 dmac, smac := BitVec.ofNat 48 smac, reducedReq := red, reducedNow := red, peerCtr := 0xFFFF, helloBack := false
      seriesSent := false, egressOk := false, peerIntact := 0, peerReduced := false, buf := some a } }
    (s.linkStateReply 0, .wait .linkUp)

/-- `LINK_UP`. -/
def execLinkUp (place : Nat) (s : State) : Out := command 0x70 anyVariant (linkUpBody place) s

/-- A remote-end stream is Active or Queued (R281). -/
def State.remoteBusy (s : State) : Bool :=
  s.fw.streams.any fun (e : Nat × Stream) => (decide (e.2.st = .active) || decide (e.2.st = .queued)) && s.remoteEnd e.2

/-- The session ends (R281 steps 2 to 5): `BYE` three times, adds counted, peer members evicted, the buffer released. [Log 63 DEDUCED] -/
def State.closeLink (s : State) : State :=
  let s := if s.link.up then ((s.sendTrain 2).sendTrain 2).sendTrain 2 else s
  let s := s.linkBump 10 s.link.unackedAdds
  let s := if s.link.up then s.evictPeers.dropAccesses else s
  { s.freeBuffer with link := { s.freeBuffer.link with st := 0 } }

/-- `LINK_DOWN` (R281). While no session is open there is nothing to wait for. [Log 63 DEDUCED] -/
def linkDownBody (s : State) (_ : Nat → Nat) : State × Verdict :=
  if s.remoteBusy then (s, .done 1 [])
  else if s.link.up then (s.closeWrite, .wait .linkDown)
  else if s.link.st = 4 then (s.closeLink.linkStateReply 0, .done 0 [])
  else (s, .done 0 [])

/-- `LINK_DOWN`. -/
def execLinkDown (s : State) : Out := command 0x71 anyVariant linkDownBody s

/-! ### Timers and the link-status pin -/

/-- `RETRY_TIMER_EXPIRY` (R273, R282): the unreceived frames are sent again; the eighth expiry in a row is a loss. -/
def execRetryTimerExpiry (s : State) : Out :=
  running s fun s =>
    if !s.link.up || !s.link.sentOpen then s
    else
      let s := ({ s with link := { s.link with expiries := s.link.expiries + 1 } }).linkBump 2 1
      if s.link.expiries ≥ 8 then s.losePeer 3 else s.resend

/-- `ACK_TIMER` (R272): 0.5 µs after `RCV` or `CMP` has advanced, or 1 µs without a frame. -/
def execAckTimer (s : State) : Out := running s fun s => if s.link.up then s.sendAck false else s

/-- `FRAME_CLOSE_TIMER` (R278): no next cell within 64 LCLK cycles. -/
def execFrameCloseTimer (s : State) : Out := running s fun s => if s.link.up then s.closeWrite else s

/-- `TRAIN_HELLO_TIMER` (R280): every 1 µs while training. -/
def execTrainHelloTimer (s : State) : Out := running s fun s => if s.link.st = 1 then s.sendTrain 0 else s

/-- `LINK_TRAIN_TIMEOUT` (Table LINK-8): training has not finished within 1 ms. -/
def execLinkTrainTimeout (s : State) : Out :=
  running s fun s =>
    if s.link.st ≠ 1 then s
    else
      let s := s.freeBuffer
      let s := { s with link := { s.link with st := 0 } }
      (match s.ctl.hand with
        | some (.waiting _ _ .linkUp) => s.finishHand 8 []
        | _ => s).linkStateReply 0

/-- `PL_LINK_UP_FALL` (R282): the link-status input goes low. -/
def execPlLinkUpFall (s : State) : Out := onPin s (fun p => { p with plLinkUp := false }) id

/-- `PL_LINK_UP_RISE` (R282): the input goes high again. -/
def execPlLinkUpRise (s : State) : Out := onPin s (fun p => { p with plLinkUp := true }) id

/-- `LINK_STATUS_TIMER` (Table LINK-10, reason 1): the input has stayed low for 1 µs; the session may have opened meanwhile. -/
def execLinkStatusTimer (s : State) : Out :=
  running s fun s => if s.link.up && !s.pins.plLinkUp then s.losePeer 1 else s

/-- `LINK_IDLE_TIMER` (Table LINK-10, reason 2): no frame has passed Table LINK-4 for 20 µs. -/
def execLinkIdleTimer (s : State) : Out := running s fun s => if s.link.up then s.losePeer 2 else s

/-! ### Pass-through and transparent clock (R268, R288-R290, R392) -/

/-- The offset of the EtherType after at most one 802.1Q tag. [Log 21 PRESUMED] -/
def typeAt (b : List Byte) : Nat := if ofBytesBE (slice b 12 2) = 0x8100 then 16 else 12

/-- A PTP event message (R288): EtherType 0x88F7 and `messageType` 0 to 3. [Log 85 PRESUMED] -/
def ptpEvent (b : List Byte) : Bool :=
  let o := typeAt b
  decide (ofBytesBE (slice b o 2) = 0x88F7) && decide (b.length > o + 2) && decide (fieldLE b (o + 2) 1 % 16 ≤ 3)

/-- The block corrects the message (R288). -/
def State.corrects (s : State) (b : List Byte) : Bool :=
  let o := typeAt b + 2
  let kind := fieldLE b o 1 % 16
  ptpEvent b && decide (fieldLE b (o + 1) 1 % 16 = 2) && decide (ofBytesBE (slice b (o + 2) 2) ≥ 34) && decide (b.length ≥ o + 34) &&
    ((decide (kind ≠ 0) && decide (kind ≠ 3)) || !bitOn (fieldLE b (o + 6) 1) 1) && s.time.tsLock

/-- The message with its residence in units of 2^-16 ns added to `correctionField`, saturating at the top (R290). -/
def addResidence (b : List Byte) (resid : Int) : List Byte :=
  let o := typeAt b + 2 + 8
  let sum := signed 64 (ofBytesBE (slice b o 8)) + resid
  let top : Int := 2 ^ 63 - 1
  splice b o (toBytesBE (wrap 64 (if sum > top then top else sum)) 8)

/-- A pass-through frame as it leaves with the stamp Te (R288-R290): corrected while the time-stamp unit is locked at both sides, or unchanged,
and counted when it is a PTP event message. -/
def State.passFrame (s : State) (f : PassFrame) (te : Nat) : State × List Byte :=
  if f.locked && s.corrects f.bytes then (s.linkBump 11 1, addResidence f.bytes ((te : Int) - (f.ti : Int)))
  else (if ptpEvent f.bytes then s.linkBump 12 1 else s, f.bytes)

/-- A stamp of the LCLK copy of `NS_CNT`, in units of 2^-16 ns (R289): it lies within 2 ns of the counter. [Log 20 DESIGN CHOICE] -/
def State.stamp (s : State) : Nat × State :=
  let d := (Config.freeWord s.free).toNat % 262145
  (s.time.ns.toNat * 65536 + s.time.frac.toNat / 65536 + d - 131072, { s with free := s.free + 1 })

/-- Bytes in a pass-through queue (R268). -/
def passUsed (l : List PassFrame) : Nat := (l.map fun f : PassFrame => f.bytes.length).sum

/-- A queue has at least 9,216 of its 16,384 bytes free (R268). -/
def passRoom (l : List PassFrame) : Bool := decide (passUsed l + 9216 ≤ 16384)

/-- The EtherType of a frame that may carry one tag is the transport's. -/
def State.isTransport (s : State) (b : List Byte) : Bool := decide (ofBytesBE (slice b (typeAt b) 2) = s.link.etype.toNat)

/-- `MAC_PASS_THROUGH` (Table LINK-1): a frame of the MAC side that is no transport frame enters the MAC-to-host queue with its stamp. -/
def execMacPassThrough (f : Frame) (s : State) : Out :=
  running s fun s =>
    if s.isTransport f.bytes then s
    else if f.bad then s.linkBump 5 1
    else if f.bytes.length > 9216 ∨ !passRoom s.link.toHost then s.linkBump 13 1
    else
      let (ti, s) := s.stamp
      { s with link := { s.link with toHost := s.link.toHost ++ [⟨f.bytes, ti, s.time.tsLock⟩] } }

/-- `HOST_PASS_THROUGH` (Table LINK-1): a frame of the host side enters the host-to-MAC queue; with the transport EtherType it is discarded.
While the queue lacks room the side holds its input not ready. -/
def execHostPassThrough (f : Frame) (s : State) : Out :=
  running s fun s =>
    if !passRoom s.link.toMac then s
    else if f.bad then s.linkBump 5 1
    else if f.bytes.length > 9216 then s.linkBump 13 1
    else if s.isTransport f.bytes then s.linkBump 8 1
    else
      let (ti, s) := s.stamp
      { s with link := { s.link with toMac := s.link.toMac ++ [⟨f.bytes, ti, s.time.tsLock⟩] } }

/-! ### The outputs of the port (R269, R273) -/

/-- Which frame the MAC-side output takes next (R269). -/
inductive Egress where
  | ack (nak : Bool)
  | host (f : PassFrame)
  | transport (x : TxItem)
  | none
  deriving DecidableEq, Repr

/-- The choice at a frame boundary (R269): a waiting `ACK`; otherwise the host's frames and transport frames, one by one while both wait. -/
def Link.choose (l : Link) : Egress :=
  match l.ackQ, l.toMac, l.txQ with
  | n :: _, _, _ => .ack n
  | [], f :: _, [] => .host f
  | [], [], x :: _ => .transport x
  | [], f :: _, x :: _ => if l.hostTurn then .host f else .transport x
  | [], [], [] => .none

/-- A sequenced frame begins (R273, Table FAULT-7): poisoned in the safe state, and written to its slot of the retry buffer; an injected flaw (R348, site 5)
spoils its `FCRC`. -/
def State.beginSeq (s : State) (n : Nat) (again : Bool) (f : TxFrame) : State :=
  let f := { f with poison := f.poison || s.flt.safe }
  let b := linkFrame s.link f.type n f.tag false f.poison f.spec f.payload s.link.flawCrc
  let s := { s with link := { s.link with retry := Tbl.put n f s.link.retry, sending := some ⟨b, true, some n⟩, flawCrc := false, ackDue := false } }
  let s := if again then s.linkBump 1 1 else s
  match s.link.buf with
  | some a => if again then s else s.plateFill (a + n % 256 * 9216) b
  | none => s

/-- The MAC-side output begins its next frame. -/
def State.beginFrame (s : State) : State :=
  let l := s.link
  match l.choose with
  | .none => s
  | .ack nak =>
    { s with link := { l with ackQ := l.ackQ.tail, ackDue := false, sending := some ⟨linkFrame l 0 0 0 nak s.flt.safe [] [] false, true, none⟩ } }
  | .host f =>
    let (te, s) := s.stamp
    let (s, b) := s.passFrame f te
    { s with link := { s.link with toMac := l.toMac.tail, hostTurn := false, sending := some ⟨b, false, none⟩ } }
  | .transport x =>
    let s := { s with link := { l with txQ := l.txQ.tail, hostTurn := true } }
    match x with
    | .train op => { s with link := { s.link with ackDue := false, sending := some ⟨s.trainFrame op, true, none⟩ } }
    | .seq n again => match Tbl.find s.link.retry n with
      | some f => s.beginSeq n again f
      | none => s

/-- The beats of a frame that has left are counted (R313), to the transfer whose cells it carries. -/
def State.tallyFrame (s : State) (f : Sending) : State :=
  let n := (f.bytes.length + 63) / 64
  match (f.seq.bind fun k => Tbl.find s.link.retry k).bind fun x => x.owners.head? with
  | some o => s.tally o.sctx o.xfer linkClass n
  | none => s.tallyBlock linkClass n

/-- The MAC takes the frame in transmission whole, or the next frame begins. [Log 22 DESIGN CHOICE] -/
def State.macStep (s : State) : State :=
  match s.link.sending with
  | some f => { s.tallyFrame f with macOut := s.macOut ++ [f.bytes], link := { s.link with sending := none } }
  | none => s.beginFrame

/-- The host side takes the oldest frame of its queue. -/
def State.hostStep (s : State) : State :=
  match s.link.toHost with
  | [] => s
  | f :: rest =>
    let (te, s) := s.stamp
    let (s, b) := s.passFrame f te
    { s with hostOut := s.hostOut ++ [b], link := { s.link with toHost := rest } }

/-- The outputs while the block idles: whether each side takes a frame is the outside's, a free value (R393, R394). [Log 22 DESIGN CHOICE] -/
def State.outputs (s : State) : State :=
  if s.link.sending.isNone && decide (s.link.choose = .none) && decide (s.link.toHost = []) then s
  else
    let k := s.free
    let s := { s with free := k + 2 }
    let s := if Config.freeBit k then s.macStep else s
    if Config.freeBit (k + 1) then s.hostStep else s

end Sys2Proof.Machine
end

