-- ==== Sys2Proof/Machine/PortEvents.lean ====
section
/-! DEFINITION. What the memory ports bring back (R106, R116, R131, R206-R209, R274, R378-R385): the end of each read and write for its
requester, timeouts, and the expander and compressor of each port. -/
namespace Sys2Proof.Machine

/-! ### The end of a read -/

/-- The `n` bytes from address `a` on of what a read brought. -/
def ReadAns.at_ (r : ReadAns) (a n : Nat) : List Byte := slice r.data (a % 128) n

/-- A list or header cell has come, or was answered other than `OK`. -/
def State.listDone (s : State) (r : ReadAns) (p c id key : Nat) : State :=
  let off := key % 2 * 64
  if r.resp = .ok then s.putList c id key (Cell.of (r.at_ off 64))
  else (s.putList c id key (.bad r.resp)).busError p c id false r.resp (r.addr + off)

/-- The tensor whose coded block a body read fetches: the read side's, or the scale tensor. -/
def State.codedOf (s : State) (c id sel : Nat) : Option Tensor :=
  (s.xferOf c id).bind fun e => (s.view e.1 e.2).bind fun v => if sel = 0 then some v.rd else v.scale

/-- The block that a body read fetches. -/
def ExpandJob.serves (j : ExpandJob) (p c id sel st blk : Nat) : Bool :=
  decide (j.phys = p) && decide (j.sctx = c) && decide (j.xfer = id) && decide (j.sel = sel) && decide (j.st = st) && decide (j.blk = blk)

/-- The body of a coded block has come (R206): the expander of port `q` has it in its place in the order of the body reads (R210); a read answered
otherwise leaves that order. -/
def State.bodyDone (s : State) (r : ReadAns) (q p c id sel st blk : Nat) : State :=
  match s.codedOf c id sel with
  | none => s
  | some t =>
    let off := (t.d.stAddr (t.d.stCoord st) + blk * 4096) % 128
    let mine := fun j : ExpandJob => j.serves p c id sel st blk
    if r.resp = .ok then
      s.modPort q fun x => { x with expand := x.expand.map fun j => if mine j then { j with body := some (r.data.drop off) } else j }
    else
      let s := s.modPort q fun x => { x with expand := x.expand.filter fun j => !mine j }
      (s.putCells c id (t.blockKeys st blk) (.bad r.resp)).busError p c id false r.resp (r.addr + off)

/-- The walk of a lane ends. -/
def State.dropWalk (s : State) (p : Nat) : State := s.modLane p fun l => { l with walk := none }

/-- A page-table entry has come (R131-R133): the next level is read, the page enters the cache, or the access faults. A walk that an
invalidation or the safe state overtook is dropped, and the access walks again. [Log 56 DEDUCED] -/
def State.walkDone (s : State) (r : ReadAns) (p : Nat) : State :=
  match (s.lane p).walk with
  | none => s
  | some w =>
    if w.stale || s.flt.safe then s.dropWalk p
    else if r.resp ≠ .ok then
      let s := if w.write then s.modLane p fun l => { l with skip := some (w.sctx, w.xfer, w.va) } else s
      (s.dropWalk p).busError p w.sctx w.xfer false r.resp w.addr
    else
      let e := ofBytes (r.at_ w.addr 8)
      if w.level = 1 then
        match level1Entry e with
        | .inr reason => (s.dropWalk p).pageFault p w.sctx w.va w.write reason
        | .inl t =>
          let a := level2Addr t w.va
          match s.issueRead (.walk p) a 8 with
          | some s => s.modLane p fun l => { l with walk := some { w with level := 2, addr := a } }
          | none => s.dropWalk p
      else
        match level2Entry e w.va with
        | .fault reason => (s.dropWalk p).pageFault p w.sctx w.va w.write reason
        | .at_ pa rd wr => (s.dropWalk p).modLane p fun l => l.cacheIn ⟨w.va / 65536, pa / 65536, rd, wr⟩

/-- A read has ended for one of its requesters, at port `q`. -/
def State.readDone (s : State) (q : Nat) (r : ReadAns) : State :=
  match r.owner with
  | .cell p c id key n =>
    let off := key % 2 * 64
    if r.resp = .ok then s.putData c id key n (r.data.drop off)
    else (s.putCells c id ((List.range n).map (key + ·)) (.bad r.resp)).busError p c id false r.resp (r.addr + off)
  | .list p c id key _ => s.listDone r p c id key
  | .head p c id key => s.listDone r p c id key
  | .body p c id sel st blk => s.bodyDone r q p c id sel st blk
  | .walk p => s.walkDone r p
  | .rxRead uid a idx n => s.rxRead uid idx n r.resp (if r.resp = .ok then r.at_ a (64 * n) else [])
  | .store .. => s
  | .rxWrite _ => s

/-- The stream and the transfer that a port request serves. -/
def Owner.serves : Owner → Option (Nat × Nat)
  | .cell _ c id _ _ | .list _ c id _ _ | .head _ c id _ | .body _ c id _ _ _ | .store _ c id => some (c, id)
  | _ => none

/-- `n` beats of a port request are counted, to the transfer it serves (R313); those of a request merged for several go to the first. [Log 99 DESIGN CHOICE] -/
def State.tallyBeats (s : State) (o : Option Owner) (n : Nat) : State :=
  match o.bind Owner.serves with
  | some (c, id) => s.tally c id portClass n
  | none => s.tallyBlock portClass n

/-- A read request of port `q` has ended (R106). -/
def State.readEnded (s : State) (q : Nat) (r : ReadReq) : State :=
  r.answers.foldl (fun s x => s.readDone q x) (s.tallyBeats (r.parts.head?.map fun x => x.owner) r.got.length)

/-- A cell's write has ended with a response. -/
def State.writeDone (s : State) (c : WCell) (r : Resp) : State :=
  match c.owner with
  | .store p x id =>
    let s := s.modXfer x id fun t => { t with outstanding := t.outstanding - 1 }
    if r = .ok then s.checkComplete p x id else s.busError p x id true r c.addr
  | .rxWrite uid => s.rxWrote uid r
  | _ => s

/-- A write request has ended with a response, which is that of each of its parts (R106). -/
def State.writeEnded (s : State) (w : WriteReq) (r : Resp) : State :=
  w.cells.foldl (fun s c => s.writeDone c r) (s.tallyBeats (w.cells.head?.map fun x => x.owner) w.nbeat)

/-- The port exists in the build. -/
def State.hasPort (s : State) (p : Nat) : Bool := decide (p < s.build.cfg.ports)

/-- `READ_BEAT` (R378, R379, R385, Table PORTS-7). -/
def execReadBeat (port : Fin 4) (tag : BitVec 12) (idx : Fin 32) (code : Resp) (data : BitVec 1024) (chk : BitVec 64) (s : State) : Out :=
  running s fun s =>
    if !s.hasPort port.val then s
    else
      let e := s.takeBeat port.val tag.toNat idx.val code data chk.toNat
      match e.ended with
      | some r => (e.s.readEnded port.val r).rxSettle
      | none => e.s

/-- `WRITE_RESPONSE` (R116, R378, R385); `early` says that it comes before the last data beat of its request was accepted, and the request then
takes `FAIL`. -/
def execWriteResponse (port : Fin 4) (tag : BitVec 12) (code : Resp) (early : Bool) (s : State) : Out :=
  running s fun s =>
    if !s.hasPort port.val then s
    else match s.takeResponse port.val tag.toNat early with
    | (s, some w) => (s.writeEnded w (if early then .fail else code)).rxSettle
    | (s, none) => s

/-- `PORT_RESPONSE_TIMEOUT` (R384): the request takes `FAIL`. [Log 66 DEDUCED; log 81 DESIGN CHOICE] -/
def execPortResponseTimeout (port : Fin 4) (write : Bool) (tag : BitVec 12) (own : Option FwReq) (s : State) : Out :=
  running s fun s =>
    if !s.hasPort port.val then s
    else match own with
    | some r => s.timeoutOwn port.val write tag.toNat r
    | none =>
      if write then
        match s.timeoutWrite port.val tag.toNat with
        | (s, some w) => s.writeEnded w .fail
        | (s, none) => s
      else
        match s.timeoutRead port.val tag.toNat with
        | (s, some r) => s.readEnded port.val r
        | (s, none) => s

/-! ### The expander (R206-R209, R214) -/

/-- Count a block that has been read (R210, R214). [Log 33 DEDUCED] -/
def Stream.countRead (x : Stream) (mode z escapes : Nat) : Stream :=
  if mode = 0 then (x.count 18 1).count 21 (z / 128) else ((x.count 19 1).count 20 escapes).count 21 (z / 128 + escapes)

/-- The image of codebook `k`. -/
def State.bookBytes (s : State) (k : Nat) : List Byte := ((Tbl.find s.fw.books k).map (·.2)).getD []

/-- The two copies of the expander differ over a block, or its data fails (R209): its cells are not released and its transfer ends in
error. [Log 66 DEDUCED] -/
def State.spoilBlock (s : State) (j : ExpandJob) : State :=
  match s.codedOf j.sctx j.xfer j.sel with
  | some tn => (s.putCells j.sctx j.xfer (tn.blockKeys j.st j.blk) (.bad .fail)).errXfer j.phys j.sctx j.xfer .ok (tn.d.headerAddr j.st j.blk)
  | none => s

/-- The expander of port `q` has worked on a block: it is released, or its failure is attached to it. -/
def State.expandJob (s : State) (q : Nat) (j : ExpandJob) (body : List Byte) : State :=
  match s.codedOf j.sctx j.xfer j.sel, s.xferOf j.sctx j.xfer with
  | some tn, some (_, t) =>
    let ha := tn.d.headerAddr j.st j.blk
    match Tbl.find t.lists (Place.host (ha / 64 * 64)).key with
    | some (.data b _) =>
      let h := slice b (ha % 64) 16
      let z := tn.d.blockSize j.blk
      let mode := fieldLE h 5 1
      let keys := tn.blockKeys j.st j.blk
      match expandBody (s.bookBytes tn.d.cbook) (body.take (fieldLE h 2 2)) z mode with
      | none => s.putCells j.sctx j.xfer keys (.fail 5 ha)
      | some e =>
        if crc32c e.out ≠ fieldLE h 8 4 then
          (s.raise ⟨3, q, 37, formatA ha⟩).spoilBlock j
        else (s.putData j.sctx j.xfer (nth 0 keys 0) keys.length e.out).modStream j.sctx fun x => x.countRead mode z e.escapes
    | _ => s
  | _, _ => s

/-- `EXPAND_BLOCK_DONE` (R206, R210): the oldest block, once its body is in. -/
def execExpandBlockDone (port : Fin 4) (s : State) : Out :=
  running s fun s =>
    match (s.port port.val).expand with
    | [] => s
    | j :: rest => match j.body with
      | some b => (s.modPort port.val fun q => { q with expand := rest }).expandJob port.val j b
      | none => s

/-! ### The compressor (R202-R204, R214) -/

/-- The cells that a coded block and its header write: address, data, enables. -/
def CompressJob.cells (j : CompressJob) (c : Coded) : List (Nat × List Byte × BitVec 64) :=
  let n := ceilDiv c.body.length 64
  let body := c.body ++ zeros (64 * n - c.body.length)
  let head := blockHeader j.raw.length c.body.length j.book c.mode (crc32c j.raw)
  let o := j.head % 64
  (List.range n).map (fun i => (j.body + 64 * i, slice body (64 * i) 64, beAll)) ++
    [(j.head / 64 * 64, zeros o ++ head ++ zeros (48 - o), BitVec.ofNat 64 (0xFFFF * 2 ^ o))]

/-- Issue writes of a transfer, all or none. [Log 70 DEDUCED] -/
def State.issueAll (o : Owner) (poison : Bool) : List (Nat × List Byte × BitVec 64) → State → Option State
  | [], s => some s
  | w :: rest, s => (s.issueWrite o w.1 w.2.1 w.2.2 poison (crc32c w.2.1)).bind (State.issueAll o poison rest)

/-- Count a block that has been written (R214). [Log 33 DEDUCED] -/
def Stream.countWritten (x : Stream) (c : Coded) : Stream :=
  ((x.count (if c.mode = 0 then 22 else 23) 1).count 24 c.escapes).count 25 c.body.length

/-- The compressor of port `q` releases its oldest block: body and header are written, marked `POISON` after a failed comparison (R203). It
waits while a port has too few tags. In the safe state no request is issued (Table FAULT-7): the transfer ends in error (R334). -/
def State.compressJob (s : State) (q : Nat) (poison : Bool) : State :=
  match (s.port q).compress with
  | [] => s
  | j :: rest =>
    let c := codeBlock (s.bookBytes j.book) j.raw
    let l := j.cells c
    let s' := s.modPort q fun q => { q with compress := rest }
    if s.flt.safe then s'.modXfer j.sctx j.xfer fun t => { t with outstanding := t.outstanding - 1, err := some (t.err.getD .fail) }
    else match State.issueAll (.store j.phys j.sctx j.xfer) (poison || j.poison) l s' with
      | none => s
      | some s => (s.modXfer j.sctx j.xfer fun t => { t with outstanding := t.outstanding + l.length - 1 }).modStream j.sctx fun x => x.countWritten c

/-- `COMPRESS_BLOCK` (R203). [Log 70 DEDUCED] -/
def execCompressBlock (port : Fin 4) (s : State) : Out := running s fun s => s.compressJob port.val false

end Sys2Proof.Machine
end

