-- ==== Sys2Proof/Machine/Journal.lean ====
section
/-! DEFINITION. The boot journal (R357, R360, R361): its entries as bytes, and firmware's reads and writes of it. -/
namespace Sys2Proof.Machine

/-- The physical address of a region base register (Table START-3): bits [51:20]. -/
def regionBase (r : BitVec 32) : Nat := r.toNat * 1048576

/-- The address of journal entry `i`. -/
def Boot.entryAddr (b : Boot) (i : Nat) : Nat := regionBase b.journalBase + 16 * i

/-- An entry: twelve bytes and their CRC-32C (R360). -/
def journalEntry (b : List Byte) : List Byte := b ++ toBytes (crc32c b) 4

/-- The CRC of an entry is right. -/
def entryValid (b : List Byte) : Bool := decide (crc32c (b.take 12) = fieldLE b 12 4)

/-- The header (Table START-6). -/
def headerBytes (active starts : Nat) : List Byte :=
  journalEntry (toBytes 0x31594E4A 4 ++ [1, BitVec.ofNat 8 active, 0, 0] ++ toBytes starts 4)

/-- A header that is valid: CRC, `MAGIC`, `FORMAT`. -/
def headerValid (b : List Byte) : Bool := entryValid b && decide (fieldLE b 0 4 = 0x31594E4A) && decide (fieldLE b 4 1 = 1)

/-- A voltage plan (Table START-7). [Log 74 DEDUCED] -/
def planBytes (ofs : List Nat) (retired : List Bool) (upto : Nat) : List Byte :=
  journalEntry ((List.range 8).map (fun p => BitVec.ofNat 8 (nth 0 ofs p / 5 + (if nth false retired p then 128 else 0))) ++ toBytes upto 4)

/-- What a record says (Table START-8), beside its numbers. -/
structure RecBody where
  type : Nat
  id : Nat
  level : Nat
  outcome : Nat
  detail : Nat
  deriving DecidableEq, Repr

/-- The bytes of a record (Table START-8). [Log 74 DEDUCED] -/
def recordEntry (seq start : Nat) (r : RecBody) : List Byte :=
  journalEntry (toBytes seq 4 ++ toBytes start 2 ++ toBytes r.type 1 ++ toBytes r.id 1 ++ toBytes r.level 1 ++ toBytes r.outcome 1 ++ toBytes r.detail 2)

/-- The journal can be written (R354, R361): its base, read at each use, is not 0, this start has read it, and no access of it has failed. -/
def Boot.writable (b : Boot) : Bool := b.journal && !b.jfail && decide (b.journalBase ≠ 0)

/-- Write entry `i` (R360, R361); a response other than `OK` sets `JFAIL`. [Log 74 DEDUCED] -/
def State.putEntry (s : State) (h : HostView) (i : Nat) (b : List Byte) : State :=
  if !s.boot.writable then s
  else if (hostBad s.build.cfg.ports h (s.boot.entryAddr i) 16).isSome then { s with boot := { s.boot with jfail := true } }
  else s.fwWrite (s.boot.entryAddr i) b

/-- Write the next record (R360): entry 2 + (SEQ mod 254). -/
def State.journal (s : State) (h : HostView) (r : RecBody) : State :=
  let q := s.boot.nextSeq
  let s' := s.putEntry h (2 + q % 254) (recordEntry q s.boot.startNo r)
  if s.boot.writable then { s' with boot := { s'.boot with nextSeq := (q + 1) % 2 ^ 32 } } else s'

/-- Fold the plan in force into entry 1 (R361): `upto` is the record written last. -/
def State.foldPlan (s : State) (h : HostView) : State :=
  s.putEntry h 1 (planBytes s.pwr.ofs s.pwr.retired ((s.boot.nextSeq + 2 ^ 32 - 1) % 2 ^ 32))

/-- A `WEAR` record of point `p` (Table START-8), then entry 1 (R361 step 5). -/
def State.journalWear (s : State) (h : HostView) (p ofs : Nat) (retired : Bool) : State :=
  s.journal h ⟨2, 0, 0, 0, p * 256 + ofs / 5 + (if retired then 128 else 0)⟩

/-! ### Reading the journal at a start (R358, R361) -/

/-- The valid records with their `SEQ`, in entry order. -/
def validRecords (entries : List (List Byte)) : List (List Byte) := (entries.drop 2).filter entryValid

/-- `SEQ` of a record. -/
def recSeq (b : List Byte) : Nat := fieldLE b 0 4
/-- `START` of a record. [Log 74 DEDUCED] -/
def recStart (b : List Byte) : Nat := fieldLE b 4 2

/-- The record with the latest `SEQ` (R11, R360). [Log 74 DEDUCED] -/
def newestRec (l : List (List Byte)) : Option (List Byte) :=
  l.foldl (fun (a : Option (List Byte)) b => match a with
    | some x => if later32 (recSeq b) (recSeq x) then some b else some x
    | none => some b) none

/-- Records in `SEQ` order, by repeatedly taking the earliest; `fuel` bounds them. -/
def recordsInOrder : Nat → List (List Byte) → List (List Byte)
  | 0, _ => []
  | n + 1, l =>
    match l.foldl (fun (a : Option (List Byte)) b => match a with
      | some x => if later32 (recSeq x) (recSeq b) then some b else some x
      | none => some b) none with
    | some x => x :: recordsInOrder n (l.erase x)
    | none => []

/-- The kinds of step whose level is a slot. -/
def slotStep (k : Nat) : Bool := decide (k = 6) || decide (k = 7)

/-- The highest level of a step (Table START-4). -/
def topLevel (k : Nat) : Nat :=
  if k = 9 then 2 else if 4 ≤ k ∧ k ≤ 8 then 1 else 0

/-- The starting level of step `k` by its last record of the previous start (Table START-5). For the slot level the level is the slot;
a start with no record of it begins at the active slot. -/
def startLevel (k active : Nat) (last : Option (List Byte)) (ready : Bool) : Nat :=
  if ready then (if slotStep k then active else 0)
  else match last with
  | none => if slotStep k then active else 0
  | some b =>
    let l := fieldLE b 8 1
    let o := fieldLE b 9 1
    if o = 0 ∨ o = 3 then (if slotStep k then 1 - l else min (l + 1) (topLevel k))
    else l

/-- The step records of start `n`, in `SEQ` order. -/
def stepRecords (l : List (List Byte)) (n : Nat) : List (List Byte) :=
  (recordsInOrder l.length l).filter fun b => decide (recStart b = n % 65536) && decide (fieldLE b 6 1 = 1)

/-- The last record of step `k` among step records. -/
def lastOf (l : List (List Byte)) (k : Nat) : Option (List Byte) := (l.filter fun b => decide (fieldLE b 7 1 = k)).getLast?

/-- The last record of the slot level, of either of its steps. -/
def lastSlot (l : List (List Byte)) : Option (List Byte) := (l.filter fun b => slotStep (fieldLE b 7 1)).getLast?

/-- The previous start reached `READY` (Table START-5). -/
def reachedReady (l : List (List Byte)) : Bool := l.any fun b => decide (fieldLE b 7 1 = 11) && decide (fieldLE b 9 1 = 1)

end Sys2Proof.Machine
end

