-- ==== Sys2Proof/Machine/Detach.lean ====
section
/-! DEFINITION. `DETACH` (R365, R366) and the end of a link session (R281). -/
namespace Sys2Proof.Machine

/-- Pause physical lane `p` for a detach (R365 step 1): a lane with nothing to drain holds at once. [Log 79 DEDUCED] -/
def State.detachLane (s : State) (p : Nat) : State :=
  let l := s.lane p
  if l.holding then s.modLane p fun l => { l with stops := (l.stops ++ [Stop.fwPause]).eraseDups, reported := (l.reported ++ [Stop.fwPause]).eraseDups }
  else
    let s := s.stopLane p .fwPause
    if l.queue = [] ∧ s.laneQuiet p then (s.holdLane p).modLane p fun l => { l with report := l.report.filter fun r => match r with
      | .held .fwPause .. => false
      | _ => true }
    else s

/-- Every lane is drained and has reported its pause. -/
def State.lanesDown (s : State) : Bool :=
  s.build.cfg.physLanes.all fun p => (s.lane p).holding && (s.lane p).report.all fun r => match r with
    | .held .fwPause .. => false
    | _ => true

/-- The streams that are member 0 of their stream. -/
def State.heads (s : State) : List Nat := (s.fw.streams.filter fun (e : Nat × Stream) => decide (e.2.idx = 0)).map (·.1)

/-- Steps 3 to 5 of R365: records, the `DETACH` record, the reply; `QUIESCED` rises once the reply is placed. [Log 79 DEDUCED] -/
def State.finishDetach (s : State) (h : HostView) : State :=
  let s := s.heads.foldl (fun s c => s.record h c) s
  let s := s.journal h ⟨4, 0, 0, 0, 0⟩
  match s.ctl.hand with
  | some (.waiting t c _) => s.placeHand ⟨t, c, 0, []⟩
  | _ => s

/-- The detach goes on (R365): with every lane down, an open session waits for its acknowledgements, and without one the detach ends. [Log 79 DEDUCED] -/
def State.detachAdvance (s : State) (h : HostView) : State :=
  match s.ctl.hand with
  | some (.waiting _ _ .detach) =>
    if !s.lanesDown then s
    else if s.link.up then s.closeWrite
    else ((if s.link.st = 1 ∨ s.link.st = 4 then s.closeLink.linkStateReply 0 else s)).finishDetach h
  | _ => s

/-- `DETACH` (R365). [Log 79 DEDUCED] -/
def detachBody (s : State) (_ : Nat → Nat) : State × Verdict := (s.build.cfg.physLanes.foldl State.detachLane s, .wait .detach)

/-- `DETACH`: with nothing to wait for, the detach ends at once. -/
def execDetach (h : HostView) (s : State) : Out :=
  running s fun s => (serve 0x11 anyVariant detachBody s).detachAdvance h

/-- `CMP` covers every frame sent, or 100 µs have passed (R281, R365). -/
def linkDownDrained (h : HostView) (s : State) : State :=
  match s.ctl.hand with
  | some (.waiting _ _ .linkDown) => (s.closeLink.finishHand 0 []).linkStateReply 0
  | some (.waiting _ _ .detach) => if s.lanesDown then (s.closeLink.linkStateReply 0).finishDetach h else s
  | _ => s

/-- `LINK_DOWN_DRAINED`. -/
def execLinkDownDrained (h : HostView) (s : State) : Out := running s (linkDownDrained h)

end Sys2Proof.Machine
end

