-- ==== Sys2Proof/Machine/Spares.lean ====
section
/-! DEFINITION. Spare lanes and recoveries (R309, R336, R342-R345): substitution, lanes out of service, sensor loss, lane reports, lane checks, and
leaving the safe state. -/
namespace Sys2Proof.Machine

/-! ### Substitution (R343, R344) -/

/-- The recoveries other than a lane check or a substitution of physical lane `p`. -/
def Flt.without (f : Flt) (p : Nat) : Flt :=
  { f with recov := f.recov.filter fun r => decide (r ≠ .laneCheck p) && decide (r ≠ .subst p) }

/-- Up to four streams of a lane for a `FAULT` reply (Table CTRL-23). -/
def State.listed (s : State) (p : Nat) : List (Nat × Nat × Bool) :=
  ((s.laneStreams p).take 4).flatMap s.oneStream

/-- What a spare takes over of a failed lane that holds (R343): its descriptors, reports and stops; caches, slots and walks do not
move. -/
def Lane.takeOver (l : Lane) : Lane :=
  { Lane.reset with
    queue := l.queue, report := l.report, stops := l.stops, reported := l.reported, draining := l.draining, holding := l.holding
    xst := l.xst, beats := l.beats, used := l.used, reason := l.reason, resp := l.resp, errAddr := l.errAddr, haltAddr := l.haltAddr }

/-- A transfer without its input cells but those of blocks that failed a check, which a resume reads with their headers. -/
def Transfer.forget (t : Transfer) : Transfer :=
  { t with cells := t.cells.filter fun e => match e.2 with | .fail .. => true | _ => false }

/-- A stream that moves to a spare reads its coded blocks again (Table DICT-7). -/
def State.forgetBlocks (s : State) (x : Stream) : Stream :=
  let coded : Transfer → Bool := fun t => match s.view x t with
    | some v => v.rd.d.coded || (v.scale.map fun q => q.d.coded).getD false
    | none => false
  { x with xfers := x.xfers.map fun t => if coded t then t.forget else t }

/-- The logical lane `n` moves from physical lane `p` to spare `q` (R343 steps 2 to 5). -/
def State.substitute (s : State) (h : HostView) (n p q : Nat) (rest : List Nat) : State :=
  let streams := s.listed p
  let s := (s.laneStreams p).foldl (fun s c => s.modStream c s.forgetBlocks) (s.copyStore h n)
  let l := s.lane p
  let s := { s with fw := { s.fw with laneMap := Tbl.put n q s.fw.laneMap, spares := rest } }
  let s := (s.setLane q l.takeOver).setLane p Lane.reset
  s.faultReply ⟨8, n, 0, 0, q * 16 + p, 0, streams⟩

/-- A stream of a lane that goes out of service is Held (R344). -/
def Stream.strand (x : Stream) : Stream :=
  if x.st = .active ∨ x.st = .held then { x with st := .held, heldBy := (x.heldBy ++ [HeldBy.lane]).eraseDups } else x

/-- The logical lane `n` goes out of service (R344); the records of the streams it holds are written (R262). -/
def State.retireLane (s : State) (h : HostView) (n p : Nat) : State :=
  let streams := s.listed p
  let cs := (s.fw.streams.filter fun (e : Nat × Stream) => decide (e.2.lane = n)).map (·.1)
  let now := cs.filter fun c => ((s.stream c).map fun x : Stream => decide (x.st = .active)).getD false
  let s := cs.foldl (fun s c => (s.modStream c Stream.strand).delist c) s
  let s := s.recordAll h now
  let s := { s with fw := { s.fw with laneMap := Tbl.drop n s.fw.laneMap, outOfService := Tbl.put n true s.fw.outOfService } }
  let s := (s.setLane p Lane.reset).raise ⟨0, p, 44, n⟩
  s.faultReply ⟨13, n, 0, 0, 0, 0, streams⟩

/-- Physical lane `p` is declared failed (R342-R344): a free spare is consumed; a serving lane hands over to the next free spare, or its
logical lane goes out of service. -/
def State.failLane (s : State) (h : HostView) (p : Nat) : State :=
  let s := { s with flt := { s.flt.without p with failed := setBit s.flt.failed p true } }
  match s.logicalOf p with
  | none => { s with fw := { s.fw with spares := s.fw.spares.erase p } }
  | some n => match s.fw.spares with
    | q :: rest => s.substitute h n p q rest
    | [] => s.retireLane h n p

/-! ### Sensor loss (R309, R343) -/

/-- Valid sensors of physical lane `p`. -/
def State.sensorsLeft (s : State) (p : Nat) : Nat := ((List.range 4).filter fun j => (Tbl.find s.pwr.invalid (4 * p + j)).isNone).length

/-- A substitution on sensor loss: the lane is paused and failed, and its streams go on on the spare. [Log 72 DEDUCED] -/
def State.finishSubst (s : State) (h : HostView) (p : Nat) : State :=
  match s.logicalOf p with
  | none => s.failLane h p
  | some n =>
    let s := s.failLane h p
    match s.physOf n with
    | some q => s.unstop q .subst
    | none => s

/-- A lane that has lost its sensors (R309, R343): a free spare, or a lane with nothing to drain, is replaced at once; any other pauses
first. [Log 72 DEDUCED] -/
def State.loseSensors (s : State) (h : HostView) (p : Nat) : State :=
  if s.flt.recov.contains (.laneCheck p) || s.flt.recov.contains (.subst p) then s
  else if (s.logicalOf p).isNone then s.failLane h p
  else
    let l := s.lane p
    if l.report = [] ∧ (l.holding ∨ (l.queue = [] ∧ s.laneQuiet p)) then s.finishSubst h p
    else ({ s with flt := { s.flt with recov := s.flt.recov ++ [Recovery.subst p] } }).stopLane p .subst

/-- Firmware looks at the sensors of every lane in service and of every free spare. [Log 72 DEDUCED] -/
def State.checkSensors (s : State) (h : HostView) : State :=
  (s.fw.laneMap.map (·.2) ++ s.fw.spares).foldl (fun s p => if s.sensorsLeft p < 2 then s.loseSensors h p else s) s

/-- `SENSOR_SAMPLE` (R308, R309, R311, R343). -/
def execSensorSample (readings : List Int) (h : HostView) (s : State) : Out :=
  running s fun s =>
    let s := s.sensorSample readings
    if s.ctl.fwReady then s.checkSensors h else s

/-! ### Lane reports -/

/-- Firmware takes the oldest report of the lane; a substitution waits until the lane's other reports are taken. -/
def laneReport (h : HostView) (p : Nat) (s : State) : State :=
  if !s.ctl.fwReady then s
  else match (s.lane p).report with
  | [] => s
  | .held .subst a b c d :: rest =>
    if rest = [] then (s.modLane p fun l => { l with report := [] }).finishSubst h p
    else s.modLane p fun l => { l with report := rest ++ [.held .subst a b c d] }
  | r :: rest => ((((s.modLane p fun l => { l with report := rest }).takeReport h p r).tellLoss).payRecords h).detachAdvance h

/-- `LANE_REPORT`. [Log 18 DEDUCED] -/
def execLaneReport (lane : Fin 10) (h : HostView) (s : State) : Out := running s (laneReport h lane.val)

/-! ### Lane checks (R342) -/

/-- The lane has raised three such Burgees within 1 s. -/
def State.threeFaults (s : State) (p : Nat) : Bool :=
  decide (((Tbl.get [] s.flt.laneTimes p).filter fun t => decide ((s.now + 2 ^ 64 - t) % 2 ^ 64 < 1000000000)).length ≥ 3)

/-- A lane check has ended (R342): the lane is failed, or stays in service with its streams Held. [Log 72 DEDUCED] -/
def laneCheckDone (p : Nat) (pass : Bool) (h : HostView) (s : State) : State :=
  let l := s.lane p
  if !s.ctl.fwReady || !s.flt.recov.contains (.laneCheck p) || !(l.holding || (decide (l.queue = []) && s.laneQuiet p)) || decide (l.report ≠ []) then s
  else if !pass || s.threeFaults p || decide (s.sensorsLeft p < 2) then s.failLane h p
  else ({ s with flt := s.flt.without p }).settle p

/-- `LANE_CHECK_DONE`. -/
def execLaneCheckDone (lane : Fin 10) (pass : Bool) (h : HostView) (s : State) : Out := running s (laneCheckDone lane.val pass h)

/-! ### The safe state is left (R336, Table FAULT-9) -/

/-- Firmware fills the queues of every logical lane. -/
def State.refillAll (s : State) : State := s.fw.laneMap.foldl (fun s (e : Nat × Nat) => s.refill e.1) s

/-- The writes that waited in the crossings of the ports go on (Table FAULT-7). -/
def State.pumpAll (s : State) : State :=
  (List.range s.build.cfg.ports).foldl (fun s q => (List.range 32).foldl (fun s _ => s.pumpWrite q) s) s

/-- A write of 1 to `SAFE` (R336): ignored while a recovery runs; with a cause present its Burgee is logged again and `FAULT_N` pulses;
otherwise the block leaves the safe state and the outputs are released. [Log 71 DEDUCED] -/
def State.safeExit (s : State) : State :=
  if !s.flt.safe || decide (s.flt.recov ≠ []) then s
  else if s.flt.causePresent then
    let s := s.flt.presentCauses.foldl State.logBurgee s
    { s with flt := { s.flt with pulse := true } }
  else
    let s := { s with
      flt := { s.flt with safe := false }
      pins := { s.pins with trigOut := s.time.pulse.foldl (fun (v : BitVec 16) (e : Nat × Nat) => setBit v e.1 true) 0 } }
    s.pumpAll.rxSettle.refillAll

/-- `SAFE_EXIT_REQUEST`. -/
def execSafeExitRequest (s : State) : Out := running s State.safeExit

end Sys2Proof.Machine
end

