-- ==== Sys2Proof/Machine/Registers.lean ====
section
/-! DEFINITION. The control window (R9, R13-R18, R224, R243-R246, R265, R266, R287, R321, R338, R349, R355, R387, R399): what each register reads, and
what a write to it does. -/
namespace Sys2Proof.Machine

/-! ### Groups -/

/-- The group of an offset is served (R354, R387): `BLK`, `MBX`, `PWR` and `BOOT` always, the others once the block is started, and `TEST` only
in factory test mode. -/
def State.serves (s : State) (off : Nat) : Bool :=
  if off < 0x1500 ∨ (0x3000 ≤ off ∧ off < 0x4000) ∨ (0x5000 ≤ off ∧ off < 0x6000) then true
  else s.alive && (!(decide (0xF000 ≤ off) && decide (off < 0x10000)) || s.life.testSampled)

/-! ### `BLK` (R244) -/

/-- `BLK.CAPS0` (Table CTRL-4). -/
def State.caps0 (s : State) : Nat :=
  let burins := (s.build.cfg.physLanes.filter fun p => !s.otp.laneDisable.getLsbD p).length
  burins * 65536 + 1 * 4096 + s.build.cfg.ports * 256 + s.fw.spares.length * 16 + s.nLanes

/-- The `BLK` group. -/
def State.readBlk (s : State) (off : Nat) : Nat :=
  match off with
  | 0x0000 => 0x4C540128
  | 0x0004 => 0x00000201
  | 0x0010 => s.caps0
  | 0x0014 => s.build.cfg.contexts * 65536 + s.build.cfg.plates
  | 0x0018 => s.build.cfg.halyards * 65536 + 4096
  | 0x001C => 0x00040040
  | _ => 0

/-! ### `MBX` (R245) -/

/-- `MBX.STAT` (Table CTRL-8). -/
def Ctl.stat (c : Ctl) : Nat :=
  let held := decide (c.async ≠ []) && c.freeReply.isNone
  c.dropped.toNat * 2 ^ 24 + (if held then 2 ^ 17 else 0) + (if c.fwReady then 2 ^ 16 else 0) + c.rplFull.toNat * 256 + c.cmdOwn.toNat

/-- The `MBX` group. -/
def Ctl.readMbx (c : Ctl) (off : Nat) : Nat :=
  if off < 0x1200 then (Tbl.get 0 c.cmd ((off - 0x1000) / 4)).toNat
  else if off < 0x1400 then (Tbl.get 0 c.rpl ((off - 0x1200) / 4)).toNat
  else if off = 0x1400 then c.stat
  else if off = 0x1404 then c.rplEn.toNat
  else 0

/-! ### `FLT` (R338) -/

/-- A word of the history (R338): entry `i`, word `w`. -/
def Flt.histWord (f : Flt) (i w : Nat) : Nat :=
  let e := Tbl.get ⟨0, 0⟩ f.hist i
  let v := if w < 2 then e.word.toNat else e.time.toNat
  v / 2 ^ (32 * (w % 2)) % 2 ^ 32

/-- The `FLT` group. -/
def Flt.read (f : Flt) (off : Nat) : Nat :=
  match off with
  | 0x2000 => packBits [f.safe, f.fatal, f.selfF, f.inj, decide (f.recov ≠ [])]
  | 0x2004 => packBits [f.hold, f.auto]
  | 0x2008 => f.seq.toNat
  | 0x200C => f.failed.toNat
  | 0x2010 => f.ce.toNat
  | 0x2014 => f.de.toNat
  | 0x2018 => f.ue.toNat
  | 0x2020 => f.first.toNat % 2 ^ 32
  | 0x2024 => f.first.toNat / 2 ^ 32
  | 0x2028 => min (f.downNs / 1000) (2 ^ 32 - 1)
  | _ => if 0x2100 ≤ off ∧ off < 0x2200 then f.histWord ((off - 0x2100) / 16) ((off - 0x2100) / 4 % 4) else 0

/-! ### `PWR` (R321) -/

/-- The registers of the power manager. -/
def Pwr.read (w : Pwr) (c : Cfg) (off : Nat) : Nat :=
  match off with
  | 0x3000 => (if w.fast then 2 ^ 27 else 0) + (if w.shown.cal then 2 ^ 26 else 0) + w.shown.pmb % 4 * 2 ^ 24 + w.duty % 16 * 65536 +
      w.target % 16 * 256 + w.op % 16
  | 0x3004 => w.seen.toNat * 256 + w.active.toNat
  | 0x3008 => c.capRange.2.1 * 65536 + w.cap % 65536
  | 0x300C => w.pmbReg.toNat
  | 0x3010 => w.sensor % 256 * 65536 + wrap 16 w.tj
  | 0x3014 => w.shown.vout % 65536
  | 0x3018 => w.shown.iout % 65536
  | 0x3060 => w.shown.wearMon % 256 * 65536 + wrap 16 w.shown.wearDrift
  | 0x3064 => w.wsel.toNat
  | 0x3068 => match Tbl.find w.shown.wdata w.wsel.toNat with
      | some (op, ps) => op % 65536 * 65536 + ps % 65536
      | none => 0
  | 0x306C => (if w.shown.vrValid then 65536 else 0) + wrap 16 w.shown.vrTemp
  | _ =>
    if 0x3020 ≤ off ∧ off < 0x3038 then nth 0 w.shown.dur ((off - 0x3020) / 4)
    else if 0x3040 ≤ off ∧ off < 0x3060 then
      let p := (off - 0x3040) / 4
      (if nth false w.shown.retired p then 2 ^ 24 else 0) + nth 0 w.shown.ofs p * 65536 + (pointBase p + nth 0 w.shown.ofs p)
    else 0

/-! ### `TIME` (R287, R399) -/

/-- The registers of the time unit. -/
def Time.read (t : Time) (off : Nat) : Nat :=
  match off with
  | 0x4000 => packBits [t.run, t.tsLock, t.tclkOk]
  | 0x4004 => t.incInt.toNat
  | 0x4008 => t.incFrac.toNat
  | 0x4010 => t.smpNs.toNat % 2 ^ 32
  | 0x4014 => t.smpNs.toNat / 2 ^ 32
  | 0x4018 => t.smpPtpNs.toNat
  | 0x401C => t.smpPtpSec.toNat % 2 ^ 32
  | 0x4020 => t.smpPtpSec.toNat / 2 ^ 32
  | 0x4030 => t.ofsNs.toNat
  | 0x4034 => t.ofsLo.toNat
  | 0x4038 => t.ofsHi.toNat
  | 0x4040 => t.capcfg.toNat
  | 0x4044 => t.capOvf.toNat * 256 + t.capValid.toNat
  | 0x4048 => packBits ((List.range 32).map fun k => (Tbl.find t.trig k).isSome)
  | 0x404C => t.trigLate.toNat
  | 0x4C04 => t.evOvf.toNat % 2 ^ 32
  | 0x4C08 => t.evOvf.toNat / 2 ^ 32
  | _ =>
    if 0x4100 ≤ off ∧ off < 0x4140 then (Tbl.get 0 t.cap ((off - 0x4100) / 8)).toNat / 2 ^ (32 * ((off - 0x4100) / 4 % 2)) % 2 ^ 32 else 0

/-- The `TIME` group with the link and port registers that lie in it. -/
def State.readTime (s : State) (off : Nat) : Nat :=
  if off = 0x4800 then s.link.stateWord s.link.loss
  else if 0x4810 ≤ off ∧ off < 0x4850 then Tbl.get 0 s.link.cnt ((off - 0x4810) / 4)
  else if off = 0x4C00 then s.build.refclk.toNat * 256 + s.build.sideband.toNat
  else if 0x4C10 ≤ off ∧ off < 0x4C20 then
    let p := (off - 0x4C10) / 4
    if p < s.build.cfg.ports then (s.port p).held % 16384 * 65536 + (s.port p).tmo.toNat else 0
  else s.time.read off

/-! ### `BOOT` (R355) -/

/-- The `BOOT` group. -/
def Boot.read (b : Boot) (off : Nat) : Nat :=
  match off with
  | 0x5004 => (if b.done then 2 ^ 31 else 0) + (if b.stop then 2 ^ 30 else 0) + (if b.jfail then 2 ^ 29 else 0) + (if b.jnew then 2 ^ 28 else 0) +
      b.restarts % 4 * 2 ^ 24 + b.level % 16 * 65536 + b.step % 16
  | 0x5008 => b.result.toNat
  | 0x500C => b.bistFail.toNat * 65536 + b.bistRows.toNat
  | 0x5010 => packBits [b.slotRunning, b.slotActive]
  | 0x5020 => b.journalBase.toNat
  | 0x5024 => b.imgA.toNat
  | 0x5028 => b.imgB.toNat
  | _ => 0

/-! ### `LANEn` (R265) -/

/-- `LANEn.STAT` (Table CTRL-25): of a lane out of service, `PHYS` reads 0xF and `XST` `HALTED` (R344). -/
def State.laneStat (s : State) (n : Nat) : Nat :=
  match s.physOf n with
  | none => 0xF8
  | some p =>
    let beats := if (s.lane p).holding then (s.lane p).beats else s.laneBeats p
    min beats 0xFFFFFF * 256 + p % 16 * 16 + (s.lane p).xst % 16

/-- The lane's position registers are exact in this state of `XST` (R265). [Log 80 DEDUCED] -/
def exactXst (x : Nat) : Bool := decide (4 ≤ x) && decide (x ≤ 8)

/-- The bits of `LANEn.POSk` that are not reserved (Table CTRL-26). -/
def posMask (k : Nat) : Nat := if k = 0 then 0xFFFFFF00 else if k = 1 then 0x1FFF1FFF else 0xFFFFFFFF

/-- `LANEn.POSk` (Table CTRL-26). Where the state leaves the contents undefined they are a free value; until the
lane takes its first descriptor they read their reset value. [Log 80 DEDUCED] -/
def State.lanePos (s : State) (n k : Nat) : Nat :=
  match s.physOf n with
  | none => 0
  | some p =>
    if !(s.lane p).used then 0
    else if !exactXst (s.lane p).xst then (Config.freeWord (s.free + 4 * n + k)).toNat &&& posMask k
    else match s.headStream p with
    | none => 0
    | some (c, x) =>
      let d := x.drainIndices
      match k with
      | 0 => c % 65536 * 65536 + x.epoch.toNat * 256
      | 1 => x.execPc % 8192 * 65536 + x.fetchPc % 8192
      | 2 => halves d.1 d.2.1
      | _ => halves d.2.2 x.tixWr

/-- The `LANEn` registers; those of absent lanes read 0. -/
def State.readLane (s : State) (n o : Nat) : Nat :=
  if n ≥ s.nLanes then 0
  else match o with
  | 0x00 => if s.ctl.pause.getLsbD n then 1 else 0
  | 0x04 => s.laneStat n
  | 0x10 => s.lanePos n 0
  | 0x14 => s.lanePos n 1
  | 0x18 => s.lanePos n 2
  | 0x1C => s.lanePos n 3
  | _ => 0

/-! ### Reads -/

/-- What a read of the control window answers (R243): bits [17:2] of the offset select the register. [Log 80 DEDUCED] -/
def State.readReg (s : State) (offset : BitVec 18) : Nat :=
  let off := offset.toNat / 4 * 4
  if !s.serves off then 0
  else if off < 0x1000 then s.readBlk off
  else if off < 0x2000 then s.ctl.readMbx off
  else if off < 0x3000 then s.flt.read off
  else if off < 0x4000 then s.pwr.read s.build.cfg off
  else if off < 0x5000 then s.readTime off
  else if off < 0x6000 then s.boot.read off
  else if off < 0x6800 then s.readLane ((off - 0x6000) / 0x100) (off % 0x100)
  else if off = 0xF004 then (if s.flt.inj then 1 else 0)
  else if off = 0xF008 then s.flt.injSel.toNat
  else if off = 0xF00C then s.flt.injArg.toNat
  else if off ≥ 0x20000 ∧ s.halExists ((off - 0x20000) / 4) then (s.hword ((off - 0x20000) / 4)).value
  else 0

/-! ### Writes -/

/-- Store a field of the time unit. -/
def Time.store (t : Time) (off w : Nat) : Time :=
  match off with
  | 0x4004 => if 2 ≤ w % 16 ∧ w % 16 ≤ 8 then { t with incInt := BitVec.ofNat 4 w } else t
  | 0x4030 => { t with ofsNs := BitVec.ofNat 30 w }
  | 0x4034 => { t with ofsLo := BitVec.ofNat 32 w }
  | 0x4038 => { t with ofsHi := BitVec.ofNat 16 w }
  | 0x4040 => { t with capcfg := BitVec.ofNat 16 w }
  | 0x4044 => { t with capValid := w1c t.capValid w, capOvf := w1c t.capOvf (w / 256) }
  | 0x404C => { t with trigLate := w1c t.trigLate w }
  | 0x4C04 => { t with evOvf := w1c t.evOvf w }
  | 0x4C08 => { t with evOvf := w1c t.evOvf (w * 2 ^ 32) }
  | _ => t

/-- Store a field of the boot logic. -/
def Boot.store (b : Boot) (off w : Nat) : Boot :=
  match off with
  | 0x5020 => { b with journalBase := BitVec.ofNat 32 w }
  | 0x5024 => { b with imgA := BitVec.ofNat 32 w }
  | 0x5028 => { b with imgB := BitVec.ofNat 32 w }
  | _ => b

/-- Store a field of the power manager. Reserved bits read 0 (R9). -/
def Pwr.store (p : Pwr) (off w : Nat) : Pwr :=
  match off with
  | 0x3004 => { p with seen := w1c p.seen (w / 256) }
  | 0x300C => { p with pmbReg := BitVec.ofNat 32 (w % 2 ^ 24) }
  | 0x3064 => { p with wsel := BitVec.ofNat 7 w }
  | _ => p

/-- Store a field of the fault collector or of the `TEST` group. Another `TEST` write breaks an unlock sequence (R348). -/
def Flt.store (f : Flt) (off w : Nat) : Flt :=
  match off with
  | 0x2004 => { f with hold := bitOn w 0, auto := bitOn w 1 }
  | 0xF008 => { f with injSel := BitVec.ofNat 32 (bits w 11 8 * 256 + w % 16), unlock := 0 }
  | 0xF00C => { f with injArg := BitVec.ofNat 32 w, unlock := 0 }
  | _ => if 0xF000 ≤ off ∧ off < 0x10000 then { f with unlock := 0 } else f

/-- Store a field of the mailboxes. -/
def Ctl.store (c : Ctl) (off w : Nat) : Ctl :=
  if 0x1000 ≤ off ∧ off < 0x1200 then { c with cmd := Tbl.set 0 c.cmd ((off - 0x1000) / 4) (BitVec.ofNat 32 w) }
  else if off = 0x1404 then { c with rplEn := BitVec.ofNat 8 w }
  else c

/-- Store a plain register field: those of which a write only sets or clears bits. -/
def State.store (s : State) (off w : Nat) : State :=
  { s with ctl := s.ctl.store off w, flt := s.flt.store off w, pwr := s.pwr.store off w, time := s.time.store off w, boot := s.boot.store off w }

/-- A write to the register is ignored: an owned command mailbox (R246), or an RW-L register after `READY` (R15). -/
def State.locked (s : State) (off : Nat) : Bool :=
  if 0x1000 ≤ off ∧ off < 0x1200 then s.ctl.cmdOwn.getLsbD ((off - 0x1000) / 64)
  else s.boot.done && (decide (off = 0x300C) || decide (off = 0x5020) || decide (off = 0x5024) || decide (off = 0x5028))

/-- `BOOT.CTL.START` (R354): it takes effect once per domain reset; the boot begins at step 1, and `QUIESCED` falls (R374). -/
def State.bootStart (s : State) : State :=
  if s.life.started then s
  else
    { s with
      life := { s.life with started := true }
      pins := { s.pins with quiesced := false }
      boot := { s.boot with step := 1, level := 0, begun := false } }

/-- `PWR.DUR_CLEAR` (Table POWER-9): a write of 1 clears the six durations. -/
def State.durClear (s : State) (w : Word) : State :=
  if w.getLsbD 0 then { s with pwr := { s.pwr with durNs := [0, 0, 0, 0, 0, 0], shown := { s.pwr.shown with dur := [0, 0, 0, 0, 0, 0] } } } else s

/-- A write of `FLT.STAT`: `SELF` and `SAFE` are W1C (Table FAULT-11). -/
def State.fltStat (s : State) (w : Word) : State :=
  let s := if w.getLsbD 2 then s.selfClear else s
  if w.getLsbD 0 then s.safeExit else s

/-- A write of `LANEn.CTL`. -/
def State.laneCtl (s : State) (n : Nat) (w : Word) : State := if w.getLsbD 0 then s.lanePause n else s.laneUnpause n

/-- A write to the Halyard window (R224, R225): `OP` 0 adds, `OP` 1 sets; other values and non-zero reserved bits are ignored. -/
def State.halWrite (s : State) (i : Nat) (w : Word) : State :=
  let v := bits w.toNat 29 0
  if !s.halExists i || decide (v ≥ 65536) then s
  else match bits w.toNat 31 30 with
  | 0 => if v = 0 then s else s.halAdd i v false
  | 1 => s.halSet i v
  | _ => s

/-- What a write to the control window does (R15, R243): the registers with an action of their own, and the plain ones. [Log 80 DEDUCED] -/
def State.writeReg (s : State) (off : Nat) (w : Word) : State :=
  if off = 0x1408 then s.mbxGo w
  else if off = 0x140C then s.mbxRelease w
  else if off = 0x2000 then s.fltStat w
  else if off = 0x201C then s.cntClear w
  else if off = 0x301C then s.durClear w
  else if off = 0x4008 then s.incFracWrite w
  else if off = 0x403C then s.ofsApply w
  else if off = 0x4804 then s.lkClear w
  else if off = 0x5000 then (if w.getLsbD 0 then s.bootStart else s)
  else if 0x6000 ≤ off ∧ off < 0x6800 ∧ off % 0x100 = 0 then s.laneCtl ((off - 0x6000) / 0x100) w
  else if off = 0xF000 then s.testUnlock w
  else if off = 0xF010 then s.injGo w
  else if off ≥ 0x20000 then s.halWrite ((off - 0x20000) / 4) w
  else if s.locked off then s
  else s.store off w.toNat

/-- `REGISTER_WRITE` (R9, R15, R243, R386, R387). -/
def execRegisterWrite (off : BitVec 18) (w : Word) (s : State) : Out :=
  gated s fun s => if s.serves (off.toNat / 4 * 4) then s.writeReg (off.toNat / 4 * 4) w else s

/-- `BOOT_START` (R354). -/
def execBootStart (s : State) : Out := gated s State.bootStart

/-- `DUR_CLEAR`. -/
def execDurClear (w : Word) (s : State) : Out := gated s fun s => s.durClear w

/-! ### A register that has lost its parity (kind 45) -/

/-- The reset value of a writable register. [Log 80 DEDUCED] -/
def resetValue (off : Nat) : Nat :=
  if off = 0x2004 then 2 else if off = 0x300C then 0x00192E00 else if off = 0x4004 then 4 else 0

/-- The register at `off` reads its reset value (kind 45 of Table FAULT-4): a W1C register is cleared, a lane's pause goes. [Log 80 DEDUCED] -/
def State.resetReg (s : State) (off : Nat) : State :=
  if [0x3004, 0x4044, 0x404C, 0x4C04, 0x4C08].contains off then s.store off (2 ^ 32 - 1)
  else if 0x6000 ≤ off ∧ off < 0x6800 ∧ off % 0x100 = 0 then s.laneUnpause ((off - 0x6000) / 0x100)
  else if off = 0x4008 then { s with time := { s.time with incFrac := 0 } }
  else s.store off (resetValue off)

end Sys2Proof.Machine
end

