-- ==== Sys2Proof/Machine/FaultFlow.lean ====
section
/-! DEFINITION. Faults as they flow (R326-R329, R334, R342, R345, R372): what a unit's own fault does, the collector taking a Burgee, clock
monitors, and what a warm restart loses. -/
namespace Sys2Proof.Machine

/-! ### Faults a unit raises by itself (Table FAULT-4) -/

/-- The source classes of the kinds that a unit raises of itself, without a command of the table causing them (Table FAULT-4); none for
the other kinds. Kind 13 is listed for the read beats of firmware's own requests. [Log 67 DESIGN CHOICE] -/
def kindClasses (k : Nat) : List Nat :=
  if k = 13 then [3]
  else if k = 14 ∨ k = 39 then [4]
  else if k = 16 ∨ k = 40 ∨ k = 41 then [3, 4]
  else if [17, 18, 20, 21].contains k then [2]
  else if [22, 23, 24, 26, 31].contains k then [1]
  else if [25, 27, 28, 29, 30, 35].contains k then [0]
  else if k = 37 ∨ k = 38 then [3]
  else if k = 43 ∨ k = 46 then [5]
  else if k = 47 ∨ k = 48 then [6]
  else if [45, 56, 57, 58].contains k then [8]
  else []

/-- The unit exists in the build (Table FAULT-2). -/
def State.hasUnit (s : State) (b : Burgee) : Bool :=
  match b.cls with
  | 0 | 1 => s.build.cfg.physLanes.contains b.inst
  | 2 => decide (b.inst < s.build.cfg.plates)
  | 3 | 4 => decide (b.inst < s.build.cfg.ports)
  | 5 => decide (b.inst = if b.kind = 43 then 0 else 2)
  | 6 => decide (b.inst < s.build.cfg.halyards / 1024)
  | 8 => decide (b.inst = if b.kind = 45 then 2 else if b.kind = 56 then 0 else 1)
  | _ => false

/-- The bits of `ADDR` that the format of a kind assigns (Tables FAULT-3, FAULT-4); the others read 0. -/
def addrBits (k : Nat) : Nat :=
  if k = 16 ∨ k = 30 ∨ k = 46 ∨ (49 ≤ k ∧ k ≤ 56) then 0
  else if 17 ≤ k ∧ k ≤ 21 then 0xFFFFF
  else if (7 ≤ k ∧ k ≤ 12) ∨ k = 42 ∨ k = 43 then 0x3FFFC000FFFF
  else if k = 47 ∨ k = 48 ∨ k = 57 ∨ k = 58 then 0x7FFF
  else if k = 40 ∨ k = 41 then 0x3FFF
  else if k = 45 then 0x3FFFF
  else 0x3FFFFFFFFFFF

/-- A raised Burgee as the collector sees it. [Log 67 DESIGN CHOICE] -/
def rawBurgee (r : RawBurgee) : Burgee := ⟨r.cls.val, r.inst.val, r.kind.val, r.addr.toNat &&& addrBits r.kind.val⟩

/-- The whole cell at `a` that port `q` has to write (R382): kind 14 concerns it while the sideband is off. -/
def WCell.exits (a : Nat) (c : WCell) : Bool := decide (c.addr = a) && decide (c.be = beAll)

/-- The write of the cell at `a` leaves port `q` marked `POISON` (kind 14). -/
def Port.poisonWrite (q : Port) (a : Nat) : Port :=
  { q with writes := q.writes.map fun e => (e.1, { e.2 with cells := e.2.cells.map fun c => if c.exits a then { c with poison := true } else c }) }

/-- A check value can fail at write exit (kind 14): the sideband is off, and the port writes a whole cell there (Table PORTS-7). -/
def State.exitChecked (s : State) (b : Burgee) : Bool :=
  !s.build.sideband.getLsbD b.inst && (s.port b.inst).writes.any fun e => e.2.cells.any (WCell.exits (b.addr * 64))

/-- The oldest block in the expander of port `p` fails (kinds 37 and 38). -/
def State.expandFault (s : State) (p : Nat) : State :=
  match (s.port p).expand with
  | j :: rest => (s.modPort p fun q => { q with expand := rest }).spoilBlock j
  | [] => s

/-- What a kind of Table FAULT-4 does at the unit that raises it. [Log 67 DESIGN CHOICE; log 68 DEDUCED] -/
def State.unitFault (s : State) (b : Burgee) : State :=
  match b.kind with
  | 14 => s.modPort b.inst fun q => q.poisonWrite (b.addr * 64)
  | 18 | 21 => let a := b.addr % 2 ^ 20 * 64
      if a < s.build.cfg.pool then { s with plate := s.plate.poisonCell a } else s
  | 35 => s.modLane b.inst fun l => { l with xlat := l.xlat.filter fun e => decide (e.vpage ≠ b.addr / 1024) }
  | 37 | 38 => s.expandFault b.inst
  | 39 => s.compressJob b.inst true
  | 45 => s.resetReg (b.addr % 2 ^ 18 / 4 * 4)
  | 46 => { s with time := { s.time with tsLock := false } }
  | 48 => { s with hal := { s.hal with unusable := Tbl.put (b.addr % 2 ^ 15) true s.hal.unusable } }
  | _ => if laneCheckKind b.kind then s.laneFault b.inst else s

/-- The cell of the program that the fetch engine of lane `p` stands in fails its check value (R78). -/
def State.spoilProgram (s : State) (p : Nat) : State :=
  match s.fetchStream p with
  | some (_, x) =>
    let mine := fun k => decide (k = progKey x.lane x.pid) && x.tl.isNone
    let l := s.fw.programs.map fun (e : Nat × Prog) => if mine e.1 then (e.1, { e.2 with bad := (x.fpc / 8 :: e.2.bad).eraseDups }) else e
    { s with fw := { s.fw with programs := l } }
  | none => s

/-- A unit's own fault: its effect, and its Burgee into the crossing of the unit. Kinds 27, 28 and 43 are raised by the check that finds them: the fetch of
the program's cell, the lane's taking of the descriptor, and the framing of the next frame with cells. -/
def State.ownFault (s : State) (b : Burgee) : State :=
  if !(kindClasses b.kind).contains b.cls || !s.hasUnit b then s
  else if b.kind = 27 then s.spoilProgram b.inst
  else if b.kind = 28 then s.modLane b.inst fun l => { l with queue := spoilFirst l.queue }
  else if b.kind = 43 then { s with link := { s.link with flawCell := true } }
  else if b.kind = 14 ∧ !s.exitChecked b then s
  else (s.unitFault b).raise b

/-- The collector finds a fault of its own (R337): a parity error of its control state, or a disagreement of its copies, sets `SELF` and enters the
safe state. Neither makes the copies agree again, and `differ` says whether they do. -/
def State.selfFault (s : State) (parity differ : Bool) : State :=
  let s := { s with flt := { s.flt with selfF := s.flt.selfF || parity || differ, copiesDiffer := differ } }
  if parity || differ then s.enterSafe else s

/-! ### Firmware's action (Table FAULT-4, last column) -/

/-- Firmware reads a codebook again from its image address (kind 41). A read that fails leaves the codebook as it is. [Log 67 DESIGN CHOICE] -/
def State.reloadBook (s : State) (h : HostView) (k : Nat) : State :=
  match Tbl.find s.fw.books k with
  | some (a, _) => match fwRead s h a 8192 with
    | some b => { s with fw := { s.fw with books := Tbl.put k (a, b) s.fw.books } }
    | none => s
  | none => s

/-- Firmware writes the program of the stream that a Burgee names again from its host image (kind 27). -/
def State.reloadProgram (s : State) (h : HostView) (c : Nat) : State :=
  match s.stream c with
  | some x => s.rereadProgram h (progKey x.lane x.pid) false
  | none => s

/-- Firmware's action after a Burgee: the lane check, the warm restart, the rewriting of a program or a codebook, or the cause 11 reply. Before `READY`, and
after a detach, no firmware runs that could act; during a warm restart a kind that is none of its own waits (Table FAULT-16). [Log 72 DEDUCED] -/
def State.firmwareAction (h : HostView) (s : State) (b : Burgee) : State :=
  if !s.boot.done || s.life.halted then s
  else if restartKind b.kind then
    { s with
      ctl := { s.ctl with fwReady := false }
      flt := { s.flt with recov := (s.flt.recov.filter fun r => !r.isRestart) ++ [Recovery.warmRestart b.kind] } }
  else if s.flt.restarting then { s with flt := { s.flt with todo := s.flt.todo ++ [b] } }
  else if laneCheckKind b.kind then
    let p := s.checkedLane b
    let now := s.now
    let s := if b.kind = 27 then s.reloadProgram h (bits b.addr 45 34) else s
    let s := { s with flt := { s.flt with
      recov := if s.flt.recov.contains (Recovery.laneCheck p) then s.flt.recov else s.flt.recov ++ [Recovery.laneCheck p]
      laneTimes := Tbl.modify [] s.flt.laneTimes p fun l => (l ++ [now]).filter fun t => decide ((now + 2 ^ 64 - t) % 2 ^ 64 < 1000000000) } }
    s.stopLane p (.halt .proof)
  else if b.kind = 41 then s.reloadBook h (bits b.addr 13 10)
  else if cause11Kind b.kind then s.faultReply ⟨11, 0xF, 0, 0, b.word % 2 ^ 32, b.word / 2 ^ 32, []⟩
  else s

/-- `BURGEE` (R327, R328): a fault that a unit or the collector finds of itself; then, of one CCLK cycle, the Burgees that the named crossings deliver
enter in their order, and firmware acts on each. [Log 18 DEDUCED; log 67 DESIGN CHOICE] -/
def execBurgee (doms : List Dom) (raised : Option Detected) (h : HostView) (s : State) : Out :=
  running s fun s =>
    let s := match raised with
      | some (.unit r) => s.ownFault (rawBurgee r)
      | some (.collector p d) => s.selfFault p d
      | none => s
    let a := s.arrive doms
    a.2.foldl (State.firmwareAction h) (a.1.collectAll a.2)

/-! ### Clock monitors (R330, R372) -/

/-- The monitor of a clock (Table FAULT-2). -/
def clockIdx : Clock → Nat
  | .aclk => 0 | .pclk => 1 | .lclk => 2 | .cclk => 3 | .tclk => 4

/-- The kind a monitor raises (Table FAULT-4); only ACLK has one for a loss of its own. -/
def clockKind : Clock → Bool → Nat
  | .aclk, true => 49 | .aclk, false => 50 | .pclk, _ => 51 | .lclk, _ => 52 | .cclk, _ => 53 | .tclk, _ => 54

/-- What a clock fault does beside its Burgee: the PLL relocks at OP0 and `CLOCK` accrues, the port acts as on loss reason 1,
`TCLK_OK` falls. [Log 71 DEDUCED] -/
def State.clockEffect (s : State) (c : Clock) (loss : Bool) : State :=
  let s := { s with flt := { s.flt with clkFlag := setBit s.flt.clkFlag (clockIdx c) true } }
  match c with
  | .aclk => s.aclkFault loss
  | .lclk => if s.link.up then s.losePeer 1 else s
  | .tclk => { s with time := { s.time with tclkOk := false } }
  | _ => s

/-- `CLOCK_MONITOR_FAULT` (R330, R372): the monitor flags its clock. [Log 71 DEDUCED] -/
def execClockMonitorFault (clk : Clock) (loss : Bool) (s : State) : Out :=
  running s fun s => (s.clockEffect clk loss).raise ⟨7, clockIdx clk, clockKind clk loss, 0⟩

/-- `CLOCK_RETURN` (Table FAULT-9): the monitor no longer flags its clock. A fatal kind stays a cause until a domain reset. [Log 71 DEDUCED] -/
def execClockReturn (clk : Clock) (s : State) : Out :=
  running s fun s =>
    let i := clockIdx clk
    { s with
      flt := { s.flt with
        clkFlag := setBit s.flt.clkFlag i false
        causes := s.flt.causes.filter fun b => decide (b.inst ≠ i) || decide (kindSev b.kind = 3) }
      pwr := if clk = .aclk then { s.pwr with clkFault := false, active := setBit s.pwr.active 5 false } else s.pwr
      time := if clk = .tclk then { s.time with tclkOk := s.time.run } else s.time }

/-! ### The end of a warm restart (R345) -/

/-- A lane that keeps nothing but the host's pause. [Log 73 DEDUCED] -/
def Lane.blank (l : Lane) : Lane :=
  if l.stops.contains .hostPause then
    { Lane.reset with stops := [.hostPause], reported := [.hostPause], holding := true, xst := 4, used := l.used }
  else { Lane.reset with used := l.used }

/-- Every object is lost: the block is unattached (R345). Lane places and the link's own buffer stay. [Log 73 DEDUCED] -/
def State.loseObjects (s : State) : State :=
  let buf := match s.link.buf with
    | some a => [(a, retryBytes)]
    | none => []
  let fw := { Fw.reset s.build.cfg s.otp.laneDisable with
    held := buf, laneMap := s.fw.laneMap, spares := s.fw.spares, outOfService := s.fw.outOfService }
  let s := { s with fw := fw, hal := { s.hal with words := [], evBind := [], unusable := [], upset := [] } }
  s.build.cfg.physLanes.foldl (fun s p => s.modLane p Lane.blank) s

/-- The kind that caused the warm restart. -/
def Flt.restartKind (f : Flt) : Nat :=
  (f.recov.filterMap fun r => match r with
    | .warmRestart k => some k
    | _ => none).headD 0

/-- A command that firmware had accepted is answered `FAULTED` (R345); a reply already made is kept. Lanes that had drained for it are
released. [Log 73 DEDUCED] -/
def State.failHand (s : State) : State :=
  s.build.cfg.physLanes.foldl (fun s p => if (s.lane p).reported.contains .fwPause then s.unstop p .fwPause else s) (s.finishHand 8 [])

end Sys2Proof.Machine
end

