-- ==== Sys2Proof/Machine/PowerEvents.lean ====
section
/-! DEFINITION. The events of the power manager as commands of the table (R296-R301, R305, R313, R315-R318). -/
namespace Sys2Proof.Machine

/-- The power manager works: from `READY` on, until a detach halts the core (R306, R364, R365). -/
def State.manages (s : State) : Bool := s.boot.done && !s.life.halted

/-- `CONTROL_INTERVAL`. -/
def execControlInterval (s : State) : Out := running s fun s => if s.manages then s.controlInterval else s

/-- `PLL_SLEW_DONE`. -/
def execPllSlewDone (s : State) : Out := running s State.pllSlewDone

/-- `VOUT_SETTLE_EXPIRY`. -/
def execVoutSettleExpiry (s : State) : Out := running s State.voutSettleExpiry

/-- `PMBUS_TRANSACTION_DONE`. -/
def execPmbusTransactionDone (r : Option (BitVec 16)) (s : State) : Out := running s fun s => s.pmbusDone r

/-- `PMBUS_STATUS_POLL`. -/
def execPmbusStatusPoll (s : State) : Out := running s fun s => if s.manages then s.pmbusPoll else s

/-- `PMBUS_RETRY_TIMER`. -/
def execPmbusRetryTimer (s : State) : Out := running s fun s => if s.manages then s.pmbusRetry else s

/-- `VR_ALERT` (R301): before the power manager runs, only the level is kept (Table START-14). -/
def execVrAlert (s : State) : Out :=
  onPin s (fun p => { p with vrAlertN := false }) fun s => if s.pwr.pmb = 0 ∨ s.alive = false then s else s.vrAlert

/-- `VR_ALERT_RELEASE`. -/
def execVrAlertRelease (s : State) : Out :=
  onPin s (fun p => { p with vrAlertN := true }) fun t => if s.pwr.pmb = 0 ∨ s.pins.vrAlertN ∨ s.alive = false then t else t.vrAlertRelease

/-- `VR_ALERT_HOLD_EXPIRY`. -/
def execVrAlertHoldExpiry (s : State) : Out := running s State.vrAlertHoldExpiry

/-- `ENERGY_MODEL_FIT`. -/
def execEnergyModelFit (s : State) : Out := running s fun s => if s.manages then s.energyModelFit else s

/-! ### Wear (R315-R318) -/

/-- The monitors that are measured (R315): those of the Burins present and not failed, and of the control region. -/
def State.monitors (s : State) : List Nat :=
  (s.build.cfg.physLanes.filter fun p => !s.otp.laneDisable.getLsbD p && !s.flt.failed.getLsbD p).flatMap (fun p => (List.range 12).map (12 * p + ·)) ++
    [120, 121, 122, 123]

/-- The drifts of one measurement at point `p`, with their monitors. -/
def State.drifts (s : State) (p : Nat) (temp : Int) (readings : List Nat) : List (Nat × Rat) :=
  s.monitors.filterMap fun m => (wearDrift s.otp m p (nth 0 readings m) temp).map fun d => (m, d)

/-- The largest drift. [Log 75 DEDUCED] -/
def topDrift (l : List (Nat × Rat)) : Option (Nat × Rat) :=
  l.foldl (fun (a : Option (Nat × Rat)) e => match a with
    | some x => if e.2 > x.2 then some e else some x
    | none => some e) none

/-- A drift of monitor `m` above 2 % at point `p` (R316, R318): the offset rises by 5 mV, at most once in 10 s of measurement at the point, or at
40 mV the point is withdrawn with every point above it. Each change is journalled first. [Log 75 DEDUCED] -/
def State.reactDrift (s : State) (h : HostView) (p m : Nat) : State :=
  let o := nth 0 s.pwr.ofs p
  if o ≥ 40 then
    if s.pwr.withdrawn p then s
    else
      let s := s.journalWear h p o true
      (({ s with pwr := s.pwr.retire p }).foldPlan h).raise ⟨9, 3, 63, p * 65536 + m⟩
  else if Tbl.get 0 s.pwr.raiseHold p ≠ 0 then s
  else
    let s := s.journalWear h p (o + 5) (s.pwr.withdrawn p)
    ({ s with pwr := s.pwr.raiseOfs p s.alertOn }).foldPlan h

/-- The voltage plan of point `p` is in force at it, so that a measurement counts towards the 10 s of R316: no raise is open and the voltage has been
commanded, or there is no regulator to command. -/
def Pwr.planInForce (w : Pwr) (p : Nat) : Bool := decide (w.addr = 0) || (w.raise.isNone && decide (w.vset = some (w.plannedWord p)))

/-- One measurement of every monitor at the point in force (R315, R316). An injected wear reading (R348, site 11) is a free value. [Log 75 DEDUCED] -/
def State.measureWear (s : State) (h : HostView) (temp : Int) (readings : List Nat) : State :=
  let p := s.pwr.op
  let (readings, free) := match s.pwr.flawWear with
    | some m => (readings.set m ((Config.freeWord s.free).toNat % 65536), s.free + 1)
    | none => (readings, s.free)
  let s := { s with free := free }
  let data := s.monitors.foldl (fun t m => Tbl.put m (p, nth 0 readings m) t) s.pwr.wdata
  let top := topDrift (s.drifts p temp readings)
  let w := { s.pwr with
    flawWear := none, wdata := data
    raiseHold := if s.pwr.planInForce p then Tbl.set 0 s.pwr.raiseHold p (Tbl.get 0 s.pwr.raiseHold p - 1) else s.pwr.raiseHold
    wearMon := match top with | some (m, _) => m | none => s.pwr.wearMon
    wearDrift := match top with | some (_, d) => (d * 10000).floor | none => s.pwr.wearDrift }
  let s := { s with pwr := w }
  match top with
  | some (m, d) => if d > 2 / 100 then s.reactDrift h p m else s
  | none => s

/-- `WEAR_MEASUREMENT` (R315-R318). -/
def execWearMeasurement (temp : Int) (readings : List Nat) (h : HostView) (s : State) : Out :=
  running s fun s => if s.manages && s.ctl.fwReady then s.measureWear h temp readings else s

end Sys2Proof.Machine
end

