-- ==== Sys2Proof/Machine/Boot.lean ====
section
/-! DEFINITION. Start-up, attach and update (R256, R306, R351-R367, R370, R373, R397, R398): boot steps and their journal, the watchdog, `ATTACH`,
`FW_UPDATE`, and the power, reset, isolation and test pins. -/
namespace Sys2Proof.Machine

/-! ### Outcomes of the boot steps (R355-R357) -/

/-- Set the outcome of step `k` in `BOOT.RESULT`. -/
def Boot.outcome (b : Boot) (k v : Nat) : Boot :=
  { b with result := (b.result &&& ~~~ (BitVec.ofNat 22 (3 * 4 ^ (k - 1)))) ||| BitVec.ofNat 22 (v * 4 ^ (k - 1)) }

/-- The slot that the slot level names: the active one at level 0, else the other. -/
def Boot.slot (b : Boot) : Nat := if decide (b.level = 0) = b.slotActive then 1 else 0

/-- What a journal record of the step in hand carries as its level: the slot for steps 6 and 7. -/
def Boot.recLevel (b : Boot) : Nat := if slotStep b.step then b.slot else b.level

/-- Write a record of the step in hand. -/
def State.stepRecord (s : State) (h : HostView) (outcome detail : Nat) : State :=
  s.journal h ⟨1, s.boot.step, s.boot.recLevel, outcome, detail⟩

/-- The boot stops at the step in hand (R357, R359). -/
def State.bootStop (s : State) : State := { s with boot := { s.boot.outcome s.boot.step 3 with stop := true } }

/-! ### The journal at a start (R358, R361) -/

/-- The step records of the previous start, when entry 0 names this one. -/
def previousRecords (valid : List (List Byte)) (startNo : Nat) : List (List Byte) := stepRecords valid (startNo + 65535)

/-- The starting level of each step, 0 to 11 (Table START-5): for the slot level, whether it is the active slot's. -/
def startLevels (prev : List (List Byte)) (active : Nat) : List Nat :=
  let ready := reachedReady prev
  (List.range 12).map fun k =>
    if slotStep k then (if startLevel k active (lastSlot prev) ready = active then 0 else 1)
    else startLevel k active (lastOf prev k) ready

/-- The Burin on which the previous start was cut off (Table START-4, step 5). -/
def cutBurinOf (prev : List (List Byte)) : Option Nat :=
  match lastOf prev 5 with
  | some b => if fieldLE b 9 1 = 0 then some (fieldLE b 10 2) else none
  | none => none

/-- The journal is read and its header rewritten (R358, R361 steps 1 to 3). The highest `START` of step 2 is the greatest of the 16-bit
numbers, whether or not `START` has wrapped. A header with a wrong `MAGIC` has reset the block's learning (R361), and every step begins at
level 0. [Log 74 DEDUCED; log 86 DESIGN CHOICE] -/
def State.readJournal (s : State) (h : HostView) : State :=
  let s := { s with boot := { s.boot with jfail := false, jnew := false } }
  if s.boot.journalBase = 0 then s
  else match hostRead s.build.cfg.ports h (s.boot.entryAddr 0) 4096 with
  | none => { s with boot := { s.boot with journal := true, jfail := true } }
  | some b =>
    let es := (List.range 256).map fun i => slice b (16 * i) 16
    let valid := validRecords es
    let hd := slice b 0 16
    let ok := headerValid hd
    let starts := if ok then (fieldLE hd 8 4 + 1) % 2 ^ 32 else 1 + (valid.map recStart).foldl max 0
    let active := if ok then fieldLE hd 5 1 % 2 else 0
    let prev := previousRecords valid starts
    let s := { s with boot := { s.boot with
      journal := true
      jnew := !ok
      startNo := starts
      slotActive := decide (active = 1)
      nextSeq := match newestRec valid with
        | some r => (recSeq r + 1) % 2 ^ 32
        | none => 0
      levels := if fieldLE hd 0 4 = 0x31594E4A then startLevels prev active else []
      cutBurin := cutBurinOf prev } }
    let s := s.putEntry h 0 (headerBytes active starts)
    if entryValid (slice b 16 16) then s else s.putEntry h 1 (planBytes [] [] 0)

/-- The wear records later than `upto`, in `SEQ` order (R361 step 4). -/
def wearRecords (es : List (List Byte)) (upto : Nat) : List (List Byte) :=
  let l := (validRecords es).filter fun b => decide (fieldLE b 6 1 = 2) && later32 (recSeq b) upto
  recordsInOrder l.length l

/-- Apply a `WEAR` record to the plan. -/
def Pwr.applyWear (w : Pwr) (b : List Byte) : Pwr :=
  let d := fieldLE b 10 2
  let p := bits d 11 8
  let w := { w with ofs := w.ofs.set p (5 * bits d 3 0) }
  if bitOn d 7 then w.retire p else w

/-- Restore the plan of entry 1 and the records it does not cover (R361 step 4); a point withdrawn stays withdrawn with all above. -/
def State.restorePlan (s : State) (h : HostView) : State :=
  if !s.boot.writable then s
  else match hostRead s.build.cfg.ports h (s.boot.entryAddr 0) 4096 with
  | none => { s with boot := { s.boot with jfail := true } }
  | some b =>
    let es := (List.range 256).map fun i => slice b (16 * i) 16
    let e1 := slice b 16 16
    let w := if entryValid e1 then { s.pwr with
        ofs := (List.range 8).map fun p => 5 * (fieldLE e1 p 1 % 16)
        retired := (List.range 8).map fun p => bitOn (fieldLE e1 p 1) 7 } else s.pwr
    { s with pwr := (wearRecords es (if entryValid e1 then fieldLE e1 8 4 else 0)).foldl Pwr.applyWear w }

/-! ### Steps begin (R356, R357) -/

/-- The Burins that are tested: the enabled physical lanes from `p` on, without the one that level 1 marks. [Log 78 DEDUCED] -/
def State.burinsFrom (s : State) (p : Nat) : List Nat :=
  s.build.cfg.physLanes.filter fun q => decide (q ≥ p) && !s.otp.laneDisable.getLsbD q &&
    !(decide (s.boot.level = 1) && decide (s.boot.cutBurin = some q))

/-- A Burin fails at start-up (R356): its lane is failed as at run time, without a Burgee or a reply, and a pause
that the host has set follows the logical lane (R266). [Log 78 DEDUCED] -/
def State.failBurin (s : State) (p : Nat) : State :=
  let s := { s with
    boot := { s.boot with bistFail := setBit s.boot.bistFail p true }
    flt := { s.flt with failed := setBit s.flt.failed p true } }
  match s.logicalOf p with
  | none => { s with fw := { s.fw with spares := s.fw.spares.erase p } }
  | some n => match s.fw.spares with
    | q :: rest =>
      let t := { s with fw := { s.fw with laneMap := Tbl.put n q s.fw.laneMap, spares := rest } }
      (t.setLane q (s.lane p).takeOver).setLane p Lane.reset
    | [] => { s with fw := { s.fw with laneMap := Tbl.drop n s.fw.laneMap, outOfService := Tbl.put n true s.fw.outOfService } }

/-- The test of a Burin begins: its `BEGUN` record names it. -/
def State.beginBurin (s : State) (h : HostView) (p : Nat) : State :=
  ({ s with boot := { s.boot with burin := p } }).stepRecord h 0 p

/-- `WEAR_REPLAN` begins (R299, R356): the plan is restored, the power manager takes the bus, and the OP0 voltage is commanded. -/
def State.beginReplan (s : State) (h : HostView) : State :=
  let s := s.restorePlan h
  let w := { s.pwr with pmb := if s.pwr.addr = 0 then 3 else 1 }
  let s := { s with pwr := (w.command (w.planned 0)).show_ }
  if s.pins.vrAlertN then s else s.vrAlert

/-- Enter a step at a level: its `BEGUN` record, and what the step does at once. -/
def State.enterStep (s : State) (h : HostView) (k level : Nat) : State :=
  let s := { s with boot := { s.boot with step := k, level := level, begun := true } }
  match k with
  | 5 =>
    let s := { s with boot := { s.boot with bistFail := 0 } }
    let s := match s.boot.cutBurin with
      | some p => if level = 1 then s.failBurin p else s
      | none => s
    match s.burinsFrom 0 with
    | p :: _ => s.beginBurin h p
    | [] => s
  | 8 => (s.stepRecord h 0 0).beginReplan h
  | _ => s.stepRecord h 0 0

/-- The starting level of step `k` (R358): level 0 once the journal has failed in this start (R361). -/
def Boot.levelOf (b : Boot) (k : Nat) : Nat := if b.jfail then 0 else nth 0 b.levels k

/-- `LINK_TRAIN` at level 2 is skipped, the link is `OFF`, and `TIME_LOCK` begins (R356, R357). [Log 78 DEDUCED] -/
def State.skipTrain (s : State) (h : HostView) : State :=
  let s := { s with boot := { s.boot.outcome 9 3 with step := 9, level := 2 }, link := { s.link with st := 5 } }
  (s.stepRecord h 4 0).enterStep h 10 (s.boot.levelOf 10)

/-- Begin step `k` at its starting level. [Log 78 DEDUCED] -/
def State.beginStep (s : State) (h : HostView) (k : Nat) : State :=
  let l := s.boot.levelOf k
  if k = 9 ∧ l = 2 then s.skipTrain h else s.enterStep h k l

/-- The step in hand passes: `alt` when by an alternative; its outcome record carries `detail`. -/
def State.passStep (s : State) (h : HostView) (alt : Bool) (detail : Nat) : State :=
  let k := s.boot.step
  let s := s.stepRecord h (if alt then 2 else 1) detail
  { s with boot := s.boot.outcome k (if alt then 2 else 1) }

/-- The step in hand fails and goes on at its next level (R357). -/
def State.nextLevel (s : State) (h : HostView) (detail : Nat) : State :=
  let s := s.stepRecord h 3 detail
  s.enterStep h s.boot.step (s.boot.level + 1)

/-! ### Firmware images (R362) -/

/-- The address of slot `k`. -/
def Boot.slotAddr (b : Boot) (k : Nat) : Nat := regionBase (if k = 0 then b.imgA else b.imgB)

/-- `MAGIC`, `FORMAT` and `BLEN` are right (R362). -/
def imageHeaderOk (b : List Byte) : Bool :=
  let n := fieldLE b 12 4
  decide (fieldLE b 0 4 = 0x31574654) && decide (fieldLE b 4 1 = 1) && decide (n % 64 = 0) && decide (64 ≤ n) && decide (n ≤ 196608)

/-- `BLEN` is a body length that `FW_LOAD` takes (R362). -/
def bodyLengthOk (n : Nat) : Bool := decide (n % 64 = 0) && decide (64 ≤ n) && decide (n ≤ 196608)

/-- `FW_LOAD` of the image at `a` (R362): the image, or the reason. Every read is checked before the header is; a `BLEN` out of its range
names no body to read. [Log 76 DEDUCED] -/
def loadImage (np : Nat) (h : HostView) (a : Nat) : Nat ⊕ List Byte :=
  match hostRead np h a 192 with
  | none => .inl 4
  | some hd =>
    if !bodyLengthOk (fieldLE hd 12 4) then .inl 3
    else match hostRead np h (a + 192) (fieldLE hd 12 4) with
    | none => .inl 4
    | some body => if imageHeaderOk hd then .inr (hd ++ body) else .inl 3

/-- The digest that the signature covers: bytes 0 to 127, then the body. -/
def imageDigest (img : List Byte) : Nat := sha256 (img.take 128 ++ img.drop 192)

/-- `FW_VERIFY` (R362): 0 when the image passes, else the reason. -/
def verifyImage (keyHash : Nat) (img : List Byte) : Nat :=
  if sha256 (slice img 64 64) ≠ keyHash then 1
  else
    let f := fun o : Nat => ofBytesBE (slice img o 32)
    if ecdsaVerify (f 64) (f 96) (f 128) (f 160) (imageDigest img) then 0 else 2

/-- A slot has failed (R357): the other slot is tried, or the boot stops once both have failed. -/
def State.failSlot (s : State) (h : HostView) (reason : Nat) : State :=
  let s := s.stepRecord h 3 (reason * 256)
  let s : State := { s with boot := { s.boot with slotFail := setBit s.boot.slotFail s.boot.slot true } }
  match decide (s.boot.slotFail.toNat = 3) with
  | true => s.bootStop
  | false => s.enterStep h 6 (1 - s.boot.level)

/-! ### The end of a step's attempt (R356, R357, R364) -/

/-- Steps 1 to 3: essential, without records until the journal has been read (R357). -/
def State.endEarly (s : State) (h : HostView) (ok : Bool) : State :=
  let k := s.boot.step
  if !ok then s.bootStop
  else
    let s := { s with boot := { s.boot.outcome k 1 with step := k + 1, level := 0 } }
    if k < 3 then s
    else
      let s := s.readJournal h
      let s := [1, 2, 3].foldl (fun s i => s.journal h ⟨1, i, 0, 1, 0⟩) s
      s.beginStep h 4

/-- `PLATE_BIST` (R357): rows mapped out make it an alternative; after the short march the boot stops. [Log 5 DESIGN CHOICE] -/
def State.endPlates (s : State) (h : HostView) (e : StepEnd) : State :=
  let s := { s with boot := { s.boot with bistRows := BitVec.ofNat 16 e.rows } }
  if e.ok then (s.passStep h (decide (s.boot.level ≠ 0) || decide (e.rows ≠ 0)) e.rows).beginStep h 5
  else if s.boot.level = 0 then s.nextLevel h e.rows
  else (s.stepRecord h 3 e.rows).bootStop

/-- One Burin of `BURIN_BIST` (R356): the next is tested, or the step passes. -/
def State.endBurin (s : State) (h : HostView) (ok : Bool) : State :=
  let s := if ok || !(s.burinsFrom 0).contains s.boot.burin then s else s.failBurin s.boot.burin
  match s.burinsFrom (s.boot.burin + 1) with
  | p :: _ => s.beginBurin h p
  | [] => (s.passStep h (decide (s.boot.level ≠ 0) || decide (s.boot.bistFail ≠ 0)) s.boot.bistFail.toNat).beginStep h 6

/-- `FW_LOAD` (R362). -/
def State.endLoad (s : State) (h : HostView) : State :=
  match loadImage s.build.cfg.ports h (s.boot.slotAddr s.boot.slot) with
  | .inl r => s.failSlot h r
  | .inr img =>
    let s := s.passStep h (decide (s.boot.level ≠ 0)) 0
    ({ s with boot := { s.boot with image := some img } }).enterStep h 7 s.boot.level

/-- `FW_VERIFY` (R362): the core runs the image; its digest is kept in two copies (R345). -/
def State.endVerify (s : State) (h : HostView) : State :=
  match s.boot.image with
  | none => s.failSlot h 4
  | some img =>
    let r := verifyImage s.otp.keyHash img
    if r ≠ 0 then s.failSlot h r
    else
      let s := s.passStep h (decide (s.boot.level ≠ 0)) 0
      let d := imageDigest img
      ({ s with boot := { s.boot with
        slotRunning := decide (s.boot.slot = 1), digest := some (d, d), fwver := BitVec.ofNat 32 (fieldLE img 8 4) } }).beginStep h 8

/-- `WEAR_REPLAN` (R316, R356): at level 0 every monitor is measured once at OP0; it never stops the boot. -/
def State.endReplan (s : State) (h : HostView) (e : StepEnd) : State :=
  if e.ok then
    let s := if s.boot.level = 0 then s.measureWear h e.temp e.wear else s
    (s.passStep h (decide (s.boot.level ≠ 0)) 0).beginStep h 9
  else if s.boot.level = 0 then s.nextLevel h 0
  else
    let s := s.stepRecord h 3 0
    ({ s with boot := s.boot.outcome 8 3 }).beginStep h 9

/-- `LINK_TRAIN` (R356, R357): the reduced rate, and then link-down mode, are its alternatives. -/
def State.endTrain (s : State) (h : HostView) (ok : Bool) : State :=
  if ok then
    let alt := decide (s.boot.level ≠ 0)
    let s := s.passStep h alt 0
    ({ s with boot := { s.boot with linkReduced := alt } }).beginStep h 10
  else if s.boot.level = 0 then s.nextLevel h 0
  else (s.stepRecord h 3 0).skipTrain h

/-- `TIME_LOCK` (R285): `NS_CNT` starts at 0 and the time-stamp unit locks. -/
def State.endTime (s : State) (h : HostView) (ok : Bool) : State :=
  if !ok then (s.stepRecord h 3 0).bootStop
  else
    let s := s.passStep h false 0
    ({ s with time := { s.time with run := true, tclkOk := true, tsLock := true, ns := 0, frac := 0 } }).beginStep h 11

/-- `READY` (R364): firmware takes commands, and every RW-L register is locked. -/
def State.endReady (s : State) (h : HostView) (ok : Bool) : State :=
  if !ok then (s.stepRecord h 3 0).bootStop
  else
    let s := s.passStep h false 0
    { s with boot := { s.boot with done := true, begun := false }, ctl := { s.ctl with fwReady := true } }

/-- The attempt at the boot step in hand has ended. -/
def State.bootStep (s : State) (h : HostView) (e : StepEnd) : State :=
  if s.boot.done then s
  else match s.boot.step with
  | 1 | 2 | 3 => s.endEarly h e.ok
  | 4 => s.endPlates h e
  | 5 => s.endBurin h e.ok
  | 6 => s.endLoad h
  | 7 => s.endVerify h
  | 8 => s.endReplan h e
  | 9 => s.endTrain h e.ok
  | 10 => s.endTime h e.ok
  | 11 => s.endReady h e.ok
  | _ => s

/-- `BOOT_STEP_DONE` (R355-R362, R364). -/
def execBootStepDone (e : StepEnd) (h : HostView) (s : State) : Out := running s fun s => s.bootStep h e

/-- An internal restart (R359): the domain is reset but for the `BOOT`, `PWR.PMB` and `MBX.STAT` registers, and a new start begins at step 1.
Fields that tell of this start keep the values of the last one until the new start reaches what they tell of. [Log 78 DEDUCED] -/
def State.internalRestart (s : State) : State :=
  let t := State.afterReset s.build s.otp s.pins s.life.testSampled s.free s.pending s.fwWrites s.macOut s.hostOut
  { t with
    life := { t.life with started := true }
    pins := { t.pins with quiesced := false }
    boot := { t.boot with
      journalBase := s.boot.journalBase, imgA := s.boot.imgA, imgB := s.boot.imgB, restarts := s.boot.restarts + 1, step := 1
      jfail := s.boot.jfail, jnew := s.boot.jnew, result := s.boot.result, bistFail := s.boot.bistFail, bistRows := s.boot.bistRows
      slotActive := s.boot.slotActive, slotRunning := s.boot.slotRunning }
    pwr := { t.pwr with pmbReg := s.pwr.pmbReg }
    ctl := { t.ctl with cmdOwn := s.ctl.cmdOwn, rplFull := s.ctl.rplFull, dropped := s.ctl.dropped } }

/-- `BOOT_WATCHDOG_EXPIRY` (R359): the step in hand exceeds its limit; after three internal restarts the boot stops. -/
def execBootWatchdogExpiry (s : State) : Out :=
  running s fun s =>
    if s.boot.done then s
    else if s.boot.restarts ≥ 3 then s.bootStop
    else s.internalRestart

/-! ### `ATTACH` (R121, R256, R306) -/

/-- An entry of the regulator record: `BURST` and `RATE`. -/
def regEntry (b : List Byte) (i : Nat) : Nat × Nat := (bits (fieldLE b (4 * i) 4) 28 16, bits (fieldLE b (4 * i) 4) 10 0)

/-- The reserved bits of an entry are zero. -/
def regReservedOk (b : List Byte) (i : Nat) : Bool :=
  let w := fieldLE b (4 * i) 4
  decide (bits w 31 29 = 0) && decide (bits w 15 11 = 0)

/-- `RATE` and `BURST` lie in their ranges. -/
def regRangeOk (e : Nat × Nat) : Bool := decide (e.2 ≤ 1024) && (decide (e.2 = 0) || (decide (32 ≤ e.1) && decide (e.1 ≤ 4096)))

/-- The entries of the lanes and ports present. -/
def State.regPresent (s : State) : List Nat := (List.range s.nLanes).flatMap fun l => (List.range s.build.cfg.ports).map (4 * l + ·)

/-- The regulator record (R256 steps 1 to 3): its bytes, none with no record, or a status. -/
def readRegs (np : Nat) (h : HostView) (a crc : Nat) : Nat ⊕ Option (List Byte) :=
  if a = 0 then .inr none
  else if a % 64 ≠ 0 then .inl 4
  else match hostRead np h a 128 with
  | none => .inl 8
  | some b => if crc32c b ≠ crc then .inl 10 else .inr (some b)

/-- The block attaches with these settings: translation caches are emptied, and the energy history restarts (R306). [Log 77 DESIGN CHOICE] -/
def State.attachWith (s : State) (root compat : Nat) (reg : Tbl (Nat × Nat)) : State :=
  let s := { s with
    fw := { s.fw with attached := true, root := root, compat := BitVec.ofNat 8 compat, reg := reg }
    pwr := { s.pwr with hist := List.replicate 1000 ((s.pwr.cap : Rat) / 1000) } }
  s.build.cfg.physLanes.foldl (fun s p => s.modLane p Lane.invalidate) s

/-- `ATTACH` (R256). Reserved bits of the payload are tested with those of the record. [Log 52 DEDUCED; log 77 DESIGN CHOICE] -/
def attachBody (h : HostView) (s : State) (p : Nat → Nat) : Ans :=
  let root := addr52 (p 0) (p 1)
  let compat := bits (p 1) 31 24
  match readRegs s.build.cfg.ports h (addr52 (p 2) (p 3)) (p 4) with
  | .inl st => Ans.err s st
  | .inr rec =>
    let b := rec.getD []
    let present := if rec.isSome then s.regPresent else []
    if bits (p 1) 23 20 ≠ 0 ∨ bits (p 3) 31 20 ≠ 0 ∨ compat / 2 ^ s.nLanes ≠ 0 ∨ present.any (fun i => !regReservedOk b i) then Ans.err s 2
    else if root % 2097152 ≠ 0 then Ans.err s 4
    else if present.any fun i => !regRangeOk (regEntry b i) then Ans.err s 3
    else if s.fw.attached ∧ (s.liveHandles ≠ 0 ∨ s.fw.streams ≠ []) then Ans.err s 1
    else Ans.ok (s.attachWith root compat (present.map fun i => (i, regEntry b i))) []

/-- `ATTACH`. -/
def execAttach (h : HostView) (s : State) : Out := command 0x10 anyVariant (fun s p => (attachBody h s p).verdict) s

/-! ### `FW_UPDATE` (R363, Table START-11) -/

/-- The slot is written and read back; a failure leaves its contents undefined. [Log 24 DEDUCED] -/
def State.writeSlot (s : State) (h : HostView) (slot : Nat) (img : List Byte) : State × Bool :=
  let a := s.boot.slotAddr slot
  if (hostBad s.build.cfg.ports h a img.length).isSome then
    let (b, s) := s.freeBytes img.length
    (s.fwWrite a b, false)
  else (s.fwWrite a img, true)

/-- The new slot is made active (R363 step 4). [Log 76 DEDUCED] -/
def State.activate (s : State) (h : HostView) (slot : Nat) : Ans :=
  let s := (s.journal h ⟨5, 0, 0, 0, slot⟩).putEntry h 0 (headerBytes slot s.boot.startNo)
  if !s.boot.writable then Ans.err s 8 else Ans.ok { s with boot := { s.boot with slotActive := decide (slot = 1) } } []

/-- The rows of Table START-11 that look at the image. [Log 76 DEDUCED] -/
def imageStatus (keyHash len : Nat) (img : List Byte) : Nat :=
  if !imageHeaderOk img ∨ 192 + fieldLE img 12 4 ≠ len then 2
  else if verifyImage keyHash img ≠ 0 then 9
  else 0

/-- `FW_UPDATE`. [Logs 52, 76 DEDUCED] -/
def fwUpdateBody (h : HostView) (s : State) (p : Nat → Nat) : Ans :=
  let slot := bits (p 0) 0 0
  let act := bitOn (p 0) 8
  let a := addr52 (p 1) (p 2)
  let len := p 3
  if bits (p 0) 31 9 ≠ 0 ∨ bits (p 0) 7 1 ≠ 0 ∨ bits (p 2) 31 20 ≠ 0 then Ans.err s 2
  else if a % 64 ≠ 0 then Ans.err s 4
  else if decide (slot = 1) = s.boot.slotRunning then Ans.err s 9
  else if act ∧ s.boot.journalBase = 0 then Ans.err s 2
  else if len % 64 ≠ 0 ∨ len < 256 ∨ len > 196800 then Ans.err s 3
  else match hostRead s.build.cfg.ports h a len with
  | none => Ans.err s 8
  | some img =>
    if crc32c img ≠ p 4 then Ans.err s 10
    else if imageStatus s.otp.keyHash len img ≠ 0 then Ans.err s (imageStatus s.otp.keyHash len img)
    else match s.writeSlot h slot img with
    | (s, false) => Ans.err s 8
    | (s, true) => if act then s.activate h slot else Ans.ok s []

/-- `FW_UPDATE`. -/
def execFwUpdate (h : HostView) (s : State) : Out := command 0xF0 anyVariant (fun s p => (fwUpdateBody h s p).verdict) s

/-! ### Power, reset, isolation (R351, R353, R366, R370, R373) -/

/-- The domain reset: the state after it, with the input pins `p` and the strap sampled as `sampled`. [Log 27 DEDUCED] -/
def State.domainReset (s : State) (p : Pins) (sampled : Bool) : State :=
  State.afterReset s.build s.otp p sampled s.free s.pending s.fwWrites s.macOut s.hostOut

/-- `RST_N_ASSERT` (R353, R366): `RST_N` goes low and resets the whole domain, whatever the block was doing. [Log 26 DEDUCED] -/
def execRstNAssert (s : State) : Out :=
  .next (match s.life.power with
    | .off => { s with pins := { s.pins with rstN := false } }
    | .undefined => { s with pins := { s.pins with rstN := false } }
    | .up => s.domainReset { s.pins with rstN := false } s.life.testSampled)

/-- `RST_N_RELEASE` (R348, R353, R373): `RST_N` rises. Held low for at least 1 µs with every clock running in the last 1 µs (`held`), the
block stands at the reset values of its tables, and the strap is sampled unless `ISO_EN` keeps it from the block; else its state is
undefined. [Log 26 DEDUCED] -/
def execRstNRelease (testMode held : Bool) (s : State) : Out :=
  .next (let p := { s.pins with rstN := true, testMode := testMode }
    if s.pins.rstN || decide (s.life.power = .off) then { s with pins := p }
    else if !held then { s with pins := p, life := { s.life with power := .undefined } }
    else s.domainReset p (if s.pins.isoEn then s.life.testSampled else testMode))

/-- `ISO_EN_ASSERT` (R370): the port ring clamps every output and the block ignores every input but `RST_N`. [Log 26 DEDUCED] -/
def execIsoEnAssert (s : State) : Out := .next { s with pins := { s.pins with isoEn := true } }

/-- `ISO_EN_RELEASE` (R370). [Log 26 DEDUCED] -/
def execIsoEnRelease (s : State) : Out := .next { s with pins := { s.pins with isoEn := false } }

/-- `POWER_LOSS` (R351): nothing is kept inside the block. [Log 26 DEDUCED] -/
def execPowerLoss (s : State) : Out :=
  .next (let t := s.domainReset s.pins false
    { t with life := { t.life with power := .off } })

/-- `POWER_ON` (R353): while the rail rises, and until a domain reset, the state is undefined. [Log 26 DEDUCED] -/
def execPowerOn (s : State) : Out :=
  .next (if s.life.power = .off then { s with life := { s.life with power := .undefined } } else s)

/-! ### The TAP (R397, R398) -/

/-- The instruction a code selects: the test instructions act only in test mode; every other code is `BYPASS` (Table PORTS-14). [Log 27 DEDUCED] -/
def tapSelect (test : Bool) (code : Nat) : Nat :=
  if code = 1 then 1 else if test ∧ (code = 8 ∨ code = 9 ∨ code = 10) then code else 31

/-- The IDCODE register (Table PORTS-14). -/
def State.idcode (s : State) : Nat := 2 * 2 ^ 28 + 0x0128 * 2 ^ 12 + s.build.mfrId.toNat * 2 + 1

/-- `TAP_INSTRUCTION` (R397, R398): a scan or a BIST run of test mode destroys the block's state. [Log 27 DEDUCED] -/
def execTapInstruction (code : BitVec 5) (s : State) : Out :=
  .next (if s.pins.isoEn ∨ s.life.power = .off then s
    else
      let c := tapSelect s.life.testSampled code.toNat
      { s with tap := ⟨BitVec.ofNat 5 c, s.tap.destroyed || decide (c = 8) || decide (c = 9)⟩ })

/-- `TEST_LOGIC_RESET` (R397): IDCODE is selected. [Log 28 DESIGN CHOICE] -/
def execTestLogicReset (s : State) : Out :=
  .next (if s.pins.isoEn ∨ s.life.power = .off then s else { s with tap := { s.tap with ir := 1 } })

end Sys2Proof.Machine
end

