-- ==== Sys2Proof/Machine/Restart.lean ====
section
/-! DEFINITION. The warm restart (R345, R350): the ROM reloads the firmware image, and firmware runs again with every object or with none. -/
namespace Sys2Proof.Machine

/-- The ROM keeps image `img` of the running slot without a new verification (R345): the two kept copies of the digest agree, and the image has it. -/
def Boot.keepsImage (b : Boot) (img : List Byte) : Bool :=
  match b.digest with
  | some (d, e) => decide (d = e) && decide (imageDigest img = d)
  | none => false

/-- The image that the warm restart runs from slot `k` (R345): the running slot's by its digest, or one that passes in full. -/
def State.restartImage (s : State) (h : HostView) (k : Nat) (running : Bool) : Option (List Byte) :=
  match loadImage s.build.cfg.ports h (s.boot.slotAddr k) with
  | .inl _ => none
  | .inr img => if (running && s.boot.keepsImage img) || decide (verifyImage s.otp.keyHash img = 0) then some img else none

/-- The image runs: a slot that was verified anew leaves its digest in two copies (R345, R362). -/
def State.runImage (s : State) (k : Nat) (img : List Byte) : State :=
  let d := imageDigest img
  { s with boot := { s.boot with slotRunning := decide (k = 1), digest := some (d, d), fwver := BitVec.ofNat 32 (fieldLE img 8 4) } }

/-- The slot that runs when the warm restart goes on, or none when neither slot gives an image that passes (R345). [Log 73 DEDUCED] -/
def State.reloadFirmware (s : State) (h : HostView) : Option State :=
  let k := if s.boot.slotRunning then 1 else 0
  match s.restartImage h k true with
  | some img => some (s.runImage k img)
  | none => (s.restartImage h (1 - k) false).map (s.runImage (1 - k))

/-- `WARM_RESTART_DONE` (R345): firmware runs again, with every object or with none, and acts on the Burgees that waited for it (Table FAULT-16). With no
image the core does not run, and the restart goes on. [Log 73 DEDUCED] -/
def warmRestartDone (r : Restart) (h : HostView) (s : State) : State :=
  if !s.flt.restarting then s
  else match s.reloadFirmware h with
  | none => s
  | some s =>
    let kind := s.flt.restartKind
    let acts := s.flt.todo
    let s := if r = Restart.lost then s.loseObjects else s
    let s := { s with
      flt := { s.flt with todo := [], checkpoint := 0, recov := s.flt.recov.filter fun x => !x.isRestart && (decide (r = Restart.kept) || (match x with | .laneCheck _ => true | _ => false)) }
      ctl := { s.ctl with fwReady := true } }
    let s := (s.journal h ⟨3, 0, 0, 0, kind⟩).faultReply ⟨12, 0xF, if r = Restart.kept then 1 else 2, 0, 0, 0, []⟩
    (acts.foldl (State.firmwareAction h) s.failHand).refillAll

/-- `WARM_RESTART_DONE`. [Log 73 DEDUCED] -/
def execWarmRestartDone (r : Restart) (h : HostView) (s : State) : Out := running s (warmRestartDone r h)

end Sys2Proof.Machine
end

