-- ==== Sys2Proof/Machine/Dispatch.lean ====
section
/-! DEFINITION. One arm for each command of the table: a direct call of its meaning. -/
namespace Sys2Proof.Machine

/-- The effect of a command on everything but the queue. -/
def exec (i : Instr) (s : State) : Host.Outcome State Fault Refusal :=
  match i with
  | .hello => Sys2Proof.Machine.execHello s
  | .attach h => Sys2Proof.Machine.execAttach h s
  | .detach h => Sys2Proof.Machine.execDetach h s
  | .tensorCreate h pick place => Sys2Proof.Machine.execTensorCreate h pick place s
  | .tensorDestroy => Sys2Proof.Machine.execTensorDestroy s
  | .programLoad h place => Sys2Proof.Machine.execProgramLoad h place s
  | .streamBind h pick => Sys2Proof.Machine.execStreamBind h pick s
  | .streamArm => Sys2Proof.Machine.execStreamArm s
  | .streamRearm h => Sys2Proof.Machine.execStreamRearm h s
  | .streamPause h => Sys2Proof.Machine.execStreamPause h s
  | .streamResume h => Sys2Proof.Machine.execStreamResume h s
  | .streamAbandon h => Sys2Proof.Machine.execStreamAbandon h s
  | .modelLoad h => Sys2Proof.Machine.execModelLoad h s
  | .modelSelect h place => Sys2Proof.Machine.execModelSelect h place s
  | .halyardInit => Sys2Proof.Machine.execHalyardInit s
  | .buntingDefine pick => Sys2Proof.Machine.execBuntingDefine pick s
  | .buntingReadmit => Sys2Proof.Machine.execBuntingReadmit s
  | .buntingDelete => Sys2Proof.Machine.execBuntingDelete s
  | .linkUp place => Sys2Proof.Machine.execLinkUp place s
  | .linkDown => Sys2Proof.Machine.execLinkDown s
  | .phasePoint => Sys2Proof.Machine.execPhasePoint s
  | .powerCap => Sys2Proof.Machine.execPowerCap s
  | .energyRead => Sys2Proof.Machine.execEnergyRead s
  | .faultAck => Sys2Proof.Machine.execFaultAck s
  | .codebookLoad h => Sys2Proof.Machine.execCodebookLoad h s
  | .triggerSet => Sys2Proof.Machine.execTriggerSet s
  | .triggerCancel => Sys2Proof.Machine.execTriggerCancel s
  | .pageResume h => Sys2Proof.Machine.execPageResume h s
  | .pageResumeInvalidate => Sys2Proof.Machine.execPageResumeInvalidate s
  | .fwUpdate h => Sys2Proof.Machine.execFwUpdate h s
  | .mbxGo w => Sys2Proof.Machine.execMbxGo w s
  | .mbxRelease w => Sys2Proof.Machine.execMbxRelease w s
  | .replyPlacement => Sys2Proof.Machine.execReplyPlacement s
  | .lanePause n => Sys2Proof.Machine.execLanePause n s
  | .laneUnpause n => Sys2Proof.Machine.execLaneUnpause n s
  | .halyardAdd n v => Sys2Proof.Machine.execHalyardAdd n v s
  | .halyardSet n v => Sys2Proof.Machine.execHalyardSet n v s
  | .incFracWrite w => Sys2Proof.Machine.execIncFracWrite w s
  | .ofsApply w => Sys2Proof.Machine.execOfsApply w s
  | .nsLoRead => Sys2Proof.Machine.execNsLoRead s
  | .lkClear w => Sys2Proof.Machine.execLkClear w s
  | .durClear w => Sys2Proof.Machine.execDurClear w s
  | .cntClear w => Sys2Proof.Machine.execCntClear w s
  | .safeExitRequest => Sys2Proof.Machine.execSafeExitRequest s
  | .selfClear => Sys2Proof.Machine.execSelfClear s
  | .testUnlock w => Sys2Proof.Machine.execTestUnlock w s
  | .injGo w => Sys2Proof.Machine.execInjGo w s
  | .bootStart => Sys2Proof.Machine.execBootStart s
  | .registerWrite off w => Sys2Proof.Machine.execRegisterWrite off w s
  | .rstNAssert => Sys2Proof.Machine.execRstNAssert s
  | .rstNRelease testMode held => Sys2Proof.Machine.execRstNRelease testMode held s
  | .isoEnAssert => Sys2Proof.Machine.execIsoEnAssert s
  | .isoEnRelease => Sys2Proof.Machine.execIsoEnRelease s
  | .powerLoss => Sys2Proof.Machine.execPowerLoss s
  | .vrAlert => Sys2Proof.Machine.execVrAlert s
  | .vrAlertRelease => Sys2Proof.Machine.execVrAlertRelease s
  | .vrAlertHoldExpiry => Sys2Proof.Machine.execVrAlertHoldExpiry s
  | .evIn lines left => Sys2Proof.Machine.execEvIn lines left s
  | .evOutPulse => Sys2Proof.Machine.execEvOutPulse s
  | .dreqAssert k => Sys2Proof.Machine.execDreqAssert k s
  | .dreqRelease k => Sys2Proof.Machine.execDreqRelease k s
  | .capInEdge n rising => Sys2Proof.Machine.execCapInEdge n rising s
  | .tapInstruction code => Sys2Proof.Machine.execTapInstruction code s
  | .base lane => Sys2Proof.Machine.execBase lane s
  | .loop lane => Sys2Proof.Machine.execLoop lane s
  | .tile lane => Sys2Proof.Machine.execTile lane s
  | .xform lane eng => Sys2Proof.Machine.execXform lane eng s
  | .pad lane => Sys2Proof.Machine.execPad lane s
  | .clamp lane => Sys2Proof.Machine.execClamp lane s
  | .stipple lane => Sys2Proof.Machine.execStipple lane s
  | .scale lane eng => Sys2Proof.Machine.execScale lane eng s
  | .swap lane eng => Sys2Proof.Machine.execSwap lane eng s
  | .emit lane => Sys2Proof.Machine.execEmit lane s
  | .drain lane => Sys2Proof.Machine.execDrain lane s
  | .wait lane => Sys2Proof.Machine.execWait lane s
  | .post lane => Sys2Proof.Machine.execPost lane s
  | .pace lane => Sys2Proof.Machine.execPace lane s
  | .deadline lane => Sys2Proof.Machine.execDeadline lane s
  | .phase lane eng => Sys2Proof.Machine.execPhase lane eng s
  | .repeat_ lane => Sys2Proof.Machine.execRepeat lane s
  | .endRun lane eng h => Sys2Proof.Machine.execEndRun lane eng h s
  | .tl64Descriptor lane => Sys2Proof.Machine.execTl64Descriptor lane s
  | .laneDescriptor lane => Sys2Proof.Machine.execLaneDescriptor lane s
  | .quantumExpiry lane => Sys2Proof.Machine.execQuantumExpiry lane s
  | .streamAdmission place => Sys2Proof.Machine.execStreamAdmission place s
  | .readBeat port tag idx code data chk => Sys2Proof.Machine.execReadBeat port tag idx code data chk s
  | .writeResponse port tag code early => Sys2Proof.Machine.execWriteResponse port tag code early s
  | .laneDrainDone lane => Sys2Proof.Machine.execLaneDrainDone lane s
  | .laneReport lane h => Sys2Proof.Machine.execLaneReport lane h s
  | .portResponseTimeout port write tag own => Sys2Proof.Machine.execPortResponseTimeout port write tag own s
  | .weightBlockLoaded lane => Sys2Proof.Machine.execWeightBlockLoaded lane s
  | .expandBlockDone port => Sys2Proof.Machine.execExpandBlockDone port s
  | .compressBlock port => Sys2Proof.Machine.execCompressBlock port s
  | .deadlineMiss sctx => Sys2Proof.Machine.execDeadlineMiss sctx s
  | .deadlineReplyTimer sctx => Sys2Proof.Machine.execDeadlineReplyTimer sctx s
  | .buntingSkewTimer lane => Sys2Proof.Machine.execBuntingSkewTimer lane s
  | .triggerFiring k => Sys2Proof.Machine.execTriggerFiring k s
  | .activityWindow lane work => Sys2Proof.Machine.execActivityWindow lane work s
  | .scrubSlot plate => Sys2Proof.Machine.execScrubSlot plate s
  | .streamRecordTimer h => Sys2Proof.Machine.execStreamRecordTimer h s
  | .writeFrame f full => Sys2Proof.Machine.execWriteFrame f full s
  | .rowsFrame f full => Sys2Proof.Machine.execRowsFrame f full s
  | .readFrame f full => Sys2Proof.Machine.execReadFrame f full s
  | .rdataFrame f full => Sys2Proof.Machine.execRdataFrame f full s
  | .haddFrame f full => Sys2Proof.Machine.execHaddFrame f full s
  | .statusFrame f full => Sys2Proof.Machine.execStatusFrame f full s
  | .ackFrame f full => Sys2Proof.Machine.execAckFrame f full s
  | .trainHelloFrame f full => Sys2Proof.Machine.execTrainHelloFrame f full s
  | .probeFrame f full => Sys2Proof.Machine.execProbeFrame f full s
  | .byeFrame f full => Sys2Proof.Machine.execByeFrame f full s
  | .macPassThrough f => Sys2Proof.Machine.execMacPassThrough f s
  | .hostPassThrough f => Sys2Proof.Machine.execHostPassThrough f s
  | .retryTimerExpiry => Sys2Proof.Machine.execRetryTimerExpiry s
  | .ackTimer => Sys2Proof.Machine.execAckTimer s
  | .frameCloseTimer => Sys2Proof.Machine.execFrameCloseTimer s
  | .trainHelloTimer => Sys2Proof.Machine.execTrainHelloTimer s
  | .linkTrainTimeout => Sys2Proof.Machine.execLinkTrainTimeout s
  | .linkDownDrained h => Sys2Proof.Machine.execLinkDownDrained h s
  | .plLinkUpFall => Sys2Proof.Machine.execPlLinkUpFall s
  | .linkStatusTimer => Sys2Proof.Machine.execLinkStatusTimer s
  | .linkIdleTimer => Sys2Proof.Machine.execLinkIdleTimer s
  | .controlInterval => Sys2Proof.Machine.execControlInterval s
  | .pllSlewDone => Sys2Proof.Machine.execPllSlewDone s
  | .voutSettleExpiry => Sys2Proof.Machine.execVoutSettleExpiry s
  | .pmbusTransactionDone r => Sys2Proof.Machine.execPmbusTransactionDone r s
  | .pmbusStatusPoll => Sys2Proof.Machine.execPmbusStatusPoll s
  | .pmbusRetryTimer => Sys2Proof.Machine.execPmbusRetryTimer s
  | .sensorSample readings h => Sys2Proof.Machine.execSensorSample readings h s
  | .wearMeasurement temp readings h => Sys2Proof.Machine.execWearMeasurement temp readings h s
  | .energyModelFit => Sys2Proof.Machine.execEnergyModelFit s
  | .burgee doms raised h => Sys2Proof.Machine.execBurgee doms raised h s
  | .faultPinTimer => Sys2Proof.Machine.execFaultPinTimer s
  | .clockMonitorFault clk loss => Sys2Proof.Machine.execClockMonitorFault clk loss s
  | .teconWdog write => Sys2Proof.Machine.execTeconWdog write s
  | .laneCheckDone lane pass h => Sys2Proof.Machine.execLaneCheckDone lane pass h s
  | .warmRestartDone r h => Sys2Proof.Machine.execWarmRestartDone r h s
  | .bootStepDone e h => Sys2Proof.Machine.execBootStepDone e h s
  | .bootWatchdogExpiry => Sys2Proof.Machine.execBootWatchdogExpiry s
  | .powerOn => Sys2Proof.Machine.execPowerOn s
  | .clockReturn clk => Sys2Proof.Machine.execClockReturn clk s
  | .plLinkUpRise => Sys2Proof.Machine.execPlLinkUpRise s
  | .trigOutPulseEnd line => Sys2Proof.Machine.execTrigOutPulseEnd line s
  | .testLogicReset => Sys2Proof.Machine.execTestLogicReset s

end Sys2Proof.Machine
end

