-- ==== Sys2Proof/Machine/Idle.lean ====
section
/-! DEFINITION. What the block does of itself while no command waits: a tick of TCLK, and what its sides take from it (R242, R285, R393, R394). -/
namespace Sys2Proof.Machine

/-- The host may read a Halyard whose word holds an upset, and the read checks it (R242): whether it does is the outside's, a free value. [Log 80 DEDUCED] -/
def State.halRead (s : State) : State :=
  match s.hal.upset with
  | [] => s
  | (i, _) :: _ =>
    let t := { s with free := s.free + 1 }
    if Config.freeBit s.free then t.halCheck i else t

/-- A tick of an idle block (R285, R346): time advances, the Halyard unit takes an entry of the event-in crossing, the link's sides take what they
take, and a Halyard may be read. [Log 11 DESIGN CHOICE] -/
def State.tick (s : State) : State := (s.timeTick.evTake 1).outputs.halRead

end Sys2Proof.Machine
end

