-- ==== Sys2Proof/Safety.lean ====
section
/-! DEFINITION. The conditions that claims name: what reaches the block, when its engines work, and the shape of the states that no step
leaves. -/
namespace Sys2Proof

/-- The commands that come from outside the domain: the rail, reset, isolation and the test port. They act whatever the block does. -/
def Instr.outside : Instr → Bool
  | .rstNAssert | .rstNRelease _ _ | .isoEnAssert | .isoEnRelease | .powerLoss | .powerOn | .tapInstruction _ | .testLogicReset => true
  | _ => false

/-- A mailbox command's opcode, and which messages of that opcode are its own (Table CTRL-13). -/
def Instr.message : Instr → Option (Nat × (Nat → Bool))
  | .hello => some (0x01, fun _ => true)
  | .attach _ => some (0x10, fun _ => true)
  | .detach _ => some (0x11, fun _ => true)
  | .tensorCreate .. => some (0x20, fun _ => true)
  | .tensorDestroy => some (0x21, fun _ => true)
  | .programLoad .. => some (0x30, fun _ => true)
  | .streamBind .. => some (0x31, fun _ => true)
  | .streamArm => some (0x32, fun _ => true)
  | .streamRearm _ => some (0x33, fun _ => true)
  | .streamPause _ => some (0x34, fun _ => true)
  | .streamResume _ => some (0x35, fun _ => true)
  | .streamAbandon _ => some (0x36, fun _ => true)
  | .modelLoad _ => some (0x40, fun _ => true)
  | .modelSelect .. => some (0x41, fun _ => true)
  | .halyardInit => some (0x50, fun _ => true)
  | .buntingDefine _ => some (0x60, fun p => bits p 31 30 = 0 || bits p 31 30 = 3)
  | .buntingReadmit => some (0x60, fun p => bits p 31 30 = 1)
  | .buntingDelete => some (0x60, fun p => bits p 31 30 = 2)
  | .linkUp _ => some (0x70, fun _ => true)
  | .linkDown => some (0x71, fun _ => true)
  | .phasePoint => some (0x80, fun _ => true)
  | .powerCap => some (0x81, fun _ => true)
  | .energyRead => some (0x82, fun _ => true)
  | .faultAck => some (0x90, fun _ => true)
  | .codebookLoad _ => some (0xA0, fun _ => true)
  | .triggerSet => some (0xB0, fun p => !bitOn p 16)
  | .triggerCancel => some (0xB0, fun p => bitOn p 16)
  | .pageResume _ => some (0xC0, fun p => !bitOn p 8)
  | .pageResumeInvalidate => some (0xC0, fun p => bitOn p 8)
  | .fwUpdate _ => some (0xF0, fun _ => true)
  | _ => none

/-- The level changes of an input pin. -/
def Instr.level : Instr → Bool
  | .vrAlert | .vrAlertRelease | .dreqAssert _ | .dreqRelease _ | .capInEdge _ _ | .plLinkUpFall | .plLinkUpRise | .evIn _ _ => true
  | _ => false

/-- The commands that may have an effect before `BOOT.CTL.START`: accesses of the control window, the pass-through and pins (R354). -/
def Instr.early : Instr → Bool
  | .mbxGo _ | .mbxRelease _ | .registerWrite _ _ | .bootStart | .durClear _ | .halyardAdd _ _ | .halyardSet _ _ | .macPassThrough .. |
    .hostPassThrough .. => true
  | c => c.outside || c.level

/-- The row of the table that performs a Fyush instruction at the fetch engine of lane `p` as a change of run state (Table FYUSH-1); `WAIT` and
`EMIT` have meanings of their own. -/
def FInsn.fetchRow (p : Fin 10) (h : HostView) : FInsn → Option Instr
  | .base .. => some (.base p)
  | .loop .. => some (.loop p)
  | .tile .. => some (.tile p)
  | .xform _ => some (.xform p .fetch)
  | .padAmount .. | .padMode .. => some (.pad p)
  | .clamp .. => some (.clamp p)
  | .stipple .. => some (.stipple p)
  | .scale _ => some (.scale p .fetch)
  | .swap w _ => if w then none else some (.swap p .fetch)
  | .pace _ => some (.pace p)
  | .phase _ => some (.phase p .fetch)
  | .repeat_ .. => some (.repeat_ p)
  | .endRun _ => some (.endRun p .fetch h)
  | .emit | .drain | .wait _ | .post .. | .deadline _ => none

/-- The row that performs an instruction at the execute engine of lane `p` as a change of run state (Table FYUSH-1). -/
def FInsn.execRow (p : Fin 10) : FInsn → Option Instr
  | .xform _ => some (.xform p .execute)
  | .scale _ => some (.scale p .execute)
  | .swap w _ => if w then some (.swap p .execute) else none
  | .deadline _ => some (.deadline p)
  | .phase _ => some (.phase p .execute)
  | _ => none

/-- The row of a transport frame, by its type and, of a `TRAIN` frame, its `OP` (Table LINK-3). -/
def Frame.row (f : Frame) (full : Bool) : Nat → Nat → Option Instr
  | 0, _ => some (.ackFrame f full)
  | 1, _ => some (.writeFrame f full)
  | 2, _ => some (.rowsFrame f full)
  | 3, _ => some (.readFrame f full)
  | 4, _ => some (.rdataFrame f full)
  | 5, _ => some (.haddFrame f full)
  | 6, _ => some (.statusFrame f full)
  | 7, 0 => some (.trainHelloFrame f full)
  | 7, 1 => some (.probeFrame f full)
  | 7, 2 => some (.byeFrame f full)
  | _, _ => none

end Sys2Proof

namespace Sys2Proof.Machine

/-- Inputs reach the block and its state is defined (R353, R370, R398). -/
def State.live (s : State) : Prop := s.awake = true ∧ s.defined = true

/-- The block is live, and started: its engines work (R354). -/
def State.works (s : State) : Prop := s.live ∧ s.alive = true

/-- Every unit of the domain stands at its reset values. -/
def State.unitsReset (s : State) : Prop :=
  s.life.started = false ∧ s.life.halted = false ∧ s.boot = Boot.reset ∧ s.ctl = Ctl.reset ∧ s.fw = Fw.reset s.build.cfg s.otp.laneDisable ∧
    s.hal = ⟨[], [], [], [], [], [], [], 0⟩ ∧ s.lanes = [] ∧ s.ports = [] ∧ s.plate = ⟨[], [], [], [], [], 0, []⟩ ∧ s.link = Link.reset ∧ s.time = Time.reset ∧
    s.pwr = Pwr.reset s.build.cfg s.otp.coef ∧ s.flt = Flt.reset ∧ s.pins.quiesced = true ∧ s.pins.dack = 0 ∧ s.pins.evOut = 0 ∧
    s.pins.trigOut = 0

/-- The canonical form of the Plate pool, the block's addressed memory (R25, R331): bytes, poison, upsets and scrub pointers stand under
strictly rising keys, and nothing that equals what an unlisted key reads as is listed; check values and the writers of bytes stand under
strictly rising keys. [Log 5 DESIGN CHOICE] -/
def Memory.wf (p : Plate) : Bool :=
  Tbl.wf 0 p.bytes && Tbl.wf false p.poison && Tbl.wf 0 p.upset && Tbl.wf 0 p.scrub && Tbl.rising p.chk && Tbl.rising p.writers

/-- What no step leaves: nothing is kept in the block while its rail is off or while `RST_N` is low (R351, R353); the TAP holds an
instruction of Table PORTS-14, and a test instruction, or the mark of a scan or BIST run, only in test mode (R398). -/
def State.sound (s : State) : Prop :=
  (s.life.power = .off → s.unitsReset) ∧
  (s.life.power = .up → s.pins.rstN = false → s.unitsReset) ∧
  (s.tap.ir = 1 ∨ s.tap.ir = 8 ∨ s.tap.ir = 9 ∨ s.tap.ir = 10 ∨ s.tap.ir = 31) ∧
  ((s.tap.ir = 8 ∨ s.tap.ir = 9 ∨ s.tap.ir = 10 ∨ s.tap.destroyed = true) → s.life.testSampled = true)

/-- Payload word `k` of command mailbox `n`. -/
def State.arg (s : State) (n k : Nat) : Nat := s.ctl.cmdWord n (2 + k)

/-- Firmware is ready for the message in mailbox `n`, which holds opcode `op` and passes the checks of Table CTRL-11, and reply mailbox
`m` is the lowest free one (R247, R250, R252). -/
def State.hears (s : State) (n : Nat) (rest : List Nat) (op m : Nat) : Prop :=
  s.works ∧ s.ctl.fwReady = true ∧ s.ctl.hand = none ∧ s.ctl.submitted = n :: rest ∧ bits (s.ctl.cmdWord n 0) 15 0 = op ∧
    s.messageStatus n = 0 ∧ s.ctl.freeReply = some m

/-- Firmware has taken the message of mailbox `n` (R247). -/
def State.taken (s : State) (n : Nat) (rest : List Nat) : State := { s with ctl := s.ctl.accept n rest }

/-- The reply to the message of mailbox `n` stands in reply mailbox `m` (R252): its token and opcode, the status, and the payload. -/
def State.posted (t : State) (n m status : Nat) (payload : List Nat) : State :=
  let w := t.ctl.cmdWord n 0
  { t with ctl := { t.ctl.putReply m (messageWords (bits w 31 16) (bits w 15 0) status (toWords payload)) with hand := none } }

/-- The frame `f` passes the checks of Table LINK-4 as the frame of parts `h`. -/
def State.passes (s : State) (f : Frame) (h : RxHead) : Prop :=
  etherType (untag f.bytes) = s.link.etype.toNat ∧ s.screen f false = .inr h

/-- Nothing of the peer waits on this side: every accepted frame is covered, and nothing waits in egress. -/
def State.linkIdle (s : State) : Prop := s.link.rx = [] ∧ s.link.waitQ = [] ∧ s.link.open_ = none

end Sys2Proof.Machine
end

