-- ==== Sys2Proof/Certificates/Slice0/Obligations.lean ====
section
/-! DEFINITION. The statements about the block, for the provers. Each docstring names the rules of the spec that the statement rests on; a
clause that rests on a choice of the model names its log entry. -/
section
open Sys2Proof Sys2Proof.Machine

/-! ### The whole block -/

/-- The queue of commands: a step takes the command at the front and is that command's effect on the block with the rest of the queue. -/
def Obligations.FrontCommandRuns : Prop := ∀ (s : State) (c : Instr) (rest : List Instr), s.pending = c :: rest →
  step s = exec c { s with pending := rest }

/-- The model's choice for an empty queue (log 11): one TCLK tick. `NS_CNT` advances by the increment in force and its fraction carries (R285).
With no frame to put out and no Halyard in error, an empty event-in crossing leaves everything but the time unit, the time out of
service and the power manager's durations and activity; the oldest entry of the crossing adds 1 to the Halyard bound to its line, and is
lost when none is (R227, R390). -/
def Obligations.IdleTick : Prop := ∀ s : State, s.pending = [] → s.time.incPending = false →
  ∃ u : State, step s = .next u ∧
    (s.time.run = false → u.time.ns = s.time.ns ∧ u.time.frac = s.time.frac) ∧
    (s.time.run = true → u.time.frac = s.time.frac + s.time.curFrac ∧ u.time.ns = s.time.ns +
      BitVec.ofNat 64 (s.time.curInt.toNat + (if s.time.frac.toNat + s.time.curFrac.toNat < 2 ^ 32 then 0 else 1))) ∧
    (s.hal.upset = [] → s.link.sending = none → s.link.choose = .none → s.link.toHost = [] →
      (s.hal.evInQ = [] → u = { s with
          time := u.time, flt := { s.flt with downNs := u.flt.downNs }
          pwr := { s.pwr with durNs := u.pwr.durNs, scopeDur := u.pwr.scopeDur, act := u.pwr.act } } ∧
        (s.time.run = false → u.flt = s.flt ∧ u.pwr = s.pwr)) ∧
      (∀ k rest, s.hal.evInQ = k :: rest → u.hal.evInQ = rest ∧ u.plate = s.plate ∧ u.lanes = s.lanes ∧
        (Tbl.find s.hal.evBind k = none → u.hal.words = s.hal.words) ∧
        (∀ i, Tbl.find s.hal.evBind k = some i → s.halDead i = false → (s.hword i).relay = false →
          u.hword i = (s.hword i).add 1 ∧ ∀ n, n ≠ i → u.hword n = s.hword n)))

/-- No step leaves the sound states: nothing is kept in a block without power or in reset, and the TAP holds an instruction of its table, a
test instruction only in test mode (R351, R353, R397, R398). -/
def Obligations.SoundKept : Prop := ∀ s t : State, s.sound → step s = .next t → t.sound

/-- The state after reset is sound. -/
def Obligations.ResetSound : Prop := State.reset.sound

/-- Every row of the table completes: a command from outside the domain in every state, and any other wherever the block is asleep or its state is
defined, so in every state in which the spec has it execute (R353, R370, R398). It leaves the queue, the build and the fuses alone; one
that does not come from outside the domain leaves the rail, the TAP, the sampled strap and the levels of `RST_N`, `ISO_EN` and `TEST_MODE`
alone too. -/
def Obligations.OutsideStands : Prop := ∀ (c : Instr) (s : State),
  (c.outside = true ∨ s.awake = false ∨ s.defined = true → ∃ t, exec c s = .next t) ∧
  ∀ t, exec c s = .next t → t.pending = s.pending ∧ t.build = s.build ∧ t.otp = s.otp ∧
    (c.outside = false → t.life.power = s.life.power ∧ t.life.testSampled = s.life.testSampled ∧ t.tap = s.tap ∧
      t.pins.rstN = s.pins.rstN ∧ t.pins.isoEn = s.pins.isoEn ∧ t.pins.testMode = s.pins.testMode)

/-- While the rail is off, `RST_N` is low or `ISO_EN` is high, a command from inside the domain changes nothing, and an input pin only takes
its level (R353, R370; that the pin's level is held meanwhile is the model's choice, log 3). -/
def Obligations.AsleepIgnores : Prop := ∀ (c : Instr) (s : State), s.awake = false → c.outside = false →
  ∃ t, exec c s = .next t ∧ t = { s with pins := t.pins } ∧ (c.level = false → t = s)

/-- In a state that the spec leaves undefined, after power-on and before a domain reset or after a scan or BIST run (R353, R398), the model stops
on every command that the block would see (the model's choice, log 14). -/
def Obligations.UndefinedStops : Prop := ∀ (c : Instr) (s : State), s.awake = true → s.defined = false → c.outside = false →
  exec c s = .fault .undefinedState

/-- Before `BOOT.CTL.START`, and after a start-up that stopped, the commands of the engines change nothing (R354; that a
command which cannot happen changes nothing is the model's choice, log 13). -/
def Obligations.BeforeStart : Prop := ∀ (c : Instr) (s : State), s.live → s.alive = false → c.early = false → exec c s = .next s

/-! ### Power, reset and the test port -/

/-- `RST_N` low resets the whole domain of a powered block, which keeps the levels of its input pins; without a defined state before, the
reset is complete when `RST_N` rises after the time of R373, and that rise samples the strap, unless the ring is isolated (R348, R351, R353, R370).
A rise that comes too early leaves the state undefined (R373). -/
def Obligations.ResetPin : Prop := ∀ (s : State) (strap held : Bool),
  (∃ u : State, exec .rstNAssert s = .next u ∧ u.pins.rstN = false ∧ u.build = s.build ∧ u.otp = s.otp ∧ u.pins.dreq = s.pins.dreq ∧
    u.pins.capIn = s.pins.capIn ∧ u.pins.evIn = s.pins.evIn ∧ u.pins.vrAlertN = s.pins.vrAlertN ∧ u.pins.plLinkUp = s.pins.plLinkUp ∧
    u.pins.testMode = s.pins.testMode ∧ u.pins.isoEn = s.pins.isoEn ∧ u.life.power = s.life.power ∧ (s.life.power = .up → u.unitsReset) ∧
    (s.life.power ≠ .up → u = { s with pins := { s.pins with rstN := false } })) ∧
  (∃ u : State, exec (.rstNRelease strap held) s = .next u ∧ u.pins.rstN = true ∧ u.pins.testMode = strap ∧ u.build = s.build ∧ u.otp = s.otp ∧
    (s.life.power ≠ .off → s.pins.rstN = false → held = true → u.unitsReset ∧ u.life.power = .up ∧ u.tap = ⟨1, false⟩ ∧
      u.life.testSampled = (if s.pins.isoEn then s.life.testSampled else strap)) ∧
    (s.life.power ≠ .off → s.pins.rstN = false → held = false → u = { s with
      pins := { s.pins with rstN := true, testMode := strap }, life := { s.life with power := .undefined } }) ∧
    (s.pins.rstN = true ∨ s.life.power = .off → u = { s with pins := { s.pins with rstN := true, testMode := strap } }))

/-- The rail and the isolation input (R351, R353, R370): a power loss keeps nothing inside the block; power that returns leaves its state undefined
until a domain reset; `ISO_EN` only moves its own level, and what the ring then shows are the reset values of the outputs. -/
def Obligations.RailAndIsolation : Prop := ∀ s : State,
  exec .isoEnAssert s = .next { s with pins := { s.pins with isoEn := true } } ∧
  exec .isoEnRelease s = .next { s with pins := { s.pins with isoEn := false } } ∧
  (s.pins.isoEn = true → s.ringOutputs.irqMbx = false ∧ s.ringOutputs.faultN = true ∧ s.ringOutputs.quiesced = true ∧
    s.ringOutputs.evOut = 0 ∧ s.ringOutputs.trigOut = 0 ∧ s.ringOutputs.dack = 0) ∧
  (s.pins.isoEn = true → ∀ o : OutPin, s.pinLevel o = some o.resetLevel) ∧
  (∀ o : OutPin, ((o = .quiesced ∨ o = .faultN ∨ ∃ p, o = .wcTake p ∨ o = .rbTake p) → o.resetLevel = 1) ∧
    (¬(o = .quiesced ∨ o = .faultN ∨ ∃ p, o = .wcTake p ∨ o = .rbTake p) → o.resetLevel = 0)) ∧
  (∃ u : State, exec .powerLoss s = .next u ∧ u.life.power = .off ∧ u.unitsReset ∧ u.build = s.build ∧ u.otp = s.otp) ∧
  (s.life.power = .off → exec .powerOn s = .next { s with life := { s.life with power := .undefined } }) ∧
  (s.life.power ≠ .off → exec .powerOn s = .next s)

/-- The TAP of a powered block that is not isolated (R397, Table PORTS-14): IDCODE, the test instructions in test mode, and BYPASS for every
other code; a scan or BIST instruction marks the block's state as destroyed (R398); the test logic reset selects IDCODE. -/
def Obligations.TestPort : Prop := ∀ (s : State) (code : BitVec 5), s.pins.isoEn = false → s.life.power ≠ .off →
  (∃ u : State, exec (.tapInstruction code) s = .next u ∧ u = { s with tap := u.tap } ∧
    (code = 1 → u.tap = ⟨1, s.tap.destroyed⟩) ∧
    ((code = 8 ∨ code = 9) → s.life.testSampled = true → u.tap = ⟨code, true⟩) ∧
    (code = 10 → s.life.testSampled = true → u.tap = ⟨10, s.tap.destroyed⟩) ∧
    (code ≠ 1 → (s.life.testSampled = false ∨ (code ≠ 8 ∧ code ≠ 9 ∧ code ≠ 10)) → u.tap = ⟨31, s.tap.destroyed⟩)) ∧
  exec .testLogicReset s = .next { s with tap := { s.tap with ir := 1 } }

/-! ### Pins -/

/-- Input pins (R135, R136, R282, R293): `DREQ` follows its pin, and a falling `DREQ` lowers `DACK`; the link-status input
follows its pin (R282 reads it); a selected edge of `CAP_IN` stores `NS_CNT` less two increments when the capture register is free,
and sets the overflow bit when it is not; an edge that is not selected changes only the level. -/
def Obligations.InputPins : Prop := ∀ (s u : State) (k : Fin 32) (n : Fin 8) (rising : Bool), s.works →
  u = { s with pins := { s.pins with capIn := setBit s.pins.capIn n.val rising } } →
  exec (.dreqAssert k) s = .next { s with pins := { s.pins with dreq := setBit s.pins.dreq k.val true } } ∧
  exec (.dreqRelease k) s = .next { s with pins := { s.pins with dreq := setBit s.pins.dreq k.val false, dack := setBit s.pins.dack k.val false } } ∧
  exec .plLinkUpFall s = .next { s with pins := { s.pins with plLinkUp := false } } ∧
  exec .plLinkUpRise s = .next { s with pins := { s.pins with plLinkUp := true } } ∧
  (bitOn (bits s.time.capcfg.toNat (2 * n.val + 1) (2 * n.val)) (if rising then 0 else 1) = false → exec (.capInEdge n rising) s = .next u) ∧
  (bitOn (bits s.time.capcfg.toNat (2 * n.val + 1) (2 * n.val)) (if rising then 0 else 1) = true →
    (s.time.capValid.getLsbD n.val = false → exec (.capInEdge n rising) s = .next { u with time := { s.time with
      capValid := setBit s.time.capValid n.val true
      cap := Tbl.put n.val (s.time.ns - BitVec.ofNat 64 (2 * s.time.incInt.toNat)) s.time.cap } }) ∧
    (s.time.capValid.getLsbD n.val = true → exec (.capInEdge n rising) s = .next { u with time := { s.time with
      capOvf := setBit s.time.capOvf n.val true } }))

/-- `VR_ALERT_N` (R301, R312, R322): low, the power manager is moved to OP0 under the divider, gives up a raise and every voltage command that has not
begun, counts the alert as an active and a seen cause, and reads the status word before every other transaction that has not begun;
without a bus the Burgee carries a free word (the model's choice, log 76). High again, the 10 ms hold begins, and its expiry ends it and the
cause. Before the power manager runs only the level is kept. -/
def Obligations.RegulatorAlert : Prop := ∀ s : State, s.live →
  (s.pwr.pmb = 0 ∨ s.alive = false → exec .vrAlert s = .next { s with pins := { s.pins with vrAlertN := false } }) ∧
  (s.pwr.pmb ≠ 0 → s.alive = true → ∃ u : State, exec .vrAlert s = .next u ∧ u.pins.vrAlertN = false ∧
    u.pwr.slewTo = some 0 ∧ u.pwr.fast = true ∧ u.pwr.raise = none ∧ u.pwr.active.getLsbD 1 = true ∧ u.pwr.seen.getLsbD 1 = true ∧
    u.pwr.alertHold = false ∧ u.pwr.op = s.pwr.op ∧
    (s.pwr.pmb = 1 → u = { s with pins := { s.pins with vrAlertN := false }, pwr := u.pwr } ∧
      u.pwr.tx = s.pwr.tx.take 1 ++ [⟨0x79, 1, false⟩] ++ (s.pwr.tx.drop 1).filter fun t => decide (t.code ≠ 0x21)) ∧
    (s.pwr.pmb ≠ 1 → ∃ v : Nat, v < 65536 ∧ u.flt = (s.flt.enter ⟨9, 1, 60, v⟩).note ⟨9, 1, 60, v⟩ ∧ u.lanes = s.lanes ∧ u.link = s.link)) ∧
  (s.pwr.pmb ≠ 0 → s.alive = true → s.pins.vrAlertN = false → exec .vrAlertRelease s = .next { s with
    pins := { s.pins with vrAlertN := true }, pwr := { s.pwr with alertHold := true } }) ∧
  (s.pwr.pmb = 0 ∨ s.pins.vrAlertN = true ∨ s.alive = false →
    exec .vrAlertRelease s = .next { s with pins := { s.pins with vrAlertN := true } }) ∧
  (s.alive = true → s.pins.vrAlertN = true → s.pwr.alertHold = true →
    exec .vrAlertHoldExpiry s = .next { s with pwr := { s.pwr with alertHold := false, active := setBit s.pwr.active 1 false } }) ∧
  (s.alive = true → s.pins.vrAlertN = false ∨ s.pwr.alertHold = false → exec .vrAlertHoldExpiry s = .next s)

/-! ### Halyards and event lines -/

/-- Counter mode (R217): in a usable Halyard in counter mode, an add of 1 to 65,535 sets the count to the sum modulo 2^16, a set of a value sets the
count to it, and both leave the generation, the attributes and every other Halyard unchanged. -/
def Obligations.CounterMode : Prop := ∀ (s : State) (n : BitVec 15) (v : BitVec 30) (x : HalWord), s.live → x = s.hword n.toNat → x.barrier = false →
  s.halWindow n.toNat = true → s.halDead n.toNat = false → Tbl.get 0 s.hal.upset n.toNat ≤ 1 → v.toNat ≤ 65535 →
  (1 ≤ v.toNat → ∃ u : State, exec (.halyardAdd n v) s = .next u ∧ (u.hword n.toNat).count.toNat = (x.count.toNat + v.toNat) % 2 ^ 16 ∧
    u.hword n.toNat = { x with count := (u.hword n.toNat).count } ∧ ∀ k, k ≠ n.toNat → u.hword k = s.hword k) ∧
  (∃ u : State, exec (.halyardSet n v) s = .next u ∧ (u.hword n.toNat).count.toNat = v.toNat ∧
    u.hword n.toNat = { x with count := (u.hword n.toNat).count } ∧ ∀ k, k ≠ n.toNat → u.hword k = s.hword k)

/-- A write of the Halyard window (R217, R218, R224, R229): with 16 bits of value, it adds to the Halyard or sets it, in counter mode modulo
2^16 and in barrier mode modulo the target, with the generation counting the wraps; an add to an unusable Halyard is discarded and
counted, a set ignored; every other Halyard keeps its word. -/
def Obligations.HalyardWindow : Prop := ∀ (s : State) (n : BitVec 15) (v : BitVec 30) (x : HalWord) (dead : Bool), s.live → x = s.hword n.toNat →
  s.halWindow n.toNat = true → v.toNat < 65536 →
  dead = (s.halDead n.toNat || decide (2 ≤ Tbl.get 0 s.hal.upset n.toNat)) →
  (∃ u : State, exec (.halyardSet n v) s = .next u ∧ (∀ k, k ≠ n.toNat → u.hword k = s.hword k) ∧
    (dead = true → u.hword n.toNat = x) ∧
    (dead = false → x.barrier = false → u.hword n.toNat = { x with count := BitVec.ofNat 16 v.toNat }) ∧
    (dead = false → x.barrier = true → x.target = 0 → u.hword n.toNat = { x with count := BitVec.ofNat 16 v.toNat }) ∧
    (dead = false → x.barrier = true → x.target ≠ 0 → u.hword n.toNat = { x with
      count := BitVec.ofNat 16 (v.toNat % x.target.toNat), gen := x.gen + BitVec.ofNat 16 (v.toNat / x.target.toNat) })) ∧
  (v = 0 → exec (.halyardAdd n v) s = .next s) ∧
  (v ≠ 0 → ∃ u : State, exec (.halyardAdd n v) s = .next u ∧ (∀ k, k ≠ n.toNat → u.hword k = s.hword k) ∧
    (dead = true → u.hword n.toNat = x ∧ u.hal.discarded = s.hal.discarded + 1) ∧
    (dead = false → x.barrier = false ∨ x.target = 0 → u.hword n.toNat = { x with count := x.count + BitVec.ofNat 16 v.toNat }) ∧
    (dead = false → x.barrier = true → x.target ≠ 0 → u.hword n.toNat = { x with
      count := BitVec.ofNat 16 ((x.count.toNat + v.toNat) % x.target.toNat)
      gen := x.gen + BitVec.ofNat 16 ((x.count.toNat + v.toNat) / x.target.toNat) }))

/-- `EV_IN` and `EV_OUT` (R227, R228, R390): a rising edge of a line enters the event-in crossing, or sets the line's overflow bit when the crossing is
full; an entry that the Halyard unit takes adds 1 to the Halyard bound to its line, and is lost when none is; a sample without a rising edge
only moves the levels; the event-out logic shows the next line of its queue for a cycle, low in the safe state, and keeps
a line low for one cycle between two of its entries. -/
def Obligations.EventLines : Prop := ∀ (s u : State) (k : Fin 64) (lines : BitVec 64) (left : Fin 33), s.works →
  u = { s with pins := { s.pins with evIn := lines } } →
  (lines &&& ~~~s.pins.evIn = 0 → s.hal.evInQ.length ≤ left.val → exec (.evIn lines left) s = .next u) ∧
  (lines = setBit s.pins.evIn k.val true → s.pins.evIn.getLsbD k.val = false →
    (s.hal.evInQ.length = 32 → left.val = 32 → exec (.evIn lines left) s = .next { u with
      time := { s.time with evOvf := setBit s.time.evOvf k.val true } }) ∧
    (left.val = s.hal.evInQ.length + 1 → exec (.evIn lines left) s = .next { u with hal := { s.hal with evInQ := s.hal.evInQ ++ [k.val] } }) ∧
    (s.hal.evInQ = [] → left = 0 → Tbl.find s.hal.evBind k.val = none → exec (.evIn lines left) s = .next u) ∧
    (∀ i, s.hal.evInQ = [] → left = 0 → Tbl.find s.hal.evBind k.val = some i → s.halDead i = false → Tbl.get 0 s.hal.upset i = 0 →
      (s.hword i).relay = false → ∃ v : State, exec (.evIn lines left) s = .next v ∧
        v = { u with hal := { s.hal with words := Tbl.set HalWord.zero s.hal.words i ((s.hword i).add 1) }, fw := v.fw })) ∧
  (s.hal.evOutQ = [] → exec .evOutPulse s = .next { s with pins := { s.pins with evOut := 0 } }) ∧
  (∀ l rest, s.hal.evOutQ = l :: rest →
    (s.pins.evOut.getLsbD l.toNat = true → exec .evOutPulse s = .next { s with pins := { s.pins with evOut := 0 } }) ∧
    (s.pins.evOut.getLsbD l.toNat = false → exec .evOutPulse s = .next { s with
      hal := { s.hal with evOutQ := rest }, pins := { s.pins with evOut := if s.flt.safe then 0 else setBit 0 l.toNat true } }))

/-! ### The time unit -/

/-- The registers of the time unit that act (R285-R287): a write of the fraction stages the increment for the next tick; an
applied offset in range is staged too; a read of
`NS_LO` samples `NS_CNT` and the PTP time together. -/
def Obligations.TimeRegisters : Prop := ∀ (s : State) (w : Word), s.works →
  exec (.incFracWrite w) s = .next { s with time := { s.time with incFrac := w, incPending := true } } ∧
  (w.getLsbD 0 = true → s.time.ofsNs.toNat ≤ 999999999 → exec (.ofsApply w) s = .next { s with time := { s.time with
    ofsPending := some (s.time.ofsNs.toNat, s.time.ofsLo.toNat + s.time.ofsHi.toNat * 2 ^ 32) } }) ∧
  (w.getLsbD 0 = false ∨ 999999999 < s.time.ofsNs.toNat → exec (.ofsApply w) s = .next s) ∧
  exec .nsLoRead s = .next { s with time := { s.time with
    smpNs := s.time.ns
    smpPtpNs := BitVec.ofNat 30 ((s.time.ns.toNat + s.time.curOfsSec * 1000000000 + s.time.curOfsNs) % 1000000000)
    smpPtpSec := BitVec.ofNat 48 ((s.time.ns.toNat + s.time.curOfsSec * 1000000000 + s.time.curOfsNs) / 1000000000) } }

/-- A trigger whose time has come fires (R292): it is gone after its last firing, else its next firing is one period later; a late one sets
its bit; its line pulses, and the pulse's end lowers the line unless another pulse of the line runs. A time that has not come fires
nothing. -/
def Obligations.TriggersFire : Prop := ∀ (s : State) (k : Fin 32) (g : Trig) (line : Fin 16), s.works → Tbl.find s.time.trig k.val = some g →
  (reached64 s.now g.next.toNat = false → exec (.triggerFiring k) s = .next s) ∧
  (reached64 s.now g.next.toNat = true → ∃ u : State, exec (.triggerFiring k) s = .next u ∧
    (∀ j, j ≠ k.val → Tbl.find u.time.trig j = Tbl.find s.time.trig j) ∧
    (g.period = 0 ∨ g.left = some 0 → Tbl.find u.time.trig k.val = none) ∧
    (g.period ≠ 0 → g.left ≠ some 0 → Tbl.find u.time.trig k.val = some { g with
      next := g.next + BitVec.ofNat 64 g.period, left := g.left.map (· - 1), late := false }) ∧
    (g.late = true → u.time.trigLate = setBit s.time.trigLate k.val true) ∧ (g.late = false → u.time.trigLate = s.time.trigLate) ∧
    (g.out ≠ 0 → s.flt.safe = false → u.pins.trigOut = setBit s.pins.trigOut (g.out - 1) true) ∧ (g.out = 0 → u.pins = s.pins) ∧
    u.time.ns = s.time.ns ∧ u.hal = s.hal ∧ u.plate = s.plate) ∧
  exec (.trigOutPulseEnd line) s = .next { s with
    time := { s.time with pulse := Tbl.set 0 s.time.pulse line.val (Tbl.get 0 s.time.pulse line.val - 1) }
    pins := { s.pins with trigOut := if Tbl.get 0 s.time.pulse line.val ≤ 1 then setBit s.pins.trigOut line.val false else s.pins.trigOut } }

/-! ### The control window -/

/-- Registers (R9, R15, R16, R246, Tables LINK-12, POWER-9, FAULT-11): a write of 1 to a clear register clears the link counters, the durations, or the fault
counts; a write to a word of a command mailbox that the host owns is held there; one to a
mailbox that firmware owns is ignored; `MBX.RPL_EN`, `FLT.CTL` and the capture configuration hold what is written; a W1C field loses
the bits written 1; `BOOT.JOURNAL_BASE` is written until `READY` and keeps its value from then on; a write at the unassigned offset 0x0800
changes nothing. -/
def Obligations.RegisterWrites : Prop := ∀ (s : State) (w : Word), s.works →
  exec (.lkClear w) s = .next (if w.getLsbD 0 then { s with link := { s.link with cnt := [] } } else s) ∧
  exec (.durClear w) s = .next (if w.getLsbD 0 then { s with pwr := { s.pwr with
    durNs := [0, 0, 0, 0, 0, 0], shown := { s.pwr.shown with dur := [0, 0, 0, 0, 0, 0] } } } else s) ∧
  exec (.cntClear w) s = .next (if w.getLsbD 0 then { s with flt := { s.flt with ce := 0, de := 0, ue := 0 } } else s) ∧
  (∀ n k : Nat, n < 8 → k < 16 →
    (s.ctl.cmdOwn.getLsbD n = false → exec (.registerWrite (BitVec.ofNat 18 (0x1000 + 64 * n + 4 * k)) w) s = .next { s with
      ctl := { s.ctl with cmd := Tbl.set 0 s.ctl.cmd (16 * n + k) w } }) ∧
    (s.ctl.cmdOwn.getLsbD n = true → exec (.registerWrite (BitVec.ofNat 18 (0x1000 + 64 * n + 4 * k)) w) s = .next s)) ∧
  exec (.registerWrite 0x1404 w) s = .next { s with ctl := { s.ctl with rplEn := w.setWidth 8 } } ∧
  exec (.registerWrite 0x2004 w) s = .next { s with flt := { s.flt with hold := w.getLsbD 0, auto := w.getLsbD 1 } } ∧
  exec (.registerWrite 0x4040 w) s = .next { s with time := { s.time with capcfg := w.setWidth 16 } } ∧
  exec (.registerWrite 0x404C w) s = .next { s with time := { s.time with trigLate := s.time.trigLate &&& ~~~ w } } ∧
  (s.boot.done = true → exec (.registerWrite 0x5020 w) s = .next s) ∧
  (s.boot.done = false → exec (.registerWrite 0x5020 w) s = .next { s with boot := { s.boot with journalBase := w } }) ∧
  exec (.registerWrite 0x0800 w) s = .next s

/-! ### Mailbox commands -/

/-- `HELLO` and `FAULT_ACK` (R2, R258, Table CTRL-13): firmware replies with its version, its slot and the interface version 5, and whether the block is
attached; an acknowledged sequence number is waited for no longer, and a `FAULT` reply that waits for a free place takes it; a number that
firmware does not hold answers `NOTFOUND`. -/
def Obligations.FirmwareAnswers : Prop := ∀ (s : State) (n : Nat) (rest : List Nat) (m : Nat) (q : BitVec 16), q = BitVec.ofNat 16 (bits (s.arg n 0) 15 0) →
  (s.hears n rest 0x01 m → exec .hello s = .next ((s.taken n rest).posted n m 0
    [s.boot.fwver.toNat, (if s.boot.slotRunning then 256 else 0) + 5, if s.fw.attached then 1 else 0])) ∧
  (s.hears n rest 0x90 m → bits (s.arg n 0) 31 16 = 0 →
    (q ∉ s.ctl.unacked → exec .faultAck s = .next ((s.taken n rest).posted n m 7 [])) ∧
    (q ∈ s.ctl.unacked → s.ctl.faultWait = [] → exec .faultAck s = .next (({ s.taken n rest with
      ctl := { (s.taken n rest).ctl with unacked := s.ctl.unacked.erase q } }).posted n m 0 [])) ∧
    (∀ f fs, q ∈ s.ctl.unacked → s.ctl.faultWait = f :: fs → s.ctl.unacked.length = 16 →
      exec .faultAck s = .next (({ s.taken n rest with ctl := { (s.taken n rest).ctl with
        unacked := s.ctl.unacked.erase q ++ [s.ctl.fseq]
        faultWait := fs
        fseq := s.ctl.fseq + 1
        async := s.ctl.async ++ [(⟨.fault, f.payload s.ctl.fseq.toNat⟩ : Async)] } }).posted n m 0 [])))

/-- A message that fails a check of Table CTRL-11 is answered with that check's status and changes nothing but the mailboxes (R250). -/
def Obligations.FailedChecks : Prop := ∀ (c : Instr) (op : Nat) (mine : Nat → Bool) (s : State) (n : Nat) (rest : List Nat) (m : Nat),
  c.message = some (op, mine) → s.works → s.ctl.fwReady = true → s.ctl.hand = none → s.ctl.submitted = n :: rest →
  bits (s.ctl.cmdWord n 0) 15 0 = op → mine (s.arg n 0) = true → s.ctl.freeReply = some m → s.messageStatus n ≠ 0 →
  exec c s = .next ((s.taken n rest).posted n m (s.messageStatus n) [])

/-- `PHASE_POINT` and `ENERGY_READ` (R303, R314): a preferred point is set, or removed with 15; an `ENERGY_READ` of the
block, a phase or a live stream is answered with its six durations, that of the block with the total since reset, and marks the read. -/
def Obligations.PowerCommands : Prop := ∀ (s : State) (n : Nat) (rest : List Nat) (m : Nat),
  (s.hears n rest 0x80 m → bits (s.arg n 0) 31 12 = 0 → bits (s.arg n 0) 7 6 = 0 →
    (bits (s.arg n 0) 11 8 ≤ 7 → exec .phasePoint s = .next (({ s.taken n rest with pwr := { s.pwr with
      prefs := Tbl.put (bits (s.arg n 0) 5 0) (bits (s.arg n 0) 11 8) s.pwr.prefs } }).posted n m 0 [])) ∧
    (bits (s.arg n 0) 11 8 = 15 → exec .phasePoint s = .next (({ s.taken n rest with pwr := { s.pwr with
      prefs := Tbl.drop (bits (s.arg n 0) 5 0) s.pwr.prefs } }).posted n m 0 []))) ∧
  (s.hears n rest 0x82 m → bits (s.arg n 0) 15 2 = 0 →
    (bits (s.arg n 0) 1 0 = 0 ∨ (bits (s.arg n 0) 1 0 = 1 ∧ bits (s.arg n 0) 31 16 ≤ 63) ∨
      (bits (s.arg n 0) 1 0 = 2 ∧ (s.stream (bits (s.arg n 0) 31 16)).isSome)) →
    ∃ (marks : Tbl (List Rat)) (energy : Rat) (span : Nat) (durs : List Nat), durs.length = 6 ∧
      (bits (s.arg n 0) 1 0 = 0 → energy = s.pwr.total ∧ span = s.now) ∧
      exec .energyRead s = .next (({ s.taken n rest with pwr := { s.pwr with marks := marks } }).posted n m 0
        (ujWords energy ++ [span % 2 ^ 32, span / 2 ^ 32 % 2 ^ 32, if s.pwr.cal then 1 else 0] ++ durs)))

/-- `POWER_CAP` (R304): the cap is set within the range of Table POWER-5, and the reply carries it; a value outside the range answers `RANGE` and
changes nothing; a read of `PWR.CAP` gives the cap and the maximum. The history is clipped to the cap (R306). -/
def Obligations.CapIsSet : Prop := ∀ (s : State) (n : Nat) (rest : List Nat) (m mw lo hi : Nat), s.hears n rest 0x81 m → bits (s.arg n 0) 31 16 = 0 →
  mw = bits (s.arg n 0) 15 0 → (lo, hi) = (match s.build.cfg with | .l2 => (1000, 4900) | .l4 => (1000, 8500) | .l8 => (1000, 16000)) →
  (lo ≤ mw → mw ≤ hi → ∃ u : State, exec .powerCap s = .next u ∧ u.pwr.cap = mw ∧ u.readReg 0x3008 = hi * 65536 + mw ∧
    u = ({ s.taken n rest with pwr := { s.pwr with
      cap := mw, hist := s.pwr.hist.map fun x => if x ≤ (mw : Rat) / 1000 then x else (mw : Rat) / 1000 } }).posted n m 0 [mw]) ∧
  (mw < lo ∨ hi < mw → exec .powerCap s = .next ((s.taken n rest).posted n m 3 [])) ∧
  (∀ t : State, t.readReg 0x3008 = t.build.cfg.capRange.2.1 * 65536 + t.pwr.cap % 65536)

/-- `HALYARD_INIT` (R219, R220): each Halyard of the range takes the count, the generation and the attributes of the message and is usable;
every other Halyard keeps its word, and nothing else changes but the mailboxes and the time from which a Bunting's transfer, which a credit
may release, counts its skew (R238). -/
def Obligations.HalyardsInitialised : Prop := ∀ (s : State) (n : Nat) (rest : List Nat) (m first num mode evin target peer cnt gen : Nat)
  (relay : Bool), s.hears n rest 0x50 m →
  first = bits (s.arg n 0) 15 0 → num = bits (s.arg n 0) 31 16 → cnt = bits (s.arg n 1) 15 0 → gen = bits (s.arg n 1) 31 16 →
  mode = bits (s.arg n 2) 31 30 → relay = bitOn (s.arg n 2) 29 → evin = bits (s.arg n 2) 22 16 → target = bits (s.arg n 2) 15 0 →
  peer = bits (s.arg n 3) 15 0 →
  bits (s.arg n 2) 28 23 = 0 → bits (s.arg n 3) 31 16 = 0 → mode ≤ 1 → num ≠ 0 → first + num ≤ s.build.cfg.halyards →
  (relay = true → peer + num ≤ 32768) → (mode = 1 → cnt < target) → (mode = 0 → target = 0) → (evin = 0 ∨ (num = 1 ∧ evin ≤ 64)) →
  ∃ (hal : Hal) (streams : Tbl Stream),
    exec .halyardInit s = .next (({ s.taken n rest with hal := hal, fw := { s.fw with streams := streams } }).posted n m 0 []) ∧
    (∀ k, first ≤ k → k < first + num → Tbl.get false hal.unusable k = false ∧ Tbl.get HalWord.zero hal.words k =
      ⟨BitVec.ofNat 16 cnt, BitVec.ofNat 16 gen, decide (mode = 1), BitVec.ofNat 16 target, relay,
        if relay then BitVec.ofNat 15 (peer + (k - first)) else 0⟩) ∧
    (∀ k, k < first ∨ first + num ≤ k → Tbl.get HalWord.zero hal.words k = s.hword k ∧ Tbl.get false hal.unusable k = s.halDead k) ∧
    (evin ≠ 0 → Tbl.find hal.evBind (evin - 1) = some first) ∧ hal.evOutQ = s.hal.evOutQ ∧ hal.discarded = s.hal.discarded

/-- `TRIGGER_SET` and `TRIGGER_CANCEL` (Table LINK-13, R292): the trigger takes its time, period, repeats and output line; a time that has
passed makes it late; a cancel removes it. Nothing else changes but the mailboxes. -/
def Obligations.TriggerCommands : Prop := ∀ (s : State) (n : Nat) (rest : List Nat) (m k out time period nrep : Nat),
  s.hears n rest 0xB0 m → k = bits (s.arg n 0) 4 0 → out = bits (s.arg n 0) 12 8 → time = s.arg n 1 + s.arg n 2 * 2 ^ 32 →
  period = s.arg n 3 → nrep = bits (s.arg n 4) 15 0 → bits (s.arg n 0) 31 17 = 0 → bits (s.arg n 0) 15 13 = 0 → bits (s.arg n 0) 7 5 = 0 →
  bits (s.arg n 4) 31 16 = 0 →
  (bitOn (s.arg n 0) 16 = false → out ≤ 16 → (period = 0 → nrep = 0) → (period = 0 ∨ 1000 ≤ period) →
    ∃ g : Trig, exec .triggerSet s = .next (({ s.taken n rest with time := { s.time with trig := Tbl.put k g s.time.trig } }).posted n m 0 []) ∧
      g.period = period ∧ g.out = out ∧ g.late = reached64 s.now time ∧
      (reached64 s.now time = false → g.next = BitVec.ofNat 64 time ∧ g.left = if period ≠ 0 ∧ nrep = 0 then none else some nrep)) ∧
  (bitOn (s.arg n 0) 16 = true → out = 0 → time = 0 → period = 0 → nrep = 0 → (Tbl.find s.time.trig k).isSome →
    exec .triggerCancel s = .next (({ s.taken n rest with time := { s.time with trig := Tbl.drop k s.time.trig } }).posted n m 0 []))

/-- `TENSOR_CREATE` (R49, R55, R58): the descriptor that firmware reads becomes live under the handle it issues; a split tensor's owner table
is held in the Plate pool. `TENSOR_DESTROY` (R55, R57, R80, R151): the handle is live no more, and neither is a model that lies in it; the space a split tensor was
held in is free; every other handle stands. -/
def Obligations.TensorCommands : Prop :=
  (∀ (h : HostView) (pick : BitVec 12) (place : Nat) (s : State) (n : Nat) (rest : List Nat) (m : Nat)
  (b : List Byte) (d : Desc) (k : Nat), s.hears n rest 0x20 m → bits (s.arg n 1) 31 20 = 0 → s.arg n 0 % 64 = 0 →
  fwRead s h (addr52 (s.arg n 0) (s.arg n 1)) 64 = some b → s.checkDesc b = .inr d → s.liveHandles < 4095 → s.newHandle pick.toNat = some k →
  (d.loc ≠ 2 → (d.loc = 1 → meetsAny (s.fw.held ++ s.reservations) d.allocBase (d.allocLen * 64) = false) →
    exec (.tensorCreate h pick place) s = .next (({ s.taken n rest with fw := { s.fw with
      tensors := Tbl.put k ⟨d, [], none⟩ s.fw.tensors } }).posted n m 0 [k])) ∧
  (∀ o a, d.loc = 2 → fwRead s h (d.allocBase + d.ownerOff) d.nst = some o → (∀ x ∈ o, x = 0x00 ∨ x = 0x01 ∨ x = 0xFF) →
    s.tagHeld d.peerTag = false → s.holdPlace place o.length = some a →
    ∃ u : State, exec (.tensorCreate h pick place) s = .next (u.posted n m 0 [k]) ∧ u = { s.taken n rest with plate := u.plate, fw := u.fw } ∧
      u.fw = { s.fw with held := s.fw.held ++ [(a, o.length)], tensors := Tbl.put k ⟨d, o, some (a, o.length)⟩ s.fw.tensors } ∧
      u.plate.bytes = Tbl.setRun 0 s.plate.bytes a o)) ∧
  (∀ (s : State) (n : Nat) (rest : List Nat) (m h : Nat) (t : Tensor), s.hears n rest 0x21 m →
  h = bits (s.arg n 0) 15 0 → bits (s.arg n 0) 31 16 = 0 → Tbl.find s.fw.buntings h = none → s.tensor h = some t →
  s.programNames h = false → s.streamNames h = false → s.memberNamed h = false → s.storeInUse h = false →
  ∃ u : State, exec .tensorDestroy s = .next (u.posted n m 0 []) ∧ u.tensor h = none ∧ (∀ k, k ≠ h → u.tensor k = s.tensor k) ∧
    (∀ e ∈ s.fw.models, e.2.handle = h → Tbl.find u.fw.models e.1 = none) ∧
    u.fw.held = (match t.heldAt with | some r => s.fw.held.erase r | none => s.fw.held) ∧
    u.plate = s.plate ∧ u.hal = s.hal ∧ u.fw.streams = s.fw.streams ∧ u.fw.programs = s.fw.programs)

/-- `PROGRAM_LOAD` (R78, R79, R406): an image that passes every check stands in the lane's store under its program ID; a count of 0 removes
the program. Nothing else changes but the mailboxes. -/
def Obligations.ProgramLoaded : Prop := ∀ (h : HostView) (place : Nat) (s : State) (n : Nat) (rest : List Nat) (m count pid lane : Nat),
  s.hears n rest 0x30 m → count = bits (s.arg n 0) 29 16 → pid = bits (s.arg n 0) 13 8 → lane = bits (s.arg n 0) 3 0 →
  bits (s.arg n 0) 31 30 = 0 → bits (s.arg n 0) 15 14 = 0 → bits (s.arg n 0) 7 4 = 0 → bits (s.arg n 2) 31 20 = 0 → lane < s.nLanes →
  s.laneDown lane = false → s.fw.compat.getLsbD lane = false →
  ((Tbl.find s.fw.programs (progKey lane pid)).isSome = true → s.progBusy lane pid = false) →
  (count = 0 → (Tbl.find s.fw.programs (progKey lane pid)).isSome = true →
    exec (.programLoad h place) s = .next (({ s.taken n rest with fw := { s.fw with
      programs := Tbl.drop (progKey lane pid) s.fw.programs } }).posted n m 0 [])) ∧
  (∀ b area, count ≠ 0 → s.arg n 1 % 64 = 0 → fwRead s h (addr52 (s.arg n 1) (s.arg n 2)) (8 * count) = some b → crc32c b = s.arg n 3 →
    s.storePlace lane pid place count = some area → s.programStatus (insnsOf count b) true = 0 →
    ∃ p : Prog, p.code = insnsOf count b ∧ p.area = area ∧ p.img = addr52 (s.arg n 1) (s.arg n 2) ∧ p.bad = [] ∧
      exec (.programLoad h place) s = .next (({ s.taken n rest with fw := { s.fw with
        programs := Tbl.put (progKey lane pid) p s.fw.programs } }).posted n m 0 []))

/-- `CODEBOOK_LOAD` and `MODEL_LOAD` (R151, R197): the image that firmware reads stands as the codebook, or in the model store at the
model's first block; the numbers name it from then on. -/
def Obligations.ImagesLoaded : Prop := ∀ (h : HostView) (s : State) (n : Nat) (rest : List Nat) (m : Nat) (b : List Byte),
  (∀ id a, s.hears n rest 0xA0 m → id = bits (s.arg n 0) 3 0 → a = addr52 (s.arg n 1) (s.arg n 2) → bits (s.arg n 0) 31 4 = 0 →
    bits (s.arg n 2) 31 20 = 0 → s.arg n 1 % 64 = 0 → fwRead s h a 8192 = some b → crc32c b = s.arg n 3 → (∀ x ∈ b.drop 8184, x = 0) →
    (∀ e ∈ s.fw.tensors, e.2.d.coded = true → e.2.d.cbook ≠ id) →
    exec (.codebookLoad h) s = .next (({ s.taken n rest with fw := { s.fw with books := Tbl.put id (a, b) s.fw.books } }).posted n m 0 [])) ∧
  (∀ nb wfmt mid first handle f size t, s.hears n rest 0x40 m → nb = bits (s.arg n 0) 23 16 + 1 → wfmt = bits (s.arg n 0) 15 10 →
    mid = bits (s.arg n 0) 9 0 → first = bits (s.arg n 1) 31 16 → handle = bits (s.arg n 1) 15 0 → bits (s.arg n 0) 31 24 = 0 →
    bits (s.arg n 3) 31 20 = 0 → s.arg n 2 % 64 = 0 → Fmt.ofCode wfmt = some f → (mapShape f).isSome = true → size = blockBytes f →
    s.tensor handle = some t → t.d.loc = 1 → (first + nb) * size ≤ t.d.span → s.liveBind (WBind.fixes mid) = false →
    s.liveBind (WBind.lists mid) = false → fwRead s h (addr52 (s.arg n 2) (s.arg n 3)) (nb * size) = some b → crc32c b = s.arg n 4 →
    ∃ u : State, exec (.modelLoad h) s = .next (u.posted n m 0 []) ∧ u = { s.taken n rest with plate := u.plate, lanes := u.lanes, fw := u.fw } ∧
      u.fw = { s.fw with models := Tbl.put mid ⟨wfmt, nb, handle, first⟩ s.fw.models } ∧
      u.plate.bytes = Tbl.setRun 0 s.plate.bytes (t.d.base + first * size) b)

/-- `MODEL_SELECT` (R152): weight slot `k` of every member of a stream that is bound or parked takes the binding of the message: none, one
model, or the entries of a model table as they read now, of which a snapshot is held in the Plate pool; the earlier snapshot of the slot is
released. The command completes, with status `OK`. -/
def Obligations.ModelSelected : Prop := ∀ (h : HostView) (place : Nat) (s : State) (n : Nat) (rest : List Nat) (m c k id : Nat) (x : Stream),
  s.hears n rest 0x41 m → c = bits (s.arg n 0) 15 0 → k = bits (s.arg n 0) 17 16 → id = bits (s.arg n 1) 15 0 → bits (s.arg n 0) 31 21 = 0 →
  bits (s.arg n 1) 31 16 = 0 → s.stream c = some x → x.idx = 0 → (x.st = .bound ∨ x.st = .parked) →
  ∀ (b : WBind) (held : Option (Nat × Nat)) (w : State),
    ((bits (s.arg n 0) 19 18 = 0 ∧ b = .unbound ∧ held = none ∧ w = s.taken n rest) ∨
      (bits (s.arg n 0) 19 18 = 1 ∧ b = .fixed id ∧ held = none ∧ w = s.taken n rest ∧ id ≤ 1023 ∧
        ∀ r ∈ slotEmits (s.emitsOfStream x) k, s.bindStatus r b = 0) ∨
      (bits (s.arg n 0) 19 18 = 2 ∧ ∃ es a, b = .table id es ∧ s.readTable h id = (s, .inr es) ∧ s.entriesStatus es = 0 ∧
        (∀ r ∈ slotEmits (s.emitsOfStream x) k, s.bindStatus r b = 0) ∧ s.holdPlace place (2 * es.length) = some a ∧
        held = some (a, 2 * es.length) ∧ w = ((s.taken n rest).hold a (2 * es.length)).putSnapshot a es)) →
    ∃ (u : State) (y : Stream), exec (.modelSelect h place) s = .next (u.posted n m 0 []) ∧
      u = w.setBind c k b (bitOn (s.arg n 0) 20) held ∧ u.stream c = some y ∧ y.wbind = x.wbind.set k b ∧
      y.relay = setBit x.relay k (bitOn (s.arg n 0) 20) ∧ y.st = x.st ∧ y.cursors = x.cursors ∧ y.epoch = x.epoch ∧
      u.fw.tensors = s.fw.tensors ∧ u.fw.models = s.fw.models ∧ u.hal = s.hal ∧ u.lanes = s.lanes ∧ u.plate = w.plate

/-- `BUNTING_DEFINE`, `BUNTING_READMIT` and `BUNTING_DELETE` (R235, R237, R241, Table SYNC-8): a define makes its members a group under a new
handle, each with the count of its credit Halyard as the join value; a readmit joins an evicted member again, with the same; a delete
frees the handle. -/
def Obligations.BuntingCommands : Prop := ∀ (pick : BitVec 12) (s : State) (n : Nat) (rest : List Nat) (m h : Nat), s.hears n rest 0x60 m →
  h = bits (s.arg n 0) 27 16 →
  (∀ k, bits (s.arg n 0) 31 30 = 0 → bunReserved (s.arg n) = false → h = 0 → 1 ≤ bits (s.arg n 0) 15 12 → bits (s.arg n 0) 15 12 ≤ 8 →
    (∀ x ∈ definedMembers s (s.arg n), x.depth ≠ 0) → s.bunStatus (definedMembers s (s.arg n)) (bits (s.arg n 1) 15 0) = 0 →
    s.newHandle pick.toNat = some k →
    ∃ u : State, exec (.buntingDefine pick) s = .next (u.posted n m 0 [k, 0]) ∧ u.hal.words = s.hal.words ∧ u.fw.tensors = s.fw.tensors ∧
      u.fw.buntings = Tbl.put k ⟨skewOf (bits (s.arg n 1) 15 0), definedMembers s (s.arg n), 0⟩ s.fw.buntings ∧
      ((∀ x ∈ definedMembers s (s.arg n), Tbl.get 0 s.hal.upset x.credit ≤ 1) →
        u.fw = { s.fw with buntings := u.fw.buntings } ∧ u.lanes = s.lanes)) ∧
  (∀ b x, bits (s.arg n 0) 31 30 = 1 → bunShort (s.arg n) = true → Tbl.find s.fw.buntings h = some b →
    b.members[bits (s.arg n 0) 11 9]? = some x → x.evicted = true → (s.peerMember x = true → s.link.up = true) →
    ∃ u : State, exec .buntingReadmit s = .next (u.posted n m 0 [h, b.xfers + s.readyXfers h]) ∧
      (∃ b' x', b' = { b with members := b.members.set (bits (s.arg n 0) 11 9) x' } ∧
        x' = { x with evicted := false, v := (s.hword x.credit).count.toNat, j := 0 } ∧
        u.fw.buntings = Tbl.put h b' s.fw.buntings ∧
        (Tbl.get 0 s.hal.upset x.credit ≤ 1 → u.fw = { s.fw with buntings := Tbl.put h b' s.fw.buntings })) ∧ u.hal.words = s.hal.words) ∧
  (bits (s.arg n 0) 31 30 = 2 → bunShort (s.arg n) = true → (Tbl.find s.fw.buntings h).isSome = true → s.programNames h = false →
    s.streamNames h = false →
    exec .buntingDelete s = .next (({ s.taken n rest with fw := { s.fw with buntings := Tbl.drop h s.fw.buntings } }).posted n m 0 [h, 0]))

/-- `STREAM_BIND` (R257, Table CTRL-17): the members of a native stream, or a TL-64 stream, stand bound in contexts of ascending number on
the lanes of the mask, in their first state; nothing else changes but the mailboxes and the model's counter of streams and writes (log 10). -/
def Obligations.StreamBound : Prop := ∀ (h : HostView) (pick : BitVec 12) (s : State) (n : Nat) (rest : List Nat) (m c depth g pid q : Nat)
  (lanes : List Nat) (tl : Bool) (array : Option (Nat × List (List Word))),
  s.hears n rest 0x31 m → lanes = onBits 8 (bits (s.arg n 0) 31 24) → tl = bitOn (s.arg n 0) 21 → depth = bits (s.arg n 0) 19 16 →
  g = 2 ^ bits (s.arg n 0) 15 14 → pid = bits (s.arg n 0) 13 8 → q = bits (s.arg n 0) 7 0 →
  bits (s.arg n 0) 23 22 = 0 → bits (s.arg n 2) 31 20 = 0 → 2 ≤ depth → depth ≤ 8 → lanes.length = g → (tl = true → g = 1 ∧ pid = 0) →
  (∀ l ∈ lanes, l < s.nLanes ∧ s.laneDown l = false ∧ s.fw.compat.getLsbD l = tl) → s.arg n 1 % 64 = 0 →
  (tl = true → s.arg n 3 % 64 = 0 ∧ ∃ ds, array = some (s.arg n 3 + bits (s.arg n 4) 19 0 * 2 ^ 32, ds) ∧
    s.tlRows h (s.arg n 3 + bits (s.arg n 4) 19 0 * 2 ^ 32) (bits (s.arg n 4) 31 20 + 1) = .inr ds) →
  (tl = false → array = none ∧ s.nativeRows lanes pid = 0) → s.newContexts g pick.toNat = some c → g * depth ≤ s.openPositions.length →
  ∃ streams : Tbl Stream, exec (.streamBind h pick) s = .next (({ s.taken n rest with
      plate := { s.plate with clock := s.plate.clock + 1 }, fw := { s.fw with streams := streams } }).posted n m 0 [c]) ∧
    (∀ i l, lanes[i]? = some l → Tbl.find streams (c + i) = some (BindArgs.stream
      ⟨lanes, g, bitOn (s.arg n 0) 20, depth, pid, if q = 0 then 10 else q, addr52 (s.arg n 1) (s.arg n 2), array⟩ s.now (s.plate.clock + 1) c i l)) ∧
    (∀ d, d < c ∨ c + lanes.length ≤ d → Tbl.find streams d = s.stream d)

/-- `STREAM_ARM` (Table CTRL-20): a bound stream goes to the admission queue, and every member begins a new run, its epoch one higher after a
completed run; the command completes with status `OK`. Streams of other contexts stand, and so does everything outside firmware's objects. -/
def Obligations.StreamArmed : Prop := ∀ (s : State) (n : Nat) (rest : List Nat) (m c : Nat) (x : Stream), s.hears n rest 0x32 m →
  c = bits (s.arg n 0) 15 0 → bits (s.arg n 0) 31 16 = 0 → s.stream c = some x → x.idx = 0 → x.st = .bound → s.linkDenies x = false →
  (x.tl = none → (s.progOf x).isSome = true) → s.bindingsStatus x.wbind (s.emitsOfStream x) = 0 →
  ∃ (streams : Tbl Stream) (y : Stream), exec .streamArm s = .next (({ s.taken n rest with fw := { s.fw with
      streams := streams, admitQ := s.fw.admitQ ++ [c] } }).posted n m 0 []) ∧
    Tbl.find streams c = some y ∧ y.st = .queued ∧ y.armed = true ∧ y.epoch = (if x.armed then x.epoch + 1 else x.epoch) ∧
    y.fpc = 0 ∧ y.rs = .start ∧ y.xrs = .start ∧ y.xq = [] ∧ y.xfers = [] ∧ (∀ d, d ∉ s.group c → Tbl.find streams d = s.stream d)

/-- `STREAM_REARM` (R102, Table FYUSH-10): a parked stream runs again with the handles of the message in its base slots; the epoch rises by
one and is the reply's payload. `w` is the state after the tables of its bindings have been read again. -/
def Obligations.StreamRearmed : Prop := ∀ (h : HostView) (s w : State) (n : Nat) (rest : List Nat) (m c mask : Nat) (x : Stream) (p : Prog)
  (subst : Tbl Nat) (wb : List WBind), s.hears n rest 0x33 m → c = bits (s.arg n 0) 15 0 → mask = bits (s.arg n 0) 23 16 →
  bits (s.arg n 0) 31 24 = 0 → (∀ k < 8, bitOn mask k = false → rearmHandle (s.arg n) k = 0) → s.stream c = some x → x.idx = 0 →
  s.progOf x = some p → p.insns.getLast? = some (.endRun true) → s.linkDenies x = false → x.st = .parked →
  subst = (onBits 8 mask).foldl (fun t k => Tbl.put k (rearmHandle (s.arg n) k) t) x.subst →
  s.substStatus p.insns x.subst subst mask = 0 → (s.remoteCode (substCode subst p.insns) = true → s.link.up = true) →
  State.rereadTables h x.wbind (s.taken n rest) = (w, .inr wb) → w.bindingsStatus wb (runEmits (substCode subst p.insns)) = 0 →
  ∃ (u : State) (y : Stream), u = w.rearmAll c x subst (s.remoteCode (substCode subst p.insns)) wb ∧ u.stream c = some y ∧ y.st = .active ∧ y.epoch = x.epoch + 1 ∧
    y.subst = subst ∧ y.wbind = wb ∧
    exec (.streamRearm h) s = .next (s.keep (u.answer (BitVec.ofNat 16 (bits (s.ctl.cmdWord n 0) 31 16)) 0x33 0 [(x.epoch + 1).toNat]))

/-- `STREAM_PAUSE` (R128, Table CTRL-20): a paused stream stays as it is. Otherwise every member is marked paused; with none on a lane that does not
hold, the record is written and the reply is sent, so the command completes; with members on lanes, those lanes stop for it and the command
waits. -/
def Obligations.StreamPaused : Prop := ∀ (h : HostView) (s w : State) (n : Nat) (rest : List Nat) (m c : Nat) (x : Stream),
  s.hears n rest 0x34 m → c = bits (s.arg n 0) 15 0 → bits (s.arg n 0) 31 16 = 0 → s.stream c = some x → x.idx = 0 →
  w = ((s.group c).foldl State.delist ((s.taken n rest).modGroup c fun y => { y with paused := true })).leaveHeld c false →
  (x.paused = true → exec (.streamPause h) s = .next ((s.taken n rest).posted n m 0 [])) ∧
  (x.paused = false → w.toDrain c = [] → exec (.streamPause h) s = .next (s.keep ((w.record h c).posted n m 0 []))) ∧
  (x.paused = false → w.toDrain c ≠ [] → ∃ u : State, exec (.streamPause h) s = .next u ∧
    u.ctl.hand = some (.waiting (BitVec.ofNat 16 (bits (s.ctl.cmdWord n 0) 31 16)) 0x34 (.pause c)) ∧ u.fw = w.fw ∧
    ∀ p ∈ w.toDrain c, Stop.fwPause ∈ (u.lane p).stops) ∧
  (x.paused = false → ∃ (u : State) (y : Stream), exec (.streamPause h) s = .next u ∧ u.stream c = some y ∧ y.paused = true ∧ c ∉ u.runlistOf y.lane ∧
    (w.toDrain c = [] → u.ctl.hand = none ∧ y.savedPos = y.positionWords))

/-- `STREAM_ABANDON` (R260): with members on lanes that do not hold, those lanes stop for it and the command waits; otherwise the stream is
gone at once, its contexts free, and the reply is sent, so the command completes. -/
def Obligations.StreamAbandoned : Prop := ∀ (h : HostView) (s w : State) (n : Nat) (rest : List Nat) (m c : Nat) (x : Stream),
  s.hears n rest 0x36 m → c = bits (s.arg n 0) 15 0 → bits (s.arg n 0) 31 16 = 0 → s.stream c = some x → x.idx = 0 →
  w = (s.group c).foldl State.delist (s.taken n rest) →
  (w.toDrain c = [] → ∃ u : State, exec (.streamAbandon h) s = .next u ∧ u = s.keep ((w.finishAbandon h c).posted n m 0 []) ∧
    u.stream c = none ∧ u.ctl.hand = none) ∧
  (w.toDrain c ≠ [] → ∃ u : State, exec (.streamAbandon h) s = .next u ∧
    u.ctl.hand = some (.waiting (BitVec.ofNat 16 (bits (s.ctl.cmdWord n 0) 31 16)) 0x36 (.abandon c)) ∧
    u.stream c = w.stream c ∧ ∀ p ∈ w.toDrain c, Stop.fwPause ∈ (u.lane p).stops)

/-- `STREAM_RESUME` (Tables CTRL-20, STREAM-7): a paused stream that is not Held is paused no more; a Held stream that is neither on a page,
nor denied, nor of a lane out of service is Held no more: it goes on from its position, or waits for admission. Either way the command completes
with status `OK`. -/
def Obligations.StreamResumed : Prop := ∀ (h : HostView) (s : State) (n : Nat) (rest : List Nat) (m c : Nat) (x : Stream),
  s.hears n rest 0x35 m → c = bits (s.arg n 0) 15 0 → bits (s.arg n 0) 31 16 = 0 → s.stream c = some x → x.idx = 0 → s.linkDenies x = false →
  (s.heldGroup c = false → x.paused = true → ∃ (u : State) (y : Stream), exec (.streamResume h) s = .next (s.keep (u.posted n m 0 [])) ∧
    u.stream c = some y ∧ y.paused = false ∧ y.st = x.st) ∧
  (x.st = .held → (∀ d ∈ s.group c, (s.laneOf d).isSome = true) → s.anyMember c (fun y => y.heldBy.contains .page) = false →
    s.anyMember c (fun y => y.denied) = false → ∃ (u : State) (y : Stream), u = (s.taken n rest).resumeHeld h c ∧
      exec (.streamResume h) s = .next (s.keep (u.posted n m 0 [])) ∧ u.stream c = some y ∧ y.heldBy = [] ∧
      y.st = (if x.reserve = [] then .queued else .active) ∧ y.inError = false)

/-- `PAGE_RESUME` (R132, R134): a lane that holds on a page leaves that hold; with `INV` = 1, the translation caches of the lanes of the mask
are emptied, and a walk in progress is walked again. -/
def Obligations.PageResumes : Prop := ∀ (h : HostView) (s : State) (n : Nat) (rest : List Nat) (m : Nat), s.hears n rest 0xC0 m →
  pageReserved (s.arg n 0) = false →
  (∀ p, bitOn (s.arg n 0) 8 = false → bits (s.arg n 0) 3 0 < s.nLanes → s.physOf (bits (s.arg n 0) 3 0) = some p → (s.lane p).onPage = true →
    ∃ u : State, exec (.pageResume h) s = .next (u.posted n m 0 []) ∧ (∀ x ∈ (u.lane p).stops, ∀ f, x ≠ Stop.page f) ∧
      u.plate = s.plate ∧ u.hal = s.hal) ∧
  (bitOn (s.arg n 0) 8 = true → (∀ l ∈ onBits 8 (bits (s.arg n 0) 23 16), l < s.nLanes) →
    ∃ u : State, exec .pageResumeInvalidate s = .next (u.posted n m 0 []) ∧ u = { s.taken n rest with lanes := u.lanes } ∧
      (∀ l ∈ onBits 8 (bits (s.arg n 0) 23 16), ∀ p, s.physOf l = some p → (u.lane p).xlat = [] ∧
        (u.lane p).walk = (s.lane p).walk.map fun w => { w with stale := true }))

/-- `LINK_UP` and `LINK_DOWN` (R279, R281, Table LINK-8): a link that is down or lost begins to train with the settings of the message, and
the command waits; an open session is drained, and the command waits; a lost link is down at once. -/
def Obligations.LinkCommands : Prop := ∀ (place : Nat) (s : State) (n : Nat) (rest : List Nat) (m : Nat),
  (∀ a, s.hears n rest 0x70 m → (s.link.st = 0 ∨ s.link.st = 4) → bits (s.arg n 0) 31 17 = 0 → bits (s.arg n 2) 31 16 = 0 →
    bits (s.arg n 4) 31 16 = 0 → badMac (s.arg n 1 + bits (s.arg n 2) 15 0 * 2 ^ 32) = false →
    badMac (s.arg n 3 + bits (s.arg n 4) 15 0 * 2 ^ 32) = false → badEtype (bits (s.arg n 0) 15 0) = false →
    s.freeBuffer.holdPlace place retryBytes = some a →
    ∃ u : State, exec (.linkUp place) s = .next u ∧ u.link.st = 1 ∧ u.link.trains = s.link.trains + 1 ∧ u.link.buf = some a ∧
      u.link.dmac = BitVec.ofNat 48 (s.arg n 1 + bits (s.arg n 2) 15 0 * 2 ^ 32) ∧
      u.link.etype = (if bits (s.arg n 0) 15 0 = 0 then 0x88B5 else BitVec.ofNat 16 (bits (s.arg n 0) 15 0)) ∧
      u.ctl.hand = some (.waiting (BitVec.ofNat 16 (bits (s.ctl.cmdWord n 0) 31 16)) 0x70 .linkUp) ∧ u.plate = s.plate ∧ u.lanes = s.lanes) ∧
  (s.hears n rest 0x71 m → s.remoteBusy = false →
    (s.link.st = 2 ∨ s.link.st = 3 → ∃ u : State, exec .linkDown s = .next u ∧
      u.ctl.hand = some (.waiting (BitVec.ofNat 16 (bits (s.ctl.cmdWord n 0) 31 16)) 0x71 .linkDown) ∧ u.link.st = s.link.st) ∧
    (s.link.st = 4 → ∃ u : State, exec .linkDown s = .next u ∧ u.link.st = 0 ∧ u.link.buf = none ∧ u.ctl.hand = none) ∧
    (s.link.st = 0 ∨ s.link.st = 1 ∨ s.link.st = 5 → exec .linkDown s = .next ((s.taken n rest).posted n m 0 [])))

/-- `ATTACH` (R256, R306): the block takes its translation root, its compatibility mask and its regulator, and every lane's translation cache
is empty; `HELLO` and the registers find it attached. -/
def Obligations.Attaches : Prop := ∀ (h : HostView) (s : State) (n : Nat) (rest : List Nat) (m root compat : Nat) (record : Option (List Byte)),
  s.hears n rest 0x10 m → root = addr52 (s.arg n 0) (s.arg n 1) → compat = bits (s.arg n 1) 31 24 →
  readRegs s.build.cfg.ports h (addr52 (s.arg n 2) (s.arg n 3)) (s.arg n 4) = .inr record → bits (s.arg n 1) 23 20 = 0 → bits (s.arg n 3) 31 20 = 0 →
  compat < 2 ^ s.nLanes → root % 2097152 = 0 →
  (∀ b, record = some b → ∀ i ∈ s.regPresent, regReservedOk b i = true ∧ regRangeOk (regEntry b i) = true) →
  (s.fw.attached = true → s.liveHandles = 0 ∧ s.fw.streams = []) →
  ∃ u : State, exec (.attach h) s = .next (u.posted n m 0 []) ∧ u = { s.taken n rest with fw := u.fw, pwr := u.pwr, lanes := u.lanes } ∧
    u.fw = { s.fw with attached := true, root := root, compat := BitVec.ofNat 8 compat, reg := u.fw.reg } ∧
    u.fw.reg = (match record with | some b => s.regPresent.map fun i => (i, regEntry b i) | none => []) ∧
    u.pwr = { s.pwr with hist := List.replicate 1000 ((s.pwr.cap : Rat) / 1000) } ∧
    (∀ p ∈ s.build.cfg.physLanes, (u.lane p).xlat = [])

/-- `FW_UPDATE` (R363, Table START-11) without `ACTIVATE`: an image whose signature holds is written to the slot that does not run. -/
def Obligations.FirmwareUpdated : Prop := ∀ (h : HostView) (s : State) (n : Nat) (rest : List Nat) (m slot len : Nat) (img : List Byte),
  s.hears n rest 0xF0 m → slot = bits (s.arg n 0) 0 0 → len = s.arg n 3 → bits (s.arg n 0) 31 9 = 0 → bits (s.arg n 0) 7 1 = 0 →
  bits (s.arg n 2) 31 20 = 0 → addr52 (s.arg n 1) (s.arg n 2) % 64 = 0 → decide (slot = 1) ≠ s.boot.slotRunning → len % 64 = 0 → 256 ≤ len →
  len ≤ 196800 → hostRead s.build.cfg.ports h (addr52 (s.arg n 1) (s.arg n 2)) len = some img → crc32c img = s.arg n 4 →
  imageStatus s.otp.keyHash len img = 0 → hostBad s.build.cfg.ports h (s.boot.slotAddr slot) len = none → bitOn (s.arg n 0) 8 = false →
  exec (.fwUpdate h) s = .next (((s.taken n rest).fwWrite (s.boot.slotAddr slot) img).posted n m 0 []) ∧
  ((s.taken n rest).fwWrite (s.boot.slotAddr slot) img).fwWrites.flatMap (fun w => w.bytes) = s.fwWrites.flatMap (fun w => w.bytes) ++ img

/-- `DETACH` (R365, R366, R374): every physical lane of the build stops for it, and the command waits until the lanes are down and the session is
closed; on a block with nothing in progress and no session, the detach ends at once with its `OK` reply: `QUIESCED` rises, `FW_READY` falls, the
core halts. -/
def Obligations.Detaches : Prop := ∀ (h : HostView) (s : State) (n : Nat) (rest : List Nat) (m : Nat), s.hears n rest 0x11 m →
  (∃ u : State, exec (.detach h) s = .next u ∧ (∀ p ∈ s.build.cfg.physLanes, Stop.fwPause ∈ (u.lane p).stops) ∧
    (∀ p ∈ s.build.cfg.physLanes, (s.lane p).holding = false → (s.lane p).queue ≠ [] → u.ctl.fwReady = true ∧
      u.ctl.hand = some (.waiting (BitVec.ofNat 16 (bits (s.ctl.cmdWord n 0) 31 16)) 0x11 .detach)) ∧
    (s.link.up = true → u.ctl.fwReady = true ∧
      u.ctl.hand = some (.waiting (BitVec.ofNat 16 (bits (s.ctl.cmdWord n 0) 31 16)) 0x11 .detach))) ∧
  (s.lanes = [] → s.ports = [] → s.fw.streams = [] → s.link.reads = [] → s.link.st = 0 → s.pwr.tx = [] → s.link.sending = none →
    s.link.txQ = [] → s.link.ackQ = [] → ∃ u : State, exec (.detach h) s = .next u ∧ u.pins.quiesced = true ∧ u.ctl.fwReady = false ∧
    u.life.halted = true ∧ u.ctl.hand = none ∧ u.ctl.rplFull.getLsbD m = true ∧ u.plate = s.plate ∧ u.hal = s.hal)

/-! ### The mailbox port -/

/-- `MBX.GO`, `MBX.RELEASE` and the placement of replies (R246, R247, R252, R263): firmware owns each submitted mailbox that the host owned,
and takes them in ascending order; a released reply mailbox is free; the reply in hand goes to the lowest free mailbox before the
oldest asynchronous reply does, and the reply of a `DETACH`, which waits until the ports are quiet, ends the detach. -/
def Obligations.MailboxPort : Prop := ∀ (s : State) (w : Word), s.works →
  (s.ctl.fwReady = false → exec (.mbxGo w) s = .next s) ∧
  (s.ctl.fwReady = true → ∃ c : Ctl, exec (.mbxGo w) s = .next { s with ctl := c } ∧
    c = { s.ctl with cmdOwn := c.cmdOwn, submitted := c.submitted } ∧
    c.submitted = s.ctl.submitted ++ (List.range 8).filter (fun n => w.getLsbD n && !s.ctl.cmdOwn.getLsbD n) ∧
    ∀ n, n < 8 → c.cmdOwn.getLsbD n = (s.ctl.cmdOwn.getLsbD n || w.getLsbD n)) ∧
  (∃ c : Ctl, exec (.mbxRelease w) s = .next { s with ctl := c } ∧ c = { s.ctl with rplFull := c.rplFull } ∧
    ∀ n, n < 8 → c.rplFull.getLsbD n = (s.ctl.rplFull.getLsbD n && !w.getLsbD n)) ∧
  (∀ m, s.ctl.fwReady = true → s.ctl.freeReply = some m →
    (∀ r, s.ctl.hand = some (.reply r) → (r.code ≠ 0x11 ∨ r.status ≠ 0) → exec .replyPlacement s = .next { s with
      ctl := { s.ctl.putReply m (messageWords r.token.toNat r.code.toNat r.status r.payload) with hand := none } }) ∧
    (∀ r, s.ctl.hand = some (.reply r) → r.code = 0x11 → r.status = 0 →
      (s.quiet = false → exec .replyPlacement s = .next s) ∧
      (s.quiet = true → ∃ u : State, exec .replyPlacement s = .next u ∧ u.pins.quiesced = true ∧ u.ctl.fwReady = false ∧
        u.life.halted = true ∧ u.ctl.hand = none ∧ u.ctl.rplFull.getLsbD m = true)) ∧
    (∀ a rest, (∀ r, s.ctl.hand ≠ some (.reply r)) → s.ctl.async = a :: rest → exec .replyPlacement s = .next { s with
      ctl := { s.ctl.putReply m (messageWords 0xFFFF a.kind.code 0 a.payload) with async := rest } }))

/-! ### Faults -/

/-- Fault injection, the collector's own faults and the core monitor (R335, R337, R341, R348): the three keys in order open injection in test
mode, another write closes it; an injection spoils the selected site once, or raises its kind; without test mode nothing happens. A fault that
the collector finds of itself puts the block into the safe state, and `SELF_CLEAR` reloads its control state; the pulse timer ends the pulse; a
checkpoint write passes, or raises kind 56, or 55 when it does not come (log 83 says how the table of signatures is kept open). -/
def Obligations.FaultInjection : Prop := ∀ (s t : State) (w : Word) (h : HostView), s.works → t = { s with flt := { s.flt with unlock := 0 } } →
  (s.life.testSampled = false → exec (.testUnlock w) s = .next s ∧ exec (.injGo w) s = .next s) ∧
  (s.life.testSampled = true →
    (w.toNat = unlockKey s.flt.unlock → s.flt.unlock < 2 →
      exec (.testUnlock w) s = .next { s with flt := { s.flt with unlock := s.flt.unlock + 1 } }) ∧
    (w = 0x0F0F → s.flt.unlock = 2 → exec (.testUnlock w) s = .next { s with flt := { s.flt with unlock := 0, inj := true } }) ∧
    (w.toNat ≠ unlockKey s.flt.unlock → ∃ n, exec (.testUnlock w) s = .next { s with flt := { s.flt with unlock := n, inj := false } }) ∧
    (s.flt.inj = false ∨ w.getLsbD 0 = false → exec (.injGo w) s = .next t) ∧
    (s.flt.inj = true → w.getLsbD 0 = true → ∀ site unit, site = bits s.flt.injSel.toNat 3 0 → unit = bits s.flt.injSel.toNat 11 8 →
      (site = 2 → exec (.injGo w) s = .next (t.modLane unit fun l => { l with flawProduct := true })) ∧
      (site = 3 → exec (.injGo w) s = .next (t.modLane unit fun l => { l with flawDrain := true })) ∧
      (site = 4 → exec (.injGo w) s = .next (t.modPort unit fun p => { p with flawIn := true })) ∧
      (site = 5 → exec (.injGo w) s = .next { t with link := { s.link with flawCrc := true } }) ∧
      (site = 7 → exec (.injGo w) s = .next (t.raise ⟨8, 0, 55, 0⟩)) ∧
      (site = 8 → exec (.injGo w) s = .next (t.raise ⟨8, 0, 56, 0⟩)) ∧
      (site = 9 → exec (.injGo w) s = .next ((t.aclkFault false).raise ⟨7, 0, 50, 0⟩)) ∧
      (site = 10 → exec (.injGo w) s = .next { t with pwr := { s.pwr with flawSensor := some s.flt.injArg.toNat } }) ∧
      (site = 11 → exec (.injGo w) s = .next { t with pwr := { s.pwr with flawWear := some s.flt.injArg.toNat } }))) ∧
  (∀ parity differ : Bool, (parity || differ) = true → ∃ u : State, exec (.burgee [] (some (.collector parity differ)) h) s = .next u ∧
    u.flt.safe = true ∧ u.flt.selfF = true ∧ u.flt.copiesDiffer = differ ∧ u.flt.cross = s.flt.cross ∧ u.flt.hist = s.flt.hist ∧
    (s.flt.safe = false → u.pins.evOut = 0 ∧ u.pins.trigOut = 0)) ∧
  (s.flt.selfF = false → exec .selfClear s = .next s) ∧
  (s.flt.selfF = true → exec .selfClear s = .next { s with flt := { s.flt with auto := true, hold := false, pulse := false, selfF := s.flt.copiesDiffer } }) ∧
  exec .faultPinTimer s = .next { s with flt := { s.flt with pulse := false } } ∧
  exec (.teconWdog none) s = .next (s.raise ⟨8, 0, 55, 0⟩) ∧
  exec (.teconWdog (some (Config.signature s.flt.checkpoint))) s = .next { s with flt := { s.flt with checkpoint := s.flt.checkpoint + 1 } } ∧
  (w ≠ Config.signature s.flt.checkpoint → exec (.teconWdog (some w)) s = .next (s.raise ⟨8, 0, 56, 0⟩))

/-- A unit raises a Burgee, and the collector takes it (R40, R326-R328, R332, R333, R335, R339): a raised one enters its domain's crossing, or is
held by its source when that is full; an uncorrected or fatal one pulses `FAULT_N` and puts the block into the safe state without
waiting: event and trigger outputs low, and every lane with work stopping. A Burgee that reaches the collector is counted by its severity,
written with the time into the entry of its sequence number unless its pair is held back, and becomes `FLT.FIRST` if uncorrected or fatal; then
firmware checks the lane, restarts, or reports it. Empty crossings deliver nothing. -/
def Obligations.Collects : Prop := ∀ (s : State) (dom : Dom) (b : Burgee) (f : Flt) (r : RawBurgee) (h : HostView), s.works →
  (∀ doms : List Dom, (∀ d ∈ doms, Tbl.get [] s.flt.cross d.num = []) → exec (.burgee doms none h) s = .next s) ∧
  (b = rawBurgee r → b.kind ∈ [16, 17, 20, 40, 41, 47, 56, 57, 58] → (kindClasses b.kind).contains b.cls = true → s.hasUnit b = true →
    ∃ u : State, exec (.burgee [] (some (.unit r)) h) s = .next u ∧
      (crossRoom b.dom b.kind (Tbl.get [] s.flt.cross b.dom).length = true →
        u.flt.cross = Tbl.put b.dom (Tbl.get [] s.flt.cross b.dom ++ [b]) s.flt.cross ∧ u.flt.held = s.flt.held) ∧
      (crossRoom b.dom b.kind (Tbl.get [] s.flt.cross b.dom).length = false →
        u.flt.cross = s.flt.cross ∧ u.flt.held = Tbl.put b.dom (Tbl.get [] s.flt.held b.dom ++ [b]) s.flt.held) ∧
      (kindSev b.kind < 2 → u.flt.safe = s.flt.safe ∧ u.flt.pulse = s.flt.pulse ∧ u.pins = s.pins ∧ u.lanes = s.lanes) ∧
      (2 ≤ kindSev b.kind → u.flt.safe = true ∧ u.flt.pulse = true) ∧
      (2 ≤ kindSev b.kind → s.flt.safe = false → u.pins.evOut = 0 ∧ u.pins.trigOut = 0 ∧ u.flt.hold = (s.flt.hold || s.flt.auto) ∧
        ∀ p ∈ s.build.cfg.physLanes, (s.lane p).queue ≠ [] → Stop.safe ∈ (u.lane p).stops) ∧
      u.flt.hist = s.flt.hist ∧ u.plate = s.plate ∧ u.hal = s.hal ∧ u.time = s.time ∧ u.pwr = s.pwr ∧ u.ctl = s.ctl) ∧
  (s.flt.pop dom.num = some (b, f) → ∃ u : State, exec (.burgee [dom] none h) s = .next u ∧ u.flt.cross = f.cross ∧ u.flt.held = f.held ∧
    u.flt.ce = (if kindSev b.kind = 0 then BitVec.ofNat 32 (satAdd32 s.flt.ce.toNat 1) else s.flt.ce) ∧
    u.flt.de = (if kindSev b.kind = 1 then BitVec.ofNat 32 (satAdd32 s.flt.de.toNat 1) else s.flt.de) ∧
    u.flt.ue = (if 2 ≤ kindSev b.kind then BitVec.ofNat 32 (satAdd32 s.flt.ue.toNat 1) else s.flt.ue) ∧
    (s.entersHistory b = true → u.flt.seq = s.flt.seq + 1 ∧
      Tbl.find u.flt.hist (s.flt.seq.toNat % 16) = some ⟨BitVec.ofNat 64 b.word, s.time.ns⟩) ∧
    (s.entersHistory b = false → u.flt.seq = s.flt.seq ∧ u.flt.hist = s.flt.hist) ∧
    u.flt.first = (if 2 ≤ kindSev b.kind then BitVec.ofNat 64 b.word else s.flt.first) ∧ u.flt.safe = s.flt.safe ∧ u.flt.pulse = s.flt.pulse ∧
    (s.manages = true → restartKind b.kind = true → u.ctl.fwReady = false ∧ Recovery.warmRestart b.kind ∈ u.flt.recov) ∧
    (s.manages = true → s.flt.restarting = false → restartKind b.kind = false → laneCheckKind b.kind = true →
      Recovery.laneCheck (s.checkedLane b) ∈ u.flt.recov ∧ Stop.halt .proof ∈ (u.lane (s.checkedLane b)).stops) ∧
    (s.manages = true → s.flt.restarting = true → restartKind b.kind = false → u.flt.todo = s.flt.todo ++ [b]) ∧
    (s.manages = false → u = { s with flt := u.flt }) ∧ (b.kind ≠ 27 → b.kind ≠ 41 → u.fw = s.fw) ∧
    u.pins = s.pins ∧ u.plate = s.plate ∧ u.hal = s.hal ∧ u.link = s.link ∧ u.time = s.time ∧ u.pwr = s.pwr ∧ u.ports = s.ports)

/-- Clock monitors and the way out of the safe state (R312, R330, R336, R372, Table FAULT-9): a flagged clock raises its kind at the monitor and,
for ACLK, TCLK and LCLK, acts on its domain; a clock that returns is flagged no more, and only a fatal kind of it stays a cause. A request to leave
the safe state is ignored during a recovery, refused with a pulse while a cause is present, and otherwise ends the state. -/
def Obligations.ClocksAndSafeExit : Prop := ∀ (s : State) (clk : Clock) (loss : Bool) (b : Burgee), s.works →
  (b = ⟨7, clockIdx clk, clockKind clk loss, 0⟩ → ∃ u : State, exec (.clockMonitorFault clk loss) s = .next u ∧
    u.flt.clkFlag = setBit s.flt.clkFlag (clockIdx clk) true ∧
    (clk ≠ .lclk ∨ s.link.up = false → Tbl.get [] u.flt.cross 7 = Tbl.get [] s.flt.cross 7 ++ [b] ∧ b ∈ u.flt.causes ∧
      (kindSev b.kind < 2 → u.link = s.link ∧ u.lanes = s.lanes ∧ u.flt.safe = s.flt.safe)) ∧
    (2 ≤ kindSev b.kind → u.flt.safe = true ∧ u.flt.pulse = true) ∧
    (clk = .lclk → s.link.up = true → u.link.st = 4 ∧ u.link.loss = 1) ∧
    (clk = .aclk → u.pwr.clkFault = true ∧ (loss = true ∨ 0 < s.pwr.target → u.pwr.active.getLsbD 5 = true) ∧
      (loss = false → u.pwr.op = 0 ∧ u.pwr.raise = none ∧ u.pwr.slewTo = none ∧ u.pwr.fast = false)) ∧
    (clk = .tclk → u.time = { s.time with tclkOk := false }) ∧ (clk ≠ .tclk → u.time = s.time) ∧ u.plate = s.plate ∧ u.boot = s.boot) ∧
  (∃ u : State, exec (.clockReturn clk) s = .next u ∧ u = { s with flt := u.flt, pwr := u.pwr, time := u.time } ∧
    u.flt.clkFlag = setBit s.flt.clkFlag (clockIdx clk) false ∧
    (∀ a, a ∈ u.flt.causes ↔ a ∈ s.flt.causes ∧ (a.inst ≠ clockIdx clk ∨ kindSev a.kind = 3)) ∧
    (clk = .aclk → u.pwr = { s.pwr with clkFault := false, active := setBit s.pwr.active 5 false }) ∧ (clk ≠ .aclk → u.pwr = s.pwr) ∧
    (clk = .tclk → u.time = { s.time with tclkOk := s.time.run }) ∧ (clk ≠ .tclk → u.time = s.time)) ∧
  (s.flt.safe = false ∨ s.flt.recov ≠ [] → exec .safeExitRequest s = .next s) ∧
  (s.flt.safe = true → s.flt.recov = [] → s.flt.causePresent = true → ∃ u : State, exec .safeExitRequest s = .next u ∧
    u = { s with flt := u.flt } ∧ u.flt.safe = true ∧ u.flt.pulse = true) ∧
  (s.flt.safe = true → s.flt.recov = [] → s.flt.causePresent = false → (∀ q, (s.port q).waitW = []) → s.link.rx = [] →
    ∃ u : State, exec .safeExitRequest s = .next u ∧ u = { s with flt := { s.flt with safe := false }, pins := u.pins, lanes := u.lanes } ∧
      ∀ p, (u.lane p).stops = (s.lane p).stops)

/-- The end of a lane check and of a warm restart (R342-R345): a lane that passed stays in service; a failed one hands its logical lane to the
next free spare, or, with none, the logical lane goes out of service. A restart reloads the image: while no slot gives one that passes it goes
on; else firmware runs again, with every object or, where they were lost, with none. -/
def Obligations.Recoveries : Prop := ∀ (s : State) (lane : Fin 10) (pass : Bool) (r : Restart) (h : HostView) (ready : Bool), s.works →
  ready = ((s.lane lane.val).holding || (decide ((s.lane lane.val).queue = []) && s.laneQuiet lane.val)) →
  (s.ctl.fwReady = true → s.flt.recov.contains (.laneCheck lane.val) = true → ready = true → (s.lane lane.val).report = [] →
    (pass = true → s.threeFaults lane.val = false → 2 ≤ s.sensorsLeft lane.val → ∃ u : State, exec (.laneCheckDone lane pass h) s = .next u ∧
      Recovery.laneCheck lane.val ∉ u.flt.recov ∧ u.flt.failed = s.flt.failed ∧ u.fw.laneMap = s.fw.laneMap ∧ u.plate = s.plate) ∧
    (pass = false ∨ s.threeFaults lane.val = true ∨ s.sensorsLeft lane.val < 2 → ∃ u : State, exec (.laneCheckDone lane pass h) s = .next u ∧
      u.flt.failed = setBit s.flt.failed lane.val true ∧
      (∀ n q rest, s.logicalOf lane.val = some n → s.fw.spares = q :: rest → u.physOf n = some q ∧ u.fw.spares = rest) ∧
      (∀ n, s.logicalOf lane.val = some n → s.fw.spares = [] → u.physOf n = none ∧ Tbl.get false u.fw.outOfService n = true) ∧
      (s.logicalOf lane.val = none → u.fw.spares = s.fw.spares.erase lane.val ∧ u.fw.laneMap = s.fw.laneMap))) ∧
  (s.ctl.fwReady = false ∨ s.flt.recov.contains (.laneCheck lane.val) = false ∨ ready = false ∨ (s.lane lane.val).report ≠ [] →
    exec (.laneCheckDone lane pass h) s = .next s) ∧
  (s.flt.restarting = false → exec (.warmRestartDone r h) s = .next s) ∧
  (s.flt.restarting = true → s.reloadFirmware h = none → exec (.warmRestartDone r h) s = .next s) ∧
  (∀ v, s.flt.restarting = true → s.reloadFirmware h = some v → s.flt.todo = [] → ∃ u : State, exec (.warmRestartDone r h) s = .next u ∧
    u.ctl.fwReady = true ∧ u.flt.restarting = false ∧ u.boot.digest = v.boot.digest ∧ u.boot.fwver = v.boot.fwver ∧
    u.boot.slotRunning = v.boot.slotRunning ∧ (∀ x, x ∈ u.flt.recov → x ∈ s.flt.recov) ∧
    (r = .kept → u.fw.tensors = s.fw.tensors ∧ u.fw.programs = s.fw.programs ∧ u.fw.laneMap = s.fw.laneMap ∧ u.hal = s.hal) ∧
    (r = .lost → u.fw.attached = false ∧ u.fw.tensors = [] ∧ u.fw.programs = [] ∧ u.fw.streams = [] ∧ u.fw.laneMap = s.fw.laneMap ∧
      u.hal.words = []) ∧ u.plate = s.plate ∧ u.time = s.time)

/-! ### The power manager -/

/-- Moves between operating points (R296-R301): the slew puts the new point in force, and a lower point's voltage is commanded then; after
the settling time of a raise the voltage is read back, and a good reading slews the PLL, a bad one is taken once more, and then the old voltage is
commanded; each transaction completes, is repeated once, or fails the interval; the status word of an alert is reported; every 100 ms the status
and the temperature are read; a failed bus is tried again with one read. -/
def Obligations.PowerMoves : Prop := ∀ (s : State), s.works →
  (s.pwr.slewTo = none → exec .pllSlewDone s = .next s) ∧
  (∀ p, s.pwr.slewTo = some p → ∃ w : Pwr, exec .pllSlewDone s = .next { s with pwr := w } ∧ w.op = p ∧ w.windowOp = p ∧ w.slewTo = none ∧
    w.fast = false ∧ (s.pwr.op ≤ p → w.raise = none) ∧ (p < s.pwr.op → w.raise = s.pwr.raise) ∧
    (s.pwr.op ≤ p → (∀ v, s.pwr.vset = some v → v = s.pwr.plannedWord p) → w.tx = s.pwr.tx) ∧
    ((p < s.pwr.op ∨ ∃ v, s.pwr.vset = some v ∧ v ≠ s.pwr.plannedWord p) → s.pwr.busOk = true → s.pins.vrAlertN = true →
      w.tx = s.pwr.tx ++ [⟨0x21, s.pwr.plannedWord p, false⟩])) ∧
  (∀ r, s.pwr.raise = some r → r.acked = true → r.slewing = false → s.pwr.busOk = true →
    (s.pwr.tx.any fun t => decide (t.code = 0x8B) && decide (t.data = 1)) = false →
    exec .voutSettleExpiry s = .next { s with pwr := { s.pwr with tx := s.pwr.tx ++ [⟨0x8B, 1, false⟩] } }) ∧
  (s.pwr.raise = none → exec .voutSettleExpiry s = .next s) ∧
  (∀ (v : BitVec 16), s.pwr.tx = [] → exec (.pmbusTransactionDone (some v)) s = .next s) ∧
  (∀ x rest, s.pwr.tx = x :: rest →
    (x.again = false → exec (.pmbusTransactionDone none) s = .next { s with pwr := { s.pwr with tx := { x with again := true } :: rest } }) ∧
    (x.again = true → (x.code = 0x8C ∨ x.code = 0x8D ∨ x.code = 0x03 ∨ s.pwr.raise = none ∧ x.code ≠ 0x79) →
      exec (.pmbusTransactionDone none) s = .next { s with pwr := { s.pwr with tx := rest, txFailed := some x.code } }) ∧
    (∀ r, x.again = true → x.code = 0x21 → s.pwr.raise = some r → r.acked = false → x.data = s.pwr.plannedWord r.top →
      exec (.pmbusTransactionDone none) s = .next { s with pwr := { s.pwr with tx := rest, txFailed := some 0x21, raise := none } }) ∧
    (∀ v : BitVec 16, x.code = 0x21 → s.pwr.raise = none →
      exec (.pmbusTransactionDone (some v)) s = .next { s with pwr := { s.pwr with tx := rest, vset := some x.data } }) ∧
    (∀ (v : BitVec 16) (r : Raise), x.code = 0x21 → s.pwr.raise = some r → x.data = s.pwr.plannedWord r.top →
      exec (.pmbusTransactionDone (some v)) s = .next { s with pwr := { s.pwr with tx := rest, vset := some x.data, raise := some { r with acked := true } } }) ∧
    (∀ v : BitVec 16, x.code = 0x8B → x.data = 0 → exec (.pmbusTransactionDone (some v)) s = .next { s with pwr := { s.pwr with
      tx := rest, vout := ratRound (s.pwr.linear16 v.toNat), confirmed := ratRound (s.pwr.linear16 v.toNat) } }) ∧
    (∀ v : BitVec 16, x.code = 0x8B → x.data = 2 → ∃ w : Pwr, exec (.pmbusTransactionDone (some v)) s = .next { s with pwr := w } ∧ w.pmb = 1 ∧
      w.tx = rest ∧ w.failedIntervals = 0) ∧
    (∀ (v : BitVec 16) (r : Raise) (mv : Rat), x.code = 0x8B → x.data = 1 → s.pwr.raise = some r → mv = s.pwr.linear16 v.toNat →
      ((s.pwr.planned r.top : Rat) - 15 ≤ mv → mv ≤ (s.pwr.planned r.top : Rat) + 15 →
        ∃ w : Pwr, exec (.pmbusTransactionDone (some v)) s = .next { s with pwr := w } ∧ w.tx = rest ∧ w.failedRaises = 0 ∧
          (r.top ≠ s.pwr.op → w.slewTo = some r.top ∧ w.raise = some { r with slewing := true }) ∧
          (r.top = s.pwr.op → w.slewTo = s.pwr.slewTo ∧ w.raise = none)) ∧
      (mv < (s.pwr.planned r.top : Rat) - 15 ∨ (s.pwr.planned r.top : Rat) + 15 < mv →
        ∃ u : State, exec (.pmbusTransactionDone (some v)) s = .next u ∧ u = { s with pwr := u.pwr, flt := u.flt } ∧
          (r.second = false → u.pwr.tx = rest ∧ u.pwr.raise = some { r with second := true } ∧ u.flt = s.flt) ∧
          (r.second = true → u.pwr.raise = none ∧ u.pwr.failedRaises = s.pwr.failedRaises + 1) ∧
          (r.second = true → s.pwr.failedRaises < 2 → s.pwr.busOk = true → u.pwr.tx = rest ++ [⟨0x21, r.old, false⟩] ∧ u.flt = s.flt) ∧
          (r.second = true → 2 ≤ s.pwr.failedRaises → u.pwr.tx = [⟨0x21, r.old, false⟩] ∧ u.pwr.pmb = 2 ∧
            Tbl.get [] u.flt.cross 7 = Tbl.get [] s.flt.cross 7 ++ [⟨9, 0, 59, 0x8B⟩]))) ∧
    (∀ v : BitVec 16, x.code = 0x8C → ∃ ma : Nat, ma = ratRound (linear11 v.toNat * 1000) ∧
      exec (.pmbusTransactionDone (some v)) s = .next { s with pwr := { s.pwr with tx := rest, iout := ma, prods := s.pwr.prods ++ [s.pwr.vout * ma] } }) ∧
    (∀ v : BitVec 16, x.code = 0x79 → x.data = 0 → v = 0 → exec (.pmbusTransactionDone (some v)) s = .next { s with pwr := { s.pwr with tx := rest } }) ∧
    (∀ v : BitVec 16, x.code = 0x79 → x.data = 0 → v ≠ 0 →
      exec (.pmbusTransactionDone (some v)) s = .next { s with pwr := { s.pwr with tx := ⟨0x03, 0, false⟩ :: rest } }) ∧
    (∀ v : BitVec 16, x.code = 0x79 → x.data = 1 → ∃ u : State, exec (.pmbusTransactionDone (some v)) s = .next u ∧
      u = { s with pwr := { s.pwr with tx := u.pwr.tx }, flt := u.flt } ∧
      Tbl.get [] u.flt.cross 7 = Tbl.get [] s.flt.cross 7 ++ [⟨9, 1, 60, v.toNat⟩] ∧
      (s.pwr.busOk = true → u.pwr.tx = [⟨0x03, 0, false⟩] ++ rest ++ [⟨0x21, s.pwr.plannedWord 0, false⟩]))) ∧
  (s.manages = true → s.pwr.busOk = true → exec .pmbusStatusPoll s = .next { s with
    pwr := { s.pwr with tx := s.pwr.tx ++ [⟨0x79, 0, false⟩, ⟨0x8D, 0, false⟩] } }) ∧
  (s.manages = true → s.pwr.pmb = 2 → s.pwr.tx = [] → exec .pmbusRetryTimer s = .next { s with pwr := { s.pwr with tx := [⟨0x8B, 2, false⟩] } }) ∧
  (s.manages = false → exec .pmbusStatusPoll s = .next s ∧ exec .pmbusRetryTimer s = .next s)

/-- What the power manager measures (R172, R304, R309, R311-R313, R315, R316, R318, R321): an interval adds its energy to the block's, keeps the last
1,000 intervals, shows its readings in the registers, and moves to OP0 during a thermal emergency; a sample marks the sensors it shows to be
invalid, and a valid one at 115 degrees starts an emergency that ends when all are below 100; a wear measurement records every monitor, and a drift
above 2 % raises the offset or, at 40 mV, withdraws the point and those above; a fit is kept only within 5 % of the measured energy; a window's
level moves one step, and its time counts to `RAMP` while the level is not the one that the work asks for. -/
def Obligations.PowerMeasures : Prop := ∀ (s : State) (temp : Int) (r : List Int) (rs : List Nat) (h : HostView) (lane : Fin 10)
  (work : Fin 9), s.works →
  (s.manages = false ∨ s.pwr.pmb = 0 → exec .controlInterval s = .next s) ∧
  (s.manages = true → s.pwr.pmb ≠ 0 → ∃ (u : State) (em : Rat), exec .controlInterval s = .next u ∧
    em = s.pwr.intervalMj (s.pwr.volts s.pwr.op) ∧ u.pwr.total = s.pwr.total + em ∧ u.pwr.prods = [] ∧ u.pwr.tjMax = none ∧
    u.pwr.hist = (s.pwr.hist ++ [em]).drop (s.pwr.hist.length + 1 - 1000) ∧
    (s.pwr.measured = true → u.pwr.samples ≠ []) ∧ (s.pwr.measured = false → u.pwr.samples = s.pwr.samples) ∧
    u.pwr.shown.vout = s.pwr.vout ∧ u.pwr.shown.iout = s.pwr.iout ∧ u.pwr.shown.ofs = s.pwr.ofs ∧ u.pwr.shown.pmb = u.pwr.pmb ∧
    (s.pwr.emerg = true → s.pwr.raise = none → s.pwr.slewTo = none → 0 < s.pwr.op → u.pwr.slewTo = some 0) ∧
    u.plate = s.plate ∧ u.hal = s.hal ∧ u.lanes = s.lanes ∧ u.time = s.time ∧ u.link = s.link ∧ u.ctl = s.ctl) ∧
  (∃ (u : State) (q : List Int), exec (.sensorSample r h) s = .next u ∧
    q = (match s.pwr.flawSensor with | some i => r.set i (160 * 16) | none => r) ∧ u.pwr.flawSensor = none ∧
    (∀ i, i ∈ s.newInvalid q ∨ (Tbl.find s.pwr.invalid i).isSome → (Tbl.find u.pwr.invalid i).isSome) ∧
    (∀ i, i < 44 → s.sensorPresent i = true → (Tbl.find s.pwr.invalid i).isNone → i ∉ s.newInvalid q →
      (40 ≤ i ∨ s.flt.failed.getLsbD (i / 4) = false) → 115 * 16 ≤ nth 0 q i → u.pwr.emerg = true ∧
      (s.pwr.emerg = false → u.pwr.slewTo = some 0 ∧ u.pwr.raise = none ∧ u.pwr.fast = true)) ∧
    ((∀ i, i < 44 → nth 0 q i < 100 * 16) → u.pwr.emerg = false) ∧ u.plate = s.plate ∧ u.hal = s.hal ∧ u.time = s.time) ∧
  (s.manages = true → s.ctl.fwReady = true → s.pwr.flawWear = none → s.pwr.op < s.pwr.ofs.length → s.pwr.op < s.pwr.retired.length →
    ∃ u : State, exec (.wearMeasurement temp rs h) s = .next u ∧
      (∀ k ∈ s.monitors, Tbl.find u.pwr.wdata k = some (s.pwr.op, nth 0 rs k)) ∧
      ((∀ e, topDrift (s.drifts s.pwr.op temp rs) = some e → e.2 ≤ 2 / 100) → u.pwr.ofs = s.pwr.ofs ∧ u.pwr.retired = s.pwr.retired) ∧
      (∀ e, topDrift (s.drifts s.pwr.op temp rs) = some e → 2 / 100 < e.2 →
        (nth 0 s.pwr.ofs s.pwr.op < 40 → Tbl.get 0 s.pwr.raiseHold s.pwr.op ≤ (if s.pwr.planInForce s.pwr.op then 1 else 0) →
          nth 0 u.pwr.ofs s.pwr.op = min 40 (nth 0 s.pwr.ofs s.pwr.op + 5)) ∧
        (40 ≤ nth 0 s.pwr.ofs s.pwr.op → s.pwr.withdrawn s.pwr.op = false → ∀ p, s.pwr.op ≤ p → p < s.pwr.retired.length → u.pwr.withdrawn p = true)) ∧
      u.plate = s.plate ∧ u.hal = s.hal ∧ u.time = s.time) ∧
  (∃ u : State, exec .energyModelFit s = .next u ∧ u = { s with pwr := { s.pwr with coef := u.pwr.coef, cal := u.pwr.cal }, free := u.free } ∧
    (s.manages = false ∨ s.pwr.busOk = false ∨ s.pwr.samples = [] → u = s) ∧
    (s.manages = true → s.pwr.busOk = true → s.pwr.samples ≠ [] →
      (u.pwr.cal = false → u.pwr.coef = s.pwr.coef) ∧
      (u.pwr.cal = true → ∃ est mea : Rat, est = ratSum (s.pwr.samples.map fun x => x.estimate u.pwr.coef) ∧ mea = ratSum (s.pwr.samples.map (·.mj)) ∧
        est - mea ≤ mea / 20 ∧ mea - est ≤ mea / 20))) ∧
  (∃ (u : State) (top : Nat) (d : Rat), exec (.activityWindow lane work) s = .next u ∧ top = (if s.pwr.emerg then 0 else min work.val s.pwr.duty) ∧
    d = (windowCycles s.pwr.windowOp : Rat) * 1000 / s.pwr.mhz ∧
    u = { s with lanes := u.lanes, pwr := { s.pwr with act := u.pwr.act, scopeDur := u.pwr.scopeDur } } ∧ (∀ p, p ≠ lane.val → u.lane p = s.lane p) ∧
    u.lane lane.val = { s.lane lane.val with level :=
      if (s.lane lane.val).level < top then (s.lane lane.val).level + 1
      else if top < (s.lane lane.val).level then (s.lane lane.val).level - 1 else (s.lane lane.val).level } ∧
    u.pwr.act.rampNs = (if (u.lane lane.val).level = top then s.pwr.act.rampNs else s.pwr.act.rampNs + d))

/-! ### The boot -/

/-- The boot from `START` to `READY` (R285, R354-R357, R359, R362, R364): `START` counts once and begins at step 1; a step that passes gives way
to the next, an essential one that fails stops the boot, a later one tries its next level; the verified image runs; the time unit starts
at 0; at `READY` firmware takes commands. The watchdog restarts the boot, at most three times. -/
def Obligations.BootSequence : Prop := ∀ (s : State) (e : StepEnd) (h : HostView), s.live →
  (s.life.started = true → exec .bootStart s = .next s) ∧
  (s.life.started = false → exec .bootStart s = .next { s with
    life := { s.life with started := true }, pins := { s.pins with quiesced := false }
    boot := { s.boot with step := 1, level := 0, begun := false } }) ∧
  (s.alive = true → s.boot.done = true → exec (.bootStepDone e h) s = .next s ∧ exec .bootWatchdogExpiry s = .next s) ∧
  (s.alive = true → s.boot.done = false →
    ((s.boot.step = 1 ∨ s.boot.step = 2) → e.ok = true → exec (.bootStepDone e h) s = .next { s with
      boot := { s.boot.outcome s.boot.step 1 with step := s.boot.step + 1, level := 0 } }) ∧
    ((s.boot.step = 1 ∨ s.boot.step = 2 ∨ s.boot.step = 3) → e.ok = false → exec (.bootStepDone e h) s = .next { s with
      boot := { s.boot.outcome s.boot.step 3 with stop := true } }) ∧
    (s.boot.step = 4 → e.ok = false → ∃ u : State, exec (.bootStepDone e h) s = .next u ∧ u.boot.bistRows = BitVec.ofNat 16 e.rows ∧
      (s.boot.level = 0 → u.boot.step = 4 ∧ u.boot.level = 1 ∧ u.boot.stop = false) ∧ (s.boot.level ≠ 0 → u.boot.stop = true)) ∧
    (s.boot.step = 7 → ∀ img, s.boot.image = some img → verifyImage s.otp.keyHash img = 0 → ∃ u : State, exec (.bootStepDone e h) s = .next u ∧
      u.boot.step = 8 ∧ u.boot.fwver = BitVec.ofNat 32 (fieldLE img 8 4) ∧ u.boot.slotRunning = decide (s.boot.slot = 1) ∧
      u.boot.digest = some (imageDigest img, imageDigest img) ∧ u.lanes = s.lanes) ∧
    (s.boot.step = 9 → e.ok = false → 1 ≤ s.boot.level → ∃ u : State, exec (.bootStepDone e h) s = .next u ∧ u.boot.step = 10 ∧ u.link.st = 5) ∧
    (s.boot.step = 10 → e.ok = true → ∃ u : State, exec (.bootStepDone e h) s = .next u ∧ u.time.run = true ∧ u.time.tclkOk = true ∧
      u.time.tsLock = true ∧ u.time.ns = 0 ∧ u.time.frac = 0 ∧ u.boot.step = 11) ∧
    (s.boot.step = 10 → e.ok = false → ∃ u : State, exec (.bootStepDone e h) s = .next u ∧ u.boot.stop = true) ∧
    (s.boot.step = 11 → e.ok = true → ∃ u : State, exec (.bootStepDone e h) s = .next u ∧ u.boot.done = true ∧ u.ctl.fwReady = true ∧
      u = { s with boot := u.boot, ctl := { s.ctl with fwReady := true }, fwWrites := u.fwWrites }) ∧
    (3 ≤ s.boot.restarts → exec .bootWatchdogExpiry s = .next { s with boot := { s.boot.outcome s.boot.step 3 with stop := true } }) ∧
    (s.boot.restarts < 3 → ∃ u : State, exec .bootWatchdogExpiry s = .next u ∧ u.boot.step = 1 ∧ u.boot.restarts = s.boot.restarts + 1 ∧
      u.life.started = true ∧ u.fw = Fw.reset s.build.cfg s.otp.laneDisable ∧ u.lanes = [] ∧ u.ports = [] ∧ u.time = Time.reset ∧ u.flt = Flt.reset ∧
      u.pwr.pmbReg = s.pwr.pmbReg ∧ u.boot.journalBase = s.boot.journalBase ∧ u.boot.result = s.boot.result ∧ u.boot.bistFail = s.boot.bistFail ∧
      u.ctl.rplFull = s.ctl.rplFull ∧ u.ctl.cmdOwn = s.ctl.cmdOwn))

/-! ### The engines of a lane -/

/-- The instructions that the fetch engine performs as changes of run state (R82, R83, R85, R93, R94, R99, Table FYUSH-1): the instruction
takes effect in program order, an instruction of both engines goes to the execute engine's queue, and the instructions that follow and are
the execute engine's alone are passed on behind it. A `WAIT` whose Halyard has reached its target goes on and moves the cursor; one
whose Halyard has not changes nothing of its stream. An instruction whose cell of the store fails its check raises kind 27 (R78). -/
def Obligations.FetchInstructions : Prop := ∀ (s : State) (lane : Fin 10) (h : HostView) (i : FInsn), s.works →
  (∀ (c : Nat) (x : Stream) (cmd : Instr), s.fetchStream lane.val = some (c, x) → s.insnAt x x.fpc = some i → (s.lane lane.val).fetching = true →
  x.emitting = false →
  (i.fetchRow lane h = some cmd → (i.executes = true → x.xq.length < 64) →
    ∃ (u : State) (y : Stream) (l : List QInsn), exec cmd s = .next u ∧ u = { s with fw := { s.fw with streams := u.fw.streams } } ∧
      u.stream c = some y ∧ y.xq = x.xq ++ (if i.executes then [⟨i, x.fpc, 0⟩] else []) ++ l ∧ (∀ q ∈ l, q.i.fetches = false) ∧
      y.rs = l.foldl (fun r q => r.apply q.i) (x.rs.apply i) ∧ (l = [] → (y.fpc, y.reps) = advance i x.fpc x.reps) ∧
      y.xrs = x.xrs ∧ y.xfers = x.xfers ∧ y.cursors = x.cursors ∧ y.st = x.st ∧ y.stats = x.stats ∧
      ((∀ b, i ≠ .endRun b) → y.fetchEnd = x.fetchEnd ∧ ∀ d, d ≠ c → u.stream d = s.stream d) ∧ (∀ b, i = .endRun b → y.fetchEnd = true) ∧
      (∀ a, i = .pace a → y.pending = if a = x.rs.pace then x.pending else [])) ∧
  (∀ w t, i = .wait w → Tbl.get 0 s.hal.upset w.hal = 0 → t = (s.halMeets w x.cursors).1 →
    ((s.halMeets w x.cursors).2 = true → ∃ (u : State) (y : Stream), exec (.wait lane) s = .next u ∧
      u = { s with fw := { s.fw with streams := u.fw.streams } } ∧ u.stream c = some y ∧ y.xfers = x.xfers ∧
      y.cursors = (if w.rel then setNth x.cursors w.cur (BitVec.ofNat 16 t) else x.cursors) ∧ ∀ d, d ≠ c → u.stream d = s.stream d) ∧
    ((s.halMeets w x.cursors).2 = false → ∃ u : State, exec (.wait lane) s = .next u ∧ u = { s with lanes := u.lanes } ∧
      ∀ q, (u.lane q).queue = (s.lane q).queue ∧ (u.lane q).stops = (s.lane q).stops))) ∧
  (∀ d y, s.fetchStream lane.val = some (d, y) → s.cellBad y y.fpc = true → (s.lane lane.val).fetching = true → y.emitting = false →
    (∀ k, i.fetchRow lane h = some k → exec k s = .next ((s.laneFault lane.val).raise ⟨0, lane.val, 27, formatP d y⟩)) ∧
    exec (.wait lane) s = .next ((s.laneFault lane.val).raise ⟨0, lane.val, 27, formatP d y⟩))

/-- `LOOP` (R83): it sets the level's count and its step along the dimension; with the count that the level had, the steps along the other
dimensions are kept, with another they are 0, and at level T such a `LOOP` also resets the side's transfer index. The side's other levels, its
base, unit and list, and the other side's nest, are unchanged. -/
def Obligations.LoopStep : Prop := ∀ (s : State) (lane : Fin 10) (c : Nat) (x : Stream) (w : Bool) (level dim count : Nat) (step : Int), s.works →
  s.fetchStream lane.val = some (c, x) → s.insnAt x x.fpc = some (.loop w level dim count step) → (s.lane lane.val).fetching = true → x.emitting = false →
  level < 4 → dim < 4 →
  ∃ (u : State) (y : Stream), exec (.loop lane) s = .next u ∧ u.stream c = some y ∧ (y.rs.side w).cnt.at level = count ∧
    ((y.rs.side w).st.at level).at dim = step ∧
    (∀ d, d < 4 → d ≠ dim → ((y.rs.side w).st.at level).at d = if count = (x.rs.side w).cnt.at level then ((x.rs.side w).st.at level).at d else 0) ∧
    (y.rs.side w).tix = (if level = 3 ∧ count ≠ (x.rs.side w).cnt.at 3 then 0 else (x.rs.side w).tix) ∧
    (∀ l, l < 4 → l ≠ level → (y.rs.side w).cnt.at l = (x.rs.side w).cnt.at l ∧ (y.rs.side w).st.at l = (x.rs.side w).st.at l) ∧
    (y.rs.side w).org = (x.rs.side w).org ∧ (y.rs.side w).tile = (x.rs.side w).tile ∧ (y.rs.side w).list = (x.rs.side w).list ∧
    (y.rs.side !w).cnt = (x.rs.side !w).cnt ∧ (y.rs.side !w).st = (x.rs.side !w).st ∧ (y.rs.side !w).tix = (x.rs.side !w).tix ∧ u.plate = s.plate ∧ u.hal = s.hal

/-- The instructions of the execute engine (R95, R97, R98, R102, R104, R107, R171, R227): a change of run state takes effect on the execute
engine's state; a `POST` adds to its Halyard and, with `EV`, puts its line into the event-out crossing; `END` counts the run, parks the
stream or frees its reservation, and ends its descriptor. -/
def Obligations.ExecuteInstructions : Prop := ∀ (s : State) (lane : Fin 10) (h : HostView) (c : Nat) (x : Stream) (q : QInsn) (cmd : Instr), s.works →
  s.execHead lane.val = some (c, x, q) → (s.lane lane.val).holding = false →
  (q.i.execRow lane = some cmd → x.awaitsFit = false → ∃ (u : State) (y : Stream) (l : List QInsn), exec cmd s = .next u ∧
    u = { s with fw := { s.fw with streams := u.fw.streams } } ∧ u.stream c = some y ∧ y.xrs = x.xrs.apply q.i ∧ y.xq = x.xq.drop 1 ++ l ∧
    (∀ e ∈ l, e.i.fetches = false) ∧ y.xfers = x.xfers ∧ y.st = x.st ∧ y.cursors = x.cursors) ∧
  (∀ ev line hal add, q.i = .post ev line hal add → (s.lane lane.val).queue.head? = (s.lane lane.val).execEntry → x.writesOpen = false →
    s.abandoning c x = false → (ev = true → x.idx = 0 → s.hal.evOutQ.length < evOutRoom) →
    ∃ (u : State) (y : Stream) (l : List QInsn), exec (.post lane) s = .next u ∧ u.stream c = some y ∧ y.xq = x.xq.drop 1 ++ l ∧
      u.plate = s.plate ∧ u.pwr = s.pwr ∧ u.time = s.time ∧
      (x.idx ≠ 0 → u.hal = s.hal) ∧
      (x.idx = 0 → u.hal.evOutQ = s.hal.evOutQ ++ (if ev then [BitVec.ofNat 6 line] else []) ∧ (∀ k, k ≠ hal → u.hword k = s.hword k) ∧
        (s.halDead hal = false → Tbl.get 0 s.hal.upset hal ≤ 1 → u.hword hal = (s.hword hal).add add) ∧
        (s.halDead hal = true → u.hword hal = s.hword hal ∧ u.hal.discarded = s.hal.discarded + 1))) ∧
  (∀ park, q.i = .endRun park → x.tl = none → x.xfers = [] → s.othersEnded c x = true →
    ∃ (u : State) (y : Stream), exec (.endRun lane .execute h) s = .next u ∧ u.stream c = some y ∧ y.st = (if park then .parked else .bound) ∧
      y.reserve = (if park then x.reserve else []) ∧ y.xq = [] ∧ y.cursors = x.cursors ∧ y.epoch = x.epoch ∧
      (x.idx = 0 → y.stat 1 = satAdd32 (x.stat 1) 1) ∧ c ∉ u.runlistOf x.lane ∧
      (∀ e ∈ (u.lane lane.val).queue, e.sctx = c → e.ended = true) ∧ u.hal = s.hal ∧ u.plate = s.plate)

/-- Transfers (R89, R93, R100, R107, R110, R122): an `EMIT` whose start source holds begins a transfer with the position, the run state and the
start time as they stand, and passes its `DRAIN` on; a `DRAIN` whose units are all computed and issued leaves the queue, and its transfer
has issued its last write or is complete; the descriptor of a TL-64 stream begins its transfer, and once every write has completed, its
Halyard takes the add and the stream stands at the next descriptor. -/
def Obligations.Transfers : Prop := ∀ (s : State) (lane : Fin 10) (c : Nat) (x : Stream), s.works →
  (∀ y0 start, s.fetchStream lane.val = some (c, x) → s.insnAt x x.fpc = some .emit → (s.lane lane.val).fetching = true → x.emitting = false →
    x.xfers.length < 8 → x.xq.length < 64 → (∀ w, x.rs.pace = .halyard w → Tbl.get 0 s.hal.upset w.hal = 0) →
    s.startSource x = some (y0, start) →
    ∃ (u : State) (y : Stream) (t : Transfer), exec (.emit lane) s = .next u ∧ u.stream c = some y ∧ y.nextXfer = x.nextXfer + 1 ∧ t ∈ y.xfers ∧
      t.id = x.nextXfer ∧ t.start = start ∧ t.rs = x.rs ∧ t.snap = x.snapshot ∧ t.wrIssued = false ∧ (∃ l, y.xq = x.xq ++ [⟨.drain, x.fpc + 1, x.nextXfer⟩] ++ l) ∧
      u.hal = s.hal ∧ u.time = s.time ∧ u.pwr = { s.pwr with act := u.pwr.act }) ∧
  (∀ q t w v z, z = s.ageRequests lane.val → s.execHead lane.val = some (c, x, q) → q.i = .drain → x.xfer q.xfer = some t → (s.lane lane.val).holding = false →
    x.awaitsFit = false → (t.inPlace = true → t.allIn = true) →
    v = (if t.wrNext = 0 then (z.modLane lane.val fun l => { l with xst := if l.xst ≤ 3 then 2 else l.xst }).modXfer c q.xfer fun t =>
        { t with snap := { t.snap with scaleBlock := x.scaleBlock, scaleSlot := x.scaleSlot, scaleRow := x.scaleRow, prodBlock := x.prodBlock } }
      else z.modLane lane.val fun l => { l with xst := if l.xst ≤ 3 then 2 else l.xst }) →
    State.drainUnits lane.val c q.xfer (t.wrUnits + 1) v = (w, true) → (∀ e, w.xferOf c q.xfer = some e → e.2.rs.scale = none) →
    ∃ (u : State) (y : Stream), exec (.drain lane) s = .next u ∧ u.stream c = some y ∧ (∀ t', y.xfer q.xfer = some t' → t'.wrIssued = true) ∧
      u.plate = w.plate ∧ u.hal = w.hal ∧ u.ports = w.ports ∧ u.time = w.time) ∧
  (∀ m ds ws d, s.execStream lane.val = some (c, x) → x.tl = some (m, ds) → ds[x.tlNext]? = some ws → x.st = .active → x.xfers = [] →
    (x.emitting = false → (s.lane lane.val).fetching = true → ∃ (u : State) (y : Stream), exec (.tl64Descriptor lane) s = .next u ∧ u.stream c = some y ∧ y.nextXfer = x.nextXfer + 1 ∧
      y.emitting = true ∧ y.tlNext = x.tlNext ∧ u.hal = s.hal ∧ u.time = s.time) ∧
    (x.emitting = true → d = Tl.of (x.tlDone.getD ws) → (s.lane lane.val).holding = false → (s.lane lane.val).queue.head? = (s.lane lane.val).execEntry → s.abandoning c x = false →
      ∃ (u : State) (y : Stream), exec (.tl64Descriptor lane) s = .next u ∧ u.stream c = some y ∧ y.emitting = false ∧ y.tlNext = x.tlNext + 1 ∧
        (d.add = 0 → u.hal = s.hal) ∧
        (d.add ≠ 0 → s.halDead d.hal = false → Tbl.get 0 s.hal.upset d.hal = 0 → u.hword d.hal = (s.hword d.hal).add d.add) ∧ u.plate = s.plate ∧ u.time = s.time))

/-! ### Lanes and their queues -/

/-- The lanes' queues (R107, R127, R232, R261, R262, R266): the host's pause stops a lane and its release takes the stop away; a lane takes the
first descriptor it has not begun, and refuses one that fails its check; an expired quantum ends the descriptor of a stream that stands between transfers, which goes to the
end of its run list, and marks any other; the stream at the head of the admission queue takes free positions and becomes Active; each
1 ms, the record of an Active stream whose counts have changed is written. -/
def Obligations.LaneQueues : Prop := ∀ (s : State) (n : Fin 8) (lane : Fin 10) (place : List Nat) (h : HostView), s.works →
  (s.nLanes ≤ n.val → exec (.lanePause n) s = .next s ∧ exec (.laneUnpause n) s = .next s) ∧
  (∀ p, n.val < s.nLanes → s.physOf n.val = some p → s.logicalOf p = some n.val →
    (∃ u : State, exec (.lanePause n) s = .next u ∧ u = { s with ctl := { s.ctl with pause := setBit s.ctl.pause n.val true }, lanes := u.lanes } ∧
      (∀ q, q ≠ p → u.lane q = s.lane q) ∧ (u.lane p).queue = (s.lane p).queue ∧ (u.lane p).stops.contains .hostPause = true ∧
      (u.lane p).holding = (s.lane p).holding ∧
      ((s.lane p).stops.contains .hostPause = false → (u.lane p).draining = ((s.lane p).draining || !(s.lane p).holding))) ∧
    (∃ u : State, exec (.laneUnpause n) s = .next u ∧ u = { s with ctl := { s.ctl with pause := setBit s.ctl.pause n.val false }, lanes := u.lanes } ∧
      (∀ q, q ≠ p → u.lane q = s.lane q) ∧ (u.lane p).stops = (s.lane p).stops.filter (fun y => decide (y ≠ .hostPause)) ∧
      ((u.lane p).stops = [] → (u.lane p).holding = false))) ∧
  (∀ e, (s.lane lane.val).nextEntry = some e → (s.lane lane.val).fetching = true → s.fetchEntry lane.val = none →
    (s.lane lane.val).queue.any (fun d => decide (d.sctx = e.sctx) && d.begun && !d.ended) = false →
    (e.sound = false → ∃ u : State, exec (.laneDescriptor lane) s = .next u ∧ u.flt.safe = true ∧ u.flt.pulse = true ∧
      (u.lane lane.val).queue = (s.lane lane.val).queue.erase e ∧ u.plate = s.plate ∧ u.hal = s.hal ∧ u.time = s.time) ∧
    (e.sound = true → ∃ u : State, exec (.laneDescriptor lane) s = .next u ∧ u = { s with lanes := u.lanes, fw := { s.fw with streams := u.fw.streams } } ∧
      (∀ q, q ≠ lane.val → u.lane q = s.lane q) ∧
      u.lane lane.val = { s.lane lane.val with queue := beginFirst (s.lane lane.val).queue, used := true })) ∧
  ((s.lane lane.val).execEntry = none → exec (.quantumExpiry lane) s = .next s) ∧
  (∀ e x, (s.lane lane.val).execEntry = some e → s.stream e.sctx = some x →
    ((s.lane lane.val).stops ≠ [] ∨ x.headXfer ≠ none ∨ x.emitting = true → ∃ u : State, exec (.quantumExpiry lane) s = .next u ∧
      u = { s with lanes := u.lanes } ∧ (∀ q, q ≠ lane.val → u.lane q = s.lane q) ∧ u.lane lane.val = { s.lane lane.val with
        queue := (s.lane lane.val).queue.map fun d => if d.sctx = e.sctx ∧ d.begun ∧ !d.ended then { d with expired := true } else d }) ∧
    ((s.lane lane.val).stops = [] → x.headXfer = none → x.emitting = false → ∃ u : State, exec (.quantumExpiry lane) s = .next u ∧
      (x.runnable = true → ∃ l, u.runlistOf x.lane = l ++ [e.sctx]) ∧ (x.runnable = false → e.sctx ∉ u.runlistOf x.lane) ∧
      (∃ y : Stream, u.stream e.sctx = some y ∧ y = { x with savedPos := x.positionWords, occs := y.occs }) ∧
      (∀ d, d ≠ e.sctx → u.stream d = s.stream d) ∧ u.plate = s.plate ∧ u.hal = s.hal)) ∧
  (∀ c rest x, s.ctl.fwReady = true → s.fw.admitQ = c :: rest → s.stream c = some x →
    (s.reservePlaces place (x.g * x.depth) = none → exec (.streamAdmission place) s = .next s) ∧
    (∀ l, s.reservePlaces place (x.g * x.depth) = some l → ∃ u : State, exec (.streamAdmission place) s = .next u ∧ u.fw.admitQ = rest ∧
      (∀ i, i < x.g → ∀ z, s.stream (c + i) = some z → u.stream (c + i) = some { z with reserve := (l.drop (i * x.depth)).take x.depth, st := .active }) ∧
      (∀ d, (d < c ∨ c + x.g ≤ d) → u.stream d = s.stream d) ∧ u.plate = s.plate ∧ u.hal = s.hal ∧ u.ctl = s.ctl)) ∧
  (s.ctl.fwReady = false ∨ (∀ e ∈ s.fw.streams, e.2.owed = false ∧ e.2.stats = e.2.statsSent) → exec (.streamRecordTimer h) s = .next s) ∧
  (∀ c x, s.ctl.fwReady = true → s.fw.streams = [(c, x)] → x.idx = 0 → x.st = .active → x.owed = false → x.stats ≠ x.statsSent →
    (hostBad s.build.cfg.ports h x.recAddr 192).isSome = false →
    exec (.streamRecordTimer h) s = .next (({ s with fw := { s.fw with streams := [(c, { x with statsSent := x.stats })] } }).fwWrite x.recAddr
      (s.recordBytes c x 2 x.savedPos)))

/-- Stops, reports and timers of the lanes (R97, R118, R119, R127, R133, R138, R139, R238, R239): a lane whose last response is in holds, and shows why in `XST`;
every stream with work in error is Held; a page fault is reported; a transfer past its deadline raises one miss; at the skew bound every
member that has not granted is evicted. -/
def Obligations.LaneStops : Prop := ∀ (s : State) (lane : Fin 10) (h : HostView) (sctx : BitVec 12), s.works →
  ((s.lane lane.val).draining = false → (s.lane lane.val).holding = false ∨ (s.lane lane.val).freshStops = [] → exec (.laneDrainDone lane) s = .next s) ∧
  ((s.lane lane.val).draining = true ∧ s.laneQuiet lane.val = true ∨ (s.lane lane.val).draining = false ∧ (s.lane lane.val).holding = true ∧
      (s.lane lane.val).freshStops ≠ [] → (s.lane lane.val).queue = [] → (∀ c x, s.stream c = some x → ∀ t ∈ x.xfers, t.failed = none) → ∃ u : State, exec (.laneDrainDone lane) s = .next u ∧
    (u.lane lane.val).draining = false ∧ (u.lane lane.val).holding = true ∧ (u.lane lane.val).stops = (s.lane lane.val).stops ∧
    (u.lane lane.val).reported = (s.lane lane.val).stops ∧ (u.lane lane.val).xst = holdXst (s.lane lane.val).stops (s.lane lane.val).xst ∧
    (Stop.error ∈ (s.lane lane.val).freshStops → ∀ c ∈ s.laneStreams lane.val, ∃ y : Stream, u.stream c = some y ∧ y.st = .held ∧ HeldBy.error ∈ y.heldBy) ∧
    u.plate = s.plate ∧ u.hal = s.hal ∧ u.ports = s.ports ∧ u.time = s.time) ∧
  (s.ctl.fwReady = false ∨ (s.lane lane.val).report = [] → exec (.laneReport lane h) s = .next s) ∧
  (∀ f cs resp reason addr rest x, s.ctl.fwReady = true → (s.lane lane.val).report = .held (.page f) cs resp reason addr :: rest →
    s.stream f.sctx = some x → (∀ a b, s.ctl.hand ≠ some (.waiting a b .detach)) → ∃ u : State, exec (.laneReport lane h) s = .next u ∧
      (⟨.page, toWords [whoWord f.sctx x, f.addr % 2 ^ 32, f.addr / 2 ^ 32 % 2 ^ 20 + (if f.write then 2 ^ 24 else 0) + f.reason * 2 ^ 28]⟩ : Async) ∈ u.ctl.async ∧
      u.plate = s.plate ∧ u.hal = s.hal) ∧
  ((s.stream sctx.toNat).isNone → exec (.deadlineMiss sctx) s = .next s ∧ exec (.deadlineReplyTimer sctx) s = .next s) ∧
  (∀ x, s.stream sctx.toNat = some x →
    (x.idx ≠ 0 ∨ x.takeMiss s.now = none → exec (.deadlineMiss sctx) s = .next s) ∧
    (∀ y b, x.idx = 0 → x.takeMiss s.now = some y → b = (⟨0, (s.physOf x.lane).getD 0, 32, formatP sctx.toNat y⟩ : Burgee) → ∃ (u : State) (z : Stream), exec (.deadlineMiss sctx) s = .next u ∧ u.stream sctx.toNat = some z ∧
      z.stat 8 = satAdd32 (x.stat 8) 1 ∧ z.xfers = y.xfers ∧ u.flt = (s.flt.enter b).note b ∧
      (s.ctl.fwReady = true → x.missReplied = none → z.missUnsent = 0 ∧ z.missReplied = some s.now) ∧
      (s.ctl.fwReady = false → z.missUnsent = x.missUnsent + 1 ∧ u.ctl = s.ctl) ∧ u.lanes = s.lanes ∧ u.hal = s.hal ∧ u.time = s.time) ∧
    (s.ctl.fwReady = false ∨ x.replyDue s.now = false → exec (.deadlineReplyTimer sctx) s = .next s) ∧
    (s.ctl.fwReady = true → x.replyDue s.now = true → ∃ u : State, exec (.deadlineReplyTimer sctx) s = .next u ∧
      u.stream sctx.toNat = some { x with missUnsent := 0, missReplied := some s.now } ∧ u.lanes = s.lanes ∧ u.flt = s.flt)) ∧
  (s.execStream lane.val = none → exec (.buntingSkewTimer lane) s = .next s) ∧
  (∀ c x t t0 b g, s.execStream lane.val = some (c, x) → x.headXfer = some t → g = x.handleOf t.rs.wr → t.skewFrom = some t0 →
    Tbl.find s.fw.buntings g = some b → (s.lane lane.val).stops = [] → b.skew ≤ (s.now + 2 ^ 64 - t0) % 2 ^ 64 →
    ∃ (u : State) (b' : Bunting), exec (.buntingSkewTimer lane) s = .next u ∧ Tbl.find u.fw.buntings g = some b' ∧ b'.members.length = b.members.length ∧
      (∀ i m m', b.members[i]? = some m → b'.members[i]? = some m' →
        m'.evicted = (m.evicted || (decide (i ∈ b.partyOf t) && !s.memberGrants m))) ∧ u.plate = s.plate ∧ u.hal = s.hal)

/-! ### Ports, Plates and dictionaries -/

/-- What the memory ports and the Plates answer (R25, R106, R154, R206, R331, R378, R384, R385, Table PORTS-7): a beat for no request raises kind 16; the last
beat of a lane's read brings its cells with their check values; a write response completes each write merged in its request, and one that comes
before the last data beat is a failure; a request without a response takes `FAIL`, its tag held; one of firmware's own is counted at the port
that R30 gives its address (how it is named is the model's choice, log 81); a loaded block stands in the shadow buffer; the scrubber corrects
single errors and poisons others. -/
def Obligations.PortsAndPlates : Prop := ∀ (s : State) (port : Fin 4) (tag : BitVec 12) (idx : Fin 32) (data : BitVec 1024) (chk : BitVec 64) (lane : Fin 10)
  (plate : Fin 64), s.works →
  (port.val < s.build.cfg.ports → Tbl.find (s.port port.val).reads tag.toNat = none → Tbl.find (s.port port.val).lateR tag.toNat = none →
    ∀ code, exec (.readBeat port tag idx code data chk) s = .next (s.raise ⟨3, port.val, 16, 0⟩)) ∧
  (∀ r, port.val < s.build.cfg.ports → Tbl.find (s.port port.val).reads tag.toNat = some r → idx.val = r.got.length →
    s.build.sideband.getLsbD port.val = false → (s.port port.val).flawIn = false →
    (r.got.length + 1 < r.nbeat → exec (.readBeat port tag idx .ok data chk) s = .next (s.modPort port.val fun q => { q with
      reads := Tbl.put tag.toNat { r with got := r.got ++ [beatBytes data] } q.reads })) ∧
    (∀ x0 p c id key n x t, r.got.length + 1 = r.nbeat → r.parts = [x0] → x0.owner = .cell p c id key n → r.resp = .ok → s.link.rx = [] →
      s.xferOf c id = some (x, t) →
      ∃ (u : State) (y : Stream) (t' : Transfer), exec (.readBeat port tag idx .ok data chk) s = .next u ∧
        ((s.port port.val).waitR = [] → Tbl.find (u.port port.val).reads tag.toNat = none) ∧
        u.xferOf c id = some (y, t') ∧ (∀ i, i < n → Tbl.find t'.cells (key + i) =
          some (Cell.of (slice ((slice (r.got ++ [beatBytes data]).flatten 0 (128 * x0.beats)).drop (key % 2 * 64)) (64 * i) 64))) ∧
        u.plate = s.plate ∧ u.hal = s.hal ∧ u.lanes = s.lanes)) ∧
  (∀ w p c id x t, port.val < s.build.cfg.ports → Tbl.find (s.port port.val).writes tag.toNat = some w → (∀ e ∈ w.cells, e.owner = .store p c id) →
    s.link.rx = [] → s.xferOf c id = some (x, t) →
    (w.cells.length < t.outstanding → ∃ (u : State) (y : Stream), exec (.writeResponse port tag .ok false) s = .next u ∧
      ((s.port port.val).waitW = [] → Tbl.find (u.port port.val).writes tag.toNat = none) ∧
      u.xferOf c id = some (y, { t with outstanding := t.outstanding - w.cells.length }) ∧ u.plate = s.plate ∧ u.hal = s.hal ∧ u.lanes = s.lanes) ∧
    (w.cells ≠ [] → ∀ code, ∃ u : State, exec (.writeResponse port tag code true) s = .next u ∧ u.flt.safe = true ∧
      (u.lane p).stops.contains .error = true ∧ u.plate = s.plate ∧ u.hal = s.hal)) ∧
  (port.val < s.build.cfg.ports → Tbl.find (s.port port.val).writes tag.toNat = none → Tbl.find (s.port port.val).lateW tag.toNat = none →
    ∀ code early, exec (.writeResponse port tag code early) s = .next (s.raise ⟨4, port.val, 16, 0⟩)) ∧
  (∀ (own : FwReq), port.val < s.build.cfg.ports → Tbl.find (s.port port.val).writes tag.toNat = none → Tbl.find (s.port port.val).lateW tag.toNat = none →
    s.portFor own.addr.toNat = port.val → own.beats.val ≠ 0 → own.addr.toNat / 128 * 128 % 4096 + 128 * own.beats.val ≤ 4096 →
    exec (.portResponseTimeout port true tag (some own)) s = .next ((s.modPort port.val fun q => { q with
      tmo := if q.tmo = 65535 then q.tmo else q.tmo + 1, lateW := Tbl.put tag.toNat true q.lateW }).raise ⟨4, port.val, 15, formatA own.addr.toNat⟩)) ∧
  (∀ r x0 p c id key n, port.val < s.build.cfg.ports → Tbl.find (s.port port.val).reads tag.toNat = some r → r.parts = [x0] → x0.owner = .cell p c id key n →
    ∃ u : State, exec (.portResponseTimeout port false tag none) s = .next u ∧ Tbl.find (u.port port.val).reads tag.toNat = none ∧
      Tbl.find (u.port port.val).lateR tag.toNat = some ⟨r.nbeat - 1, r.addr, true⟩ ∧ (u.lane p).stops.contains .error = true ∧
      (crossRoom (1 + port.val) 15 (Tbl.get [] s.flt.cross (1 + port.val)).length = true →
        Tbl.get [] u.flt.cross (1 + port.val) = Tbl.get [] s.flt.cross (1 + port.val) ++ [⟨3, port.val, 15, formatA r.addr⟩])) ∧
  ((s.lane lane.val).loading = none → exec (.weightBlockLoaded lane) s = .next s) ∧
  (∀ mid blk slot a n bs t, (s.lane lane.val).loading = some (mid, blk, slot) → s.blockAddr mid blk = some (a, n) →
    readCells (n / 64) a ((s.modLane lane.val fun l => { l with loading := none }).tallyLane lane.val plateClass (n / 64)) = (t, .inl bs) →
    ∃ u : State, exec (.weightBlockLoaded lane) s = .next u ∧ (u.lane lane.val).loading = none ∧
      (u.lane lane.val).shadow = some (slot, ⟨mid, blk, bs⟩) ∧ u.fw = t.fw ∧ u.hal = s.hal) ∧
  ((s.port port.val).expand = [] → exec (.expandBlockDone port) s = .next s) ∧
  (∀ j rest, (s.port port.val).expand = j :: rest → j.body = none → exec (.expandBlockDone port) s = .next s) ∧
  ((s.port port.val).compress = [] → exec (.compressBlock port) s = .next s) ∧
  (s.build.cfg.plates ≤ plate.val → exec (.scrubSlot plate) s = .next s) ∧
  (∀ k a, plate.val < s.build.cfg.plates → k = Tbl.get 0 s.plate.scrub plate.val → a = (k / 4 * s.build.cfg.plates + plate.val) * 128 + k % 4 * 32 →
    ∃ u : State, exec (.scrubSlot plate) s = .next u ∧ u = { s with plate := u.plate, flt := u.flt } ∧ u.plate.bytes = s.plate.bytes ∧
      Tbl.get 0 u.plate.scrub plate.val = (k + 1) % 4096 ∧
      (∀ w, a ≤ w → w < a + 32 → Tbl.get 0 u.plate.upset w = 0 ∧ (2 ≤ Tbl.get 0 s.plate.upset w → Tbl.get false u.plate.poison w = true)) ∧
      ((∀ w, a ≤ w → w < a + 32 → Tbl.get 0 s.plate.upset w = 0) → u.flt = s.flt ∧ u.plate = { s.plate with scrub := u.plate.scrub }))

/-- Blocks in the expander and the compressor (R203, R206-R210, R214): an expanded block whose data passes its check is released to its transfer and
counted; a compressed block leaves for memory with its header, and its transfer owes those writes; in the safe state no write is issued. -/
def Obligations.DictionaryBlocks : Prop := ∀ (s : State) (port : Fin 4), s.works →
  (∀ j rest tn x t b k bd hd e ha, (s.port port.val).expand = j :: rest → j.body = some bd → s.codedOf j.sctx j.xfer j.sel = some tn →
    s.xferOf j.sctx j.xfer = some (x, t) →
    ha = tn.d.headerAddr j.st j.blk → Tbl.find t.lists (Place.host (ha / 64 * 64)).key = some (.data b k) → hd = slice b (ha % 64) 16 →
    expandBody (s.bookBytes tn.d.cbook) (bd.take (fieldLE hd 2 2)) (tn.d.blockSize j.blk) (fieldLE hd 5 1) = some e → crc32c e.out = fieldLE hd 8 4 →
    ∃ (u : State) (y : Stream) (t' : Transfer), exec (.expandBlockDone port) s = .next u ∧ (u.port port.val).expand = rest ∧
      u.xferOf j.sctx j.xfer = some (y, t') ∧ y.stats = (x.countRead (fieldLE hd 5 1) (tn.d.blockSize j.blk) e.escapes).stats ∧
      (∀ i, i < (tn.blockKeys j.st j.blk).length →
        Tbl.find t'.cells (nth 0 (tn.blockKeys j.st j.blk) 0 + i) = some (Cell.of (slice e.out (64 * i) 64))) ∧
      u.plate = s.plate ∧ u.hal = s.hal ∧ u.lanes = s.lanes ∧ u.flt = s.flt) ∧
  (∀ j rest x t k, (s.port port.val).compress = j :: rest → s.xferOf j.sctx j.xfer = some (x, t) → k = codeBlock (s.bookBytes j.book) j.raw →
    (s.flt.safe = true → ∃ (u : State) (y : Stream) (t' : Transfer), exec (.compressBlock port) s = .next u ∧ (u.port port.val).compress = rest ∧
      u.xferOf j.sctx j.xfer = some (y, t') ∧ t'.err ≠ none ∧ t'.outstanding = t.outstanding - 1 ∧ (u.port port.val).writes = (s.port port.val).writes) ∧
    (∀ v, s.flt.safe = false → State.issueAll (.store j.phys j.sctx j.xfer) j.poison (j.cells k) (s.modPort port.val fun q => { q with compress := rest }) = some v →
      ∃ (u : State) (y : Stream) (t' : Transfer), exec (.compressBlock port) s = .next u ∧ (u.port port.val).compress = rest ∧ u.ports = v.ports ∧
        u.xferOf j.sctx j.xfer = some (y, t') ∧ t'.outstanding = t.outstanding + (j.cells k).length - 1 ∧
        y.stats = (x.countWritten k).stats ∧ u.plate = s.plate ∧ u.hal = s.hal ∧ u.lanes = s.lanes))

/-! ### The peer link -/

/-- Frames of a session (R230, R270-R277, R313, R381, Tables LINK-4, LINK-6): a frame of another EtherType is no transport frame; one that finds ingress full, fails
a check, or is not the next in sequence is discarded and counted, whatever the state of the link; the next in sequence is accepted and its beats
count as activity; an `ACK` carries the peer's `RCV` and `CMP`, and one with `NAK` brings the resend; a `WRITE` of one cell that the tag's tensor holds
is issued to its address; the first cell of the rows of `ROWS` is issued, and the first window of the cells that a `READ` asks for is read; an
`HADD` adds to its Halyard; an `RDATA` brings a read's cells; a `STATUS` fails the transfer whose frame it names. -/
def Obligations.TransportFrames : Prop := ∀ (s : State) (f : Frame) (full : Bool) (ty op : Nat) (cmd : Instr) (hd : RxHead), s.works → f.row full ty op = some cmd →
  (etherType (untag f.bytes) ≠ s.link.etype.toNat → exec cmd s = .next s) ∧
  (etherType (untag f.bytes) = s.link.etype.toNat → s.link.up = false → (RxHead.of (untag f.bytes)).type = ty → ty < 7 →
    (full = true ∨ 16384 < s.link.ingressUsed + 9216 → exec cmd s = .next (s.linkBump 6 1)) ∧
    (full = false → s.link.ingressUsed + 9216 ≤ 16384 →
      (f.bad = true → ty = 1 ∨ ty = 3 → exec cmd s = .next ((s.raise ⟨5, 1, 42, formatL (RxHead.of (untag f.bytes)).seq
        ((RxHead.of (untag f.bytes)).word 0)⟩).linkBump 5 1)) ∧
      (f.bad = false → (untag f.bytes).length < 68 ∨ 8260 < (untag f.bytes).length ∨ (RxHead.of (untag f.bytes)).plen ≠ (untag f.bytes).length - 68 →
        exec cmd s = .next (s.linkBump 8 1)))) ∧
  (full = false → s.passes f hd → s.link.up = false → s.link.st ≠ 1 → exec cmd s = .next s) ∧
  (s.link.up = true → full = false → s.passes f hd → hd.type = ty → ty < 7 → s.linkIdle →
    hd.rcv = s.link.peerRcv.toNat → hd.cmp = s.link.peerCmp.toNat →
    (ty = 0 → bitOn hd.flags 0 = false → exec cmd s = .next (s.tallyBlock linkClass f.beats.length)) ∧
    (ty = 0 → bitOn hd.flags 0 = true → exec cmd s = .next (s.resend.tallyBlock linkClass f.beats.length)) ∧
    (ty ≠ 0 → bitOn hd.flags 0 = false → hd.seq ≠ (s.link.rcv + 1).toNat → ∃ u : State, exec cmd s = .next u ∧ u.link.rcv = s.link.rcv ∧
      u.link.cnt = (if s.link.nakFor = some (s.link.rcv + 1).toNat then (s.link.bump 7 1).cnt else ((s.link.bump 7 1).bump 3 1).cnt) ∧
      u.link.ackQ = (if s.link.nakFor = some (s.link.rcv + 1).toNat then s.link.ackQ else s.link.ackQ ++ [true]) ∧
      u.plate = s.plate ∧ u.hal = s.hal ∧ u.ports = s.ports ∧ u.fw = s.fw) ∧
    (ty ≠ 0 → bitOn hd.flags 0 = false → hd.seq = (s.link.rcv + 1).toNat → ∃ u : State, exec cmd s = .next u ∧ u.link.rcv = s.link.rcv + 1 ∧
      u.link.nakFor = none ∧ u.plate = s.plate ∧
      (∀ t a k, ty = 1 → s.tagged hd.tag = some t → t.cellRun (hd.word 0) (bits (hd.word 1) 11 0) 1 = some a → hd.payload.length = 64 →
        s.flt.safe = false → BitVec.ofNat 64 (hd.field 8 8) ≠ 0 → (s.port (s.portFor a)).writeTag = some k →
        ∃ (w : WriteReq) (e : WCell), Tbl.find (u.port (s.portFor a)).writes k = some w ∧ w.cells = [e] ∧ e.addr = a ∧
          e.be = BitVec.ofNat 64 (hd.field 8 8) ∧ e.poison = bitOn hd.flags 1 ∧ e.chk = crc32c hd.payload ∧
          ∀ i, i < 64 → nth 0 e.data i = if e.be.getLsbD i then nth 0 hd.payload i else 0) ∧
      (∀ t a b be l k, ty = 2 → s.tagged hd.tag = some t → hd.rowsWrites t = some ((a, b, be) :: l) → s.flt.safe = false →
        (s.port (s.portFor a)).writeTag = some k →
        ∃ (w : WriteReq) (e : WCell), Tbl.find (u.port (s.portFor a)).writes k = some w ∧ w.cells = [e] ∧ e.addr = a ∧ e.be = be ∧
          e.poison = bitOn hd.flags 1 ∧ ∀ i, i < 64 → nth 0 e.data i = if be.getLsbD i then nth 0 b i else 0) ∧
      (∀ t a m k, ty = 3 → s.tagged hd.tag = some t → t.cellRun (hd.word 0) (bits (hd.word 1) 11 0) (bits (hd.word 1) 22 16 + 1) = some a →
        m = min (bits (hd.word 1) 22 16 + 1) ((4096 - a % 4096) / 64) → (s.port (s.portFor a)).readTag = some k →
        ∃ q : ReadReq, Tbl.find (u.port (s.portFor a)).reads k = some q ∧ q.parts = [⟨.rxRead (s.link.uidOf hd.seq) a 0 m, a, 64 * m⟩] ∧
          q.got = []) ∧
      (∀ n, ty = 5 → n = bits (hd.word 0) 14 0 → s.halExists n = true → s.halDead n = false → Tbl.get 0 s.hal.upset n = 0 →
        u.hword n = (s.hword n).add (bits (hd.word 1) 15 0) ∧ ∀ k, k ≠ n → u.hword k = s.hword k) ∧
      (∀ q x t, ty = 4 → Tbl.find s.link.reads (bits (hd.word 0) 15 0) = some q → bits (hd.word 1) 1 0 = 0 → bitOn hd.flags 1 = false →
        hd.payload.length = 64 * q.keys.length → s.xferOf q.owner.sctx q.owner.xfer = some (x, t) →
        ∃ (y : Stream) (t' : Transfer), u.xferOf q.owner.sctx q.owner.xfer = some (y, t') ∧ ∀ i, i < q.keys.length →
          Tbl.find t'.cells (nth 0 q.keys 0 + i) = some (Cell.of (slice hd.payload (64 * i) 64))) ∧
      (∀ g o x t, ty = 6 → Tbl.find s.link.retry (bits (hd.word 0) 15 0) = some g → g.owners = [o] → s.xferOf o.sctx o.xfer = some (x, t) →
        (u.lane ((s.laneOf o.sctx).getD o.phys)).stops.contains .error = true ∧
        ∃ (y : Stream) (t' : Transfer), u.xferOf o.sctx o.xfer = some (y, t') ∧ t'.outstanding = t.outstanding - o.n ∧
          t'.err = some (t.err.getD (Resp.ofCode (bits (hd.word 1) 1 0)))))) ∧
  (s.link.up = true → full = false → s.passes f hd → hd.type = 0 → ty = 0 → bitOn hd.flags 0 = false →
    (BitVec.ofNat 16 hd.rcv - s.link.peerRcv).toNat ≤ (s.link.seq - 1 - s.link.peerRcv).toNat → (BitVec.ofNat 16 hd.cmp - s.link.peerCmp).toNat ≤
      (BitVec.ofNat 16 hd.rcv - s.link.peerCmp).toNat →
    ∃ u : State, exec cmd s = .next u ∧ u.link.peerRcv = BitVec.ofNat 16 hd.rcv ∧ u.link.peerCmp = BitVec.ofNat 16 hd.cmp ∧ u.link.rcv = s.link.rcv)

/-- The life of a session (R269, R273, R278-R283, Tables LINK-7, LINK-8, LINK-10): training takes the peer's counter and counts the intact probes of its
series; a foreign counter, a `BYE`, a silence, a lost link status or the eighth retry in a row is a loss, which holds the link `LOST`; that of a
`BYE` also counts the adds not covered; the timers place what is due among the frames that wait for the output; a training that has not
finished in time leaves the link `DOWN`, and a drained session closes. -/
def Obligations.LinkSession : Prop := ∀ (s : State) (f : Frame) (hd : RxHead) (h : HostView), s.works →
  (s.passes f hd → hd.type = 7 →
    (bits (hd.word 0) 1 0 = 0 → s.link.st = 1 → hd.field 6 2 ≠ s.link.trains.toNat → ∃ u : State, exec (.trainHelloFrame f false) s = .next u ∧
      u = { s with link := u.link } ∧ u.link.peerCtr = BitVec.ofNat 16 (hd.field 4 2) ∧ u.link.st = 1 ∧ u.link.helloBack = s.link.helloBack) ∧
    (bits (hd.word 0) 1 0 = 0 → s.link.up = true → hd.field 4 2 = s.link.peerCtr.toNat → exec (.trainHelloFrame f false) s = .next s) ∧
    (bits (hd.word 0) 1 0 = 0 → s.link.up = true → hd.field 4 2 ≠ s.link.peerCtr.toNat → ∃ u : State, exec (.trainHelloFrame f false) s = .next u ∧
      u.link.st = 4 ∧ u.link.loss = 4) ∧
    (bits (hd.word 0) 1 0 = 1 → s.link.st = 1 → hd.field 4 2 = s.link.peerCtr.toNat → bitOn (hd.word 0) 8 = s.link.peerReduced →
      s.link.peerIntact < 255 → hd.payload = (List.range 8192).map (fun i => BitVec.ofNat 8 (i % 251)) →
      exec (.probeFrame f false) s = .next { s with link := { s.link with peerIntact := s.link.peerIntact + 1 } }) ∧
    (bits (hd.word 0) 1 0 = 2 → s.link.up = true → ∃ u : State, exec (.byeFrame f false) s = .next u ∧ u.link.st = 4 ∧ u.link.loss = 5 ∧
      u.link.cnt = ((s.link.bump 14 1).bump 10 s.link.unackedAdds).cnt) ∧
    (bits (hd.word 0) 1 0 = 2 → s.link.st = 1 → exec (.byeFrame f false) s = .next s)) ∧
  (s.link.up = true → s.link.sentOpen = false → exec .retryTimerExpiry s = .next s) ∧
  (s.link.up = true → s.link.sentOpen = true →
    (7 ≤ s.link.expiries → ∃ u : State, exec .retryTimerExpiry s = .next u ∧ u.link.st = 4 ∧ u.link.loss = 3) ∧
    (s.link.expiries < 7 → ∃ u : State, exec .retryTimerExpiry s = .next u ∧ u = { s with link := u.link } ∧
      u.link.expiries = s.link.expiries + 1 ∧ u.link.st = s.link.st ∧ u.link.retry = s.link.retry ∧ u.link.seq = s.link.seq ∧
      ∀ n ∈ s.link.unreceived, TxItem.seq n true ∈ u.link.txQ ∨ TxItem.seq n false ∈ u.link.txQ)) ∧
  (s.link.up = true → exec .ackTimer s = .next { s with link := { s.link with ackQ := s.link.ackQ ++ [false] } }) ∧
  (s.link.up = true → s.link.open_ = none → exec .frameCloseTimer s = .next s) ∧
  (∀ o, s.link.up = true → s.link.open_ = some o → s.link.waitQ = [] → s.link.window = true → s.link.flawCell = false →
    ∃ u : State, exec .frameCloseTimer s = .next u ∧ u = { s with link := u.link } ∧ u.link.open_ = none ∧ u.link.waitQ = [] ∧
      u.link.seq = s.link.seq + 1 ∧ u.link.txQ = s.link.txQ ++ [.seq s.link.seq.toNat false] ∧
      ∃ g : TxFrame, Tbl.find u.link.retry s.link.seq.toNat = some g ∧ g.type = 1 ∧ g.tag = o.tag ∧ g.payload = o.cells.flatten ∧ g.poison = o.poison) ∧
  (s.link.st = 1 → exec .trainHelloTimer s = .next { s with link := { s.link with txQ := s.link.txQ ++ [.train 0] } }) ∧
  (s.link.st ≠ 1 → exec .trainHelloTimer s = .next s ∧ exec .linkTrainTimeout s = .next s) ∧
  (s.link.st = 1 → ∃ u : State, exec .linkTrainTimeout s = .next u ∧ u.link.st = 0 ∧ u.link.buf = none ∧ u.plate = s.plate ∧ u.lanes = s.lanes ∧
    (∀ t c, s.ctl.hand = some (.waiting t c .linkUp) → u.ctl.hand ≠ s.ctl.hand)) ∧
  (s.link.up = true → s.pins.plLinkUp = false → ∃ u : State, exec .linkStatusTimer s = .next u ∧ u.link.st = 4 ∧ u.link.loss = 1) ∧
  (s.link.up = false ∨ s.pins.plLinkUp = true → exec .linkStatusTimer s = .next s) ∧
  (∀ t c, s.ctl.hand = some (.waiting t c .linkDown) → ∃ u : State, exec (.linkDownDrained h) s = .next u ∧ u.link.st = 0 ∧ u.link.buf = none ∧
    u.ctl.hand ≠ s.ctl.hand ∧ u.plate = s.plate ∧ u.time = s.time) ∧
  (s.ctl.hand = none → exec (.linkDownDrained h) s = .next s) ∧
  (s.link.up = true → ∃ u : State, exec .linkIdleTimer s = .next u ∧ u.link.st = 4 ∧ u.link.loss = 2) ∧
  (s.link.up = false → exec .retryTimerExpiry s = .next s ∧ exec .ackTimer s = .next s ∧ exec .frameCloseTimer s = .next s ∧
    exec .linkIdleTimer s = .next s)

/-- The pass-through and the egress choice (R268, R269, R288-R290, R392, Table LINK-1): a frame of one side enters the other side's queue with its stamp (that the
stamp is a free value within 2 ns of `NS_CNT`, and that a side takes a frame at a tick, are the model's choices, logs 20 and 22) and leaves it in
order, a PTP event message that the block corrects with its residence added; a transport frame of the MAC side is not passed on, and a
frame of the host side with the transport's EtherType, a failed frame or one that finds no room is discarded and counted; the host side waits
for room. A waiting `ACK` leaves first, and host and transport frames alternate. -/
def Obligations.PassThrough : Prop := ∀ (s : State) (f : Frame) (l : Link) (pf : PassFrame) (rest : List PassFrame), s.works →
  (s.isTransport f.bytes = true → exec (.macPassThrough f) s = .next s) ∧
  (s.isTransport f.bytes = false →
    (f.bad = true → exec (.macPassThrough f) s = .next (s.linkBump 5 1)) ∧
    (f.bad = false → 9216 < f.bytes.length ∨ passRoom s.link.toHost = false → exec (.macPassThrough f) s = .next (s.linkBump 13 1)) ∧
    (f.bad = false → f.bytes.length ≤ 9216 → passRoom s.link.toHost = true → exec (.macPassThrough f) s = .next { s.stamp.2 with
      link := { s.link with toHost := s.link.toHost ++ [⟨f.bytes, s.stamp.1, s.time.tsLock⟩] } })) ∧
  (passRoom s.link.toMac = false → exec (.hostPassThrough f) s = .next s) ∧
  (passRoom s.link.toMac = true →
    (f.bad = true → exec (.hostPassThrough f) s = .next (s.linkBump 5 1)) ∧
    (f.bad = false → 9216 < f.bytes.length → exec (.hostPassThrough f) s = .next (s.linkBump 13 1)) ∧
    (f.bad = false → f.bytes.length ≤ 9216 →
      (s.isTransport f.bytes = true → exec (.hostPassThrough f) s = .next (s.linkBump 8 1)) ∧
      (s.isTransport f.bytes = false → exec (.hostPassThrough f) s = .next { s.stamp.2 with
        link := { s.link with toMac := s.link.toMac ++ [⟨f.bytes, s.stamp.1, s.time.tsLock⟩] } }))) ∧
  (s.link.sending = none → s.link.choose = .none → s.link.toHost = pf :: rest →
    s.outputs = if Config.freeBit (s.free + 1) then ({ s with free := s.free + 2 } : State).hostStep else { s with free := s.free + 2 }) ∧
  (s.link.toHost = pf :: rest → s.hostStep.link.toHost = rest ∧
    (pf.locked = true → s.corrects pf.bytes = true → s.hostStep.link.cnt = (s.link.bump 11 1).cnt ∧
      s.hostStep.hostOut = s.hostOut ++ [addResidence pf.bytes ((s.stamp.1 : Int) - (pf.ti : Int))]) ∧
    (pf.locked = false ∨ s.corrects pf.bytes = false → s.hostStep.hostOut = s.hostOut ++ [pf.bytes] ∧
      s.hostStep.link.cnt = if ptpEvent pf.bytes then (s.link.bump 12 1).cnt else s.link.cnt)) ∧
  (∀ n as, l.ackQ = n :: as → l.choose = .ack n) ∧
  (∀ x xs, l.ackQ = [] → l.toMac = pf :: rest → l.txQ = x :: xs → l.choose = if l.hostTurn then .host pf else .transport x) ∧
  (∀ n as, s.link.sending = none → s.link.ackQ = n :: as → s.beginFrame.link.ackQ = as ∧ s.beginFrame.link.txQ = s.link.txQ ∧
    s.beginFrame.link.toMac = s.link.toMac ∧ s.beginFrame.link.hostTurn = s.link.hostTurn) ∧
  (s.link.ackQ = [] → s.link.toMac = pf :: rest → s.link.txQ = [] ∨ s.link.hostTurn = true →
    s.beginFrame.link.toMac = rest ∧ s.beginFrame.link.txQ = s.link.txQ ∧ s.beginFrame.link.hostTurn = false)

end
end

