-- ==== Sys2Proof/Laws/Gate.lean ====
section
/-! SUPPORT. What the gates of Machine/Ops.lean let through, and which gate each command passes. -/
set_option Elab.async false
namespace Sys2Proof.Machine

theorem gated_live {s : State} (f : State → State) (h : s.live) : gated s f = .next (s.keep (f s)) := by
  simp [gated, h.1, h.2]

theorem gated_asleep {s : State} (f : State → State) (h : s.awake = false) : gated s f = .next s := by
  simp [gated, h]

theorem gated_undefined {s : State} (f : State → State) (h : s.awake = true) (hd : s.defined = false) :
    gated s f = .fault .undefinedState := by
  simp [gated, h, hd]

/-- Everything `gated` can answer. -/
theorem gated_cases {s : State} {f : State → State} {t : State} (h : gated s f = .next t) :
    (s.awake = false ∧ t = s) ∨ (s.live ∧ t = s.keep (f s)) := by
  unfold gated at h
  split at h
  · next ha => simp only [Bool.not_eq_true'] at ha; cases h; exact .inl ⟨ha, rfl⟩
  · next ha =>
    split at h
    · cases h
    · next hd =>
      simp only [Bool.not_eq_true'] at ha hd
      cases h
      exact .inr ⟨⟨by simpa using ha, by simpa using hd⟩, rfl⟩

theorem running_works {s : State} (f : State → State) (h : s.works) : running s f = .next (s.keep (f s)) := by
  simp [running, gated_live _ h.1, h.2]

theorem running_stopped {s : State} (f : State → State) (h : s.live) (ha : s.alive = false) : running s f = .next s := by
  simp [running, gated_live _ h, ha, State.keep]

theorem command_works {s : State} (op : Nat) (mine : Nat → Bool) (body : Body) (h : s.works) :
    command op mine body s = .next (s.keep (serve op mine body s)) := running_works _ h

theorem onPin_live {s : State} (l : Pins → Pins) (f : State → State) (h : s.live) :
    onPin s l f = .next (({ s with pins := l s.pins }).keep (f { s with pins := l s.pins })) := by
  simp [onPin, h.1, h.2]

theorem onPin_asleep {s : State} (l : Pins → Pins) (f : State → State) (h : s.awake = false) :
    onPin s l f = .next { s with pins := l s.pins } := by
  simp [onPin, h]

/-- Everything `onPin` can answer. -/
theorem onPin_cases {s : State} {l : Pins → Pins} {f : State → State} {t : State} (h : onPin s l f = .next t) :
    (s.awake = false ∧ t = { s with pins := l s.pins }) ∨
      (s.live ∧ t = ({ s with pins := l s.pins }).keep (f { s with pins := l s.pins })) := by
  unfold onPin at h
  simp only at h
  split at h
  · next ha => simp only [Bool.not_eq_true'] at ha; cases h; exact .inl ⟨ha, rfl⟩
  · next ha =>
    split at h
    · cases h
    · next hd =>
      simp only [Bool.not_eq_true'] at ha hd
      cases h
      exact .inr ⟨⟨by simpa using ha, by simpa using hd⟩, rfl⟩

/-- A command that neither comes from outside the domain nor moves an input pin passes `gated`. -/
theorem exec_gated (c : Instr) (s : State) (ho : c.outside = false) (hl : c.level = false) :
    ∃ f : State → State, exec c s = gated s f := by
  cases c
  all_goals first
    | exact Bool.noConfusion ho
    | exact Bool.noConfusion hl
    | simp only [exec, command, running,
        execBootStepDone, execBootWatchdogExpiry, execAttach, execFwUpdate, execBuntingDefine, execBuntingReadmit, execBuntingDelete,
        execSelfClear, execCntClear, execFaultPinTimer, execTeconWdog, execTestUnlock, execInjGo, execDetach, execLinkDownDrained,
        execCodebookLoad, execDrain, execXform, execScale, execSwap, execDeadline, execPhase, execPost, execBurgee,
        execClockMonitorFault, execClockReturn, execWarmRestartDone, execBase, execLoop, execTile, execPad, execClamp, execStipple,
        execPace, execRepeat, execWait, execEmit, execTensorCreate, execTensorDestroy, execHalyardAdd, execHalyardSet,
        execEvOutPulse, execStreamRecordTimer, execEndRun, execStreamAdmission, execLaneDescriptor, execQuantumExpiry, execLaneDrainDone,
        execLanePause, execLaneUnpause, execDeadlineMiss, execDeadlineReplyTimer, execBuntingSkewTimer, execActivityWindow,
        execWeightBlockLoaded, execLinkUp, execLinkDown, execRetryTimerExpiry, execAckTimer, execFrameCloseTimer, execTrainHelloTimer,
        execLinkTrainTimeout, execLinkStatusTimer, execLinkIdleTimer, execMacPassThrough, execHostPassThrough, execWriteFrame,
        execRowsFrame, execReadFrame, execRdataFrame, execHaddFrame, execStatusFrame, execAckFrame, execTrainHelloFrame, execProbeFrame,
        execByeFrame, execReplyPlacement, execMbxGo, execMbxRelease, execHello, execPhasePoint, execPowerCap, execEnergyRead,
        execHalyardInit, execTriggerSet, execTriggerCancel, execFaultAck, execModelLoad, execModelSelect, execReadBeat,
        execWriteResponse, execPortResponseTimeout, execExpandBlockDone, execCompressBlock, execScrubSlot, execControlInterval,
        execPllSlewDone, execVoutSettleExpiry, execPmbusTransactionDone, execPmbusStatusPoll, execPmbusRetryTimer, execVrAlertHoldExpiry,
        execEnergyModelFit, execWearMeasurement, execProgramLoad, execRegisterWrite, execBootStart, execDurClear, execSensorSample,
        execLaneReport, execLaneCheckDone, execSafeExitRequest, execStreamBind, execStreamArm, execStreamRearm, execStreamPause,
        execStreamAbandon, execStreamResume, execPageResume, execPageResumeInvalidate, execIncFracWrite, execOfsApply, execNsLoRead,
        execTriggerFiring, execTrigOutPulseEnd, execLkClear, execTl64Descriptor]
      exact ⟨_, rfl⟩

/-- A command of an engine passes `running`. -/
theorem exec_running (c : Instr) (s : State) (h : c.early = false) (he : ∀ k full, c ≠ .evIn k full) :
    ∃ f : State → State, exec c s = running s f := by
  cases c
  case evIn => exact absurd rfl (he _ _)
  all_goals first
    | exact Bool.noConfusion h
    | simp only [exec, command,
        execBootStepDone, execBootWatchdogExpiry, execAttach, execFwUpdate, execBuntingDefine, execBuntingReadmit, execBuntingDelete,
        execSelfClear, execCntClear, execFaultPinTimer, execTeconWdog, execTestUnlock, execInjGo, execDetach, execLinkDownDrained,
        execCodebookLoad, execDrain, execXform, execScale, execSwap, execDeadline, execPhase, execPost, execBurgee,
        execClockMonitorFault, execClockReturn, execWarmRestartDone, execBase, execLoop, execTile, execPad, execClamp, execStipple,
        execPace, execRepeat, execWait, execEmit, execTensorCreate, execTensorDestroy, execEvOutPulse, execStreamRecordTimer, execEndRun,
        execStreamAdmission, execLaneDescriptor, execQuantumExpiry, execLaneDrainDone, execLanePause, execLaneUnpause, execDeadlineMiss,
        execDeadlineReplyTimer, execBuntingSkewTimer, execActivityWindow, execWeightBlockLoaded, execLinkUp, execLinkDown,
        execRetryTimerExpiry, execAckTimer, execFrameCloseTimer, execTrainHelloTimer, execLinkTrainTimeout, execLinkStatusTimer,
        execLinkIdleTimer, execWriteFrame, execRowsFrame, execReadFrame, execRdataFrame, execHaddFrame, execStatusFrame, execAckFrame,
        execTrainHelloFrame, execProbeFrame, execByeFrame, execReplyPlacement, execHello, execPhasePoint, execPowerCap, execEnergyRead,
        execHalyardInit, execTriggerSet, execTriggerCancel, execFaultAck, execModelLoad, execModelSelect, execReadBeat,
        execWriteResponse, execPortResponseTimeout, execExpandBlockDone, execCompressBlock, execScrubSlot, execControlInterval,
        execPllSlewDone, execVoutSettleExpiry, execPmbusTransactionDone, execPmbusStatusPoll, execPmbusRetryTimer, execVrAlertHoldExpiry,
        execEnergyModelFit, execWearMeasurement, execProgramLoad, execSensorSample, execLaneReport, execLaneCheckDone,
        execSafeExitRequest, execStreamBind, execStreamArm, execStreamRearm, execStreamPause, execStreamAbandon, execStreamResume,
        execPageResume, execPageResumeInvalidate, execIncFracWrite, execOfsApply, execNsLoRead, execTriggerFiring, execTrigOutPulseEnd,
        execLkClear, execTl64Descriptor]
      exact ⟨_, rfl⟩

/-- A level change of an input pin passes `onPin`, and moves neither `RST_N`, nor `ISO_EN`, nor the strap, nor an output. -/
theorem exec_onPin (c : Instr) (s : State) (h : c.level = true) :
    ∃ (l : Pins → Pins) (f : State → State), exec c s = onPin s l f ∧
      ∀ p : Pins, (l p).rstN = p.rstN ∧ (l p).isoEn = p.isoEn ∧ (l p).testMode = p.testMode ∧ (l p).quiesced = p.quiesced ∧
        (l p).dack = p.dack ∧ (l p).evOut = p.evOut ∧ (l p).trigOut = p.trigOut := by
  cases c
  all_goals first
    | exact Bool.noConfusion h
    | simp only [exec, execVrAlert, execVrAlertRelease, execDreqAssert, execDreqRelease, execCapInEdge, execPlLinkUpFall, execPlLinkUpRise]
      exact ⟨_, _, rfl, fun _ => ⟨rfl, rfl, rfl, rfl, rfl, rfl, rfl⟩⟩

end Sys2Proof.Machine
end

