-- ==== Sys2Proof/Laws/Table.lean ====
section
/-! SUPPORT. Sparse tables: a read after a write, and that every operation keeps the canonical form. -/
set_option Elab.async false
namespace Sys2Proof

variable {α : Type}

theorem Tbl.drop_cons (k j : Nat) (w : α) (t : Tbl α) :
    Tbl.drop k ((j, w) :: t) = if j = k then Tbl.drop k t else (j, w) :: Tbl.drop k t := by
  simp only [Tbl.drop, List.filter_cons]; split <;> split <;> simp_all

/-! ### Reads after writes -/

@[simp] theorem Tbl.get_put_same (d : α) (k : Nat) (v : α) (t : Tbl α) : Tbl.get d (Tbl.put k v t) k = v := by
  induction t with
  | nil => simp [Tbl.put, Tbl.get]
  | cons e t ih =>
    obtain ⟨j, w⟩ := e
    simp only [Tbl.put]
    split
    · simp [Tbl.get]
    · split
      · simp [Tbl.get]
      · next h => simp [Tbl.get, h, ih]

theorem Tbl.get_put_other (d : α) {k i : Nat} (v : α) (t : Tbl α) (h : i ≠ k) : Tbl.get d (Tbl.put k v t) i = Tbl.get d t i := by
  have h' : k ≠ i := fun e => h e.symm
  induction t with
  | nil => simp [Tbl.put, Tbl.get, h']
  | cons e t ih =>
    obtain ⟨j, w⟩ := e
    simp only [Tbl.put]
    split
    · simp [Tbl.get, h']
    · split
      · next hj => subst hj; simp [Tbl.get, h']
      · simp [Tbl.get, ih]

@[simp] theorem Tbl.get_drop_same (d : α) (k : Nat) (t : Tbl α) : Tbl.get d (Tbl.drop k t) k = d := by
  induction t with
  | nil => rfl
  | cons e t ih =>
    obtain ⟨j, w⟩ := e
    by_cases hj : j = k
    · simp [Tbl.drop_cons, hj, ih]
    · simp [Tbl.drop_cons, hj, Tbl.get, ih]

theorem Tbl.get_drop_other (d : α) {k i : Nat} (t : Tbl α) (h : i ≠ k) : Tbl.get d (Tbl.drop k t) i = Tbl.get d t i := by
  induction t with
  | nil => rfl
  | cons e t ih =>
    obtain ⟨j, w⟩ := e
    by_cases hj : j = k
    · have : j ≠ i := fun e => h (e ▸ hj)
      simp only [Tbl.drop_cons, hj, if_true, ih, Tbl.get]; simp [← hj, this]
    · simp [Tbl.drop_cons, hj, Tbl.get, ih]

@[simp] theorem Tbl.get_set_same [DecidableEq α] (d : α) (k : Nat) (v : α) (t : Tbl α) : Tbl.get d (Tbl.set d t k v) k = v := by
  unfold Tbl.set; split
  · next h => simp [h]
  · simp

theorem Tbl.get_set_other [DecidableEq α] (d : α) {k i : Nat} (v : α) (t : Tbl α) (h : i ≠ k) :
    Tbl.get d (Tbl.set d t k v) i = Tbl.get d t i := by
  unfold Tbl.set; split
  · exact Tbl.get_drop_other d t h
  · exact Tbl.get_put_other d v t h

@[simp] theorem Tbl.find_put_same (k : Nat) (v : α) (t : Tbl α) : Tbl.find (Tbl.put k v t) k = some v := by
  induction t with
  | nil => simp [Tbl.put, Tbl.find]
  | cons e t ih =>
    obtain ⟨j, w⟩ := e
    simp only [Tbl.put]
    split
    · simp [Tbl.find]
    · split
      · simp [Tbl.find]
      · next h => simp [Tbl.find, h, ih]

theorem Tbl.find_put_other {k i : Nat} (v : α) (t : Tbl α) (h : i ≠ k) : Tbl.find (Tbl.put k v t) i = Tbl.find t i := by
  have h' : k ≠ i := fun e => h e.symm
  induction t with
  | nil => simp [Tbl.put, Tbl.find, h']
  | cons e t ih =>
    obtain ⟨j, w⟩ := e
    simp only [Tbl.put]
    split
    · simp [Tbl.find, h']
    · split
      · next hj => subst hj; simp [Tbl.find, h']
      · simp [Tbl.find, ih]

@[simp] theorem Tbl.find_drop_same (k : Nat) (t : Tbl α) : Tbl.find (Tbl.drop k t) k = none := by
  induction t with
  | nil => rfl
  | cons e t ih =>
    obtain ⟨j, w⟩ := e
    by_cases hj : j = k
    · simp [Tbl.drop_cons, hj, ih]
    · simp [Tbl.drop_cons, hj, Tbl.find, ih]

theorem Tbl.find_drop_other {k i : Nat} (t : Tbl α) (h : i ≠ k) : Tbl.find (Tbl.drop k t) i = Tbl.find t i := by
  induction t with
  | nil => rfl
  | cons e t ih =>
    obtain ⟨j, w⟩ := e
    by_cases hj : j = k
    · have : j ≠ i := fun e => h (e ▸ hj)
      simp only [Tbl.drop_cons, hj, if_true, ih, Tbl.find]; simp [← hj, this]
    · simp [Tbl.drop_cons, hj, Tbl.find, ih]

/-! ### The canonical form -/

theorem Tbl.above_mono {lo hi : Nat} (h : hi ≤ lo) : ∀ t : Tbl α, Tbl.above lo t = true → Tbl.above hi t = true
  | [], _ => rfl
  | (j, _) :: _, ht => by
    simp only [Tbl.above, Bool.and_eq_true, decide_eq_true_eq] at ht ⊢
    exact ⟨by omega, ht.2⟩

theorem Tbl.above_put {lo k : Nat} (v : α) (hk : lo < k) : ∀ t : Tbl α, Tbl.above lo t = true → Tbl.above lo (Tbl.put k v t) = true
  | [], _ => by simp [Tbl.put, Tbl.above, hk]
  | (j, w) :: t, ht => by
    simp only [Tbl.above, Bool.and_eq_true, decide_eq_true_eq] at ht
    simp only [Tbl.put]
    split
    · next h => simp [Tbl.above, hk, h, ht.2]
    · split
      · next h => subst h; simp [Tbl.above, hk, ht.2]
      · next h1 h2 =>
        simp only [Tbl.above, Bool.and_eq_true, decide_eq_true_eq]
        exact ⟨ht.1, Tbl.above_put v (by omega) t ht.2⟩

theorem Tbl.above_filter {lo : Nat} (f : Nat × α → Bool) : ∀ t : Tbl α, Tbl.above lo t = true → Tbl.above lo (t.filter f) = true
  | [], _ => rfl
  | (j, w) :: t, ht => by
    simp only [Tbl.above, Bool.and_eq_true, decide_eq_true_eq] at ht
    simp only [List.filter_cons]
    split
    · simp only [Tbl.above, Bool.and_eq_true, decide_eq_true_eq]
      exact ⟨ht.1, Tbl.above_filter f t ht.2⟩
    · exact Tbl.above_filter f t (Tbl.above_mono (by omega) t ht.2)

theorem Tbl.rising_of_above {lo : Nat} : ∀ t : Tbl α, Tbl.above lo t = true → Tbl.rising t = true
  | [], _ => rfl
  | (_, _) :: _, ht => by
    simp only [Tbl.above, Bool.and_eq_true, decide_eq_true_eq] at ht
    exact ht.2

theorem Tbl.rising_put (k : Nat) (v : α) (t : Tbl α) (ht : Tbl.rising t = true) : Tbl.rising (Tbl.put k v t) = true := by
  cases t with
  | nil => rfl
  | cons e t =>
    obtain ⟨j, w⟩ := e
    simp only [Tbl.rising] at ht
    simp only [Tbl.put]
    split
    · next h => simp [Tbl.rising, Tbl.above, h, ht]
    · split
      · next h => subst h; exact ht
      · exact Tbl.above_put v (by omega) t ht

theorem Tbl.rising_drop (k : Nat) (t : Tbl α) (ht : Tbl.rising t = true) : Tbl.rising (Tbl.drop k t) = true := by
  cases t with
  | nil => rfl
  | cons e t =>
    obtain ⟨j, w⟩ := e
    have := Tbl.above_filter (fun e => decide (e.1 ≠ k)) t ht
    rw [Tbl.drop_cons]
    split
    · exact Tbl.rising_of_above _ this
    · exact this

theorem Tbl.tight_put [DecidableEq α] {d : α} (k : Nat) {v : α} (hv : v ≠ d) (t : Tbl α) (ht : Tbl.tight d t = true) :
    Tbl.tight d (Tbl.put k v t) = true := by
  induction t with
  | nil => simp [Tbl.put, Tbl.tight, hv]
  | cons e t ih =>
    obtain ⟨j, w⟩ := e
    simp only [Tbl.tight, List.all_cons, Bool.and_eq_true, decide_eq_true_eq] at ht ih
    simp only [Tbl.put]
    split
    · simp only [Tbl.tight, List.all_cons, Bool.and_eq_true, decide_eq_true_eq]; exact ⟨hv, ht.1, ht.2⟩
    · split
      · simp only [Tbl.tight, List.all_cons, Bool.and_eq_true, decide_eq_true_eq]; exact ⟨hv, ht.2⟩
      · simp only [Tbl.tight, List.all_cons, Bool.and_eq_true, decide_eq_true_eq]
        exact ⟨ht.1, ih ht.2⟩

theorem Tbl.tight_drop [DecidableEq α] {d : α} (k : Nat) (t : Tbl α) (ht : Tbl.tight d t = true) : Tbl.tight d (Tbl.drop k t) = true := by
  simp only [Tbl.tight, List.all_eq_true, Tbl.drop] at ht ⊢
  intro e he
  exact ht e (List.mem_filter.mp he).1

/-- A write keeps the canonical form. -/
theorem Tbl.wf_set [DecidableEq α] {d : α} (k : Nat) (v : α) (t : Tbl α) (ht : Tbl.wf d t = true) : Tbl.wf d (Tbl.set d t k v) = true := by
  simp only [Tbl.wf, Bool.and_eq_true] at ht ⊢
  unfold Tbl.set
  split
  · exact ⟨Tbl.rising_drop k t ht.1, Tbl.tight_drop k t ht.2⟩
  · next h => exact ⟨Tbl.rising_put k v t ht.1, Tbl.tight_put k h t ht.2⟩

theorem Tbl.wf_modify [DecidableEq α] {d : α} (k : Nat) (f : α → α) (t : Tbl α) (ht : Tbl.wf d t = true) :
    Tbl.wf d (Tbl.modify d t k f) = true := Tbl.wf_set k _ t ht

/-! ### Runs -/

theorem Tbl.wf_setRun [DecidableEq α] {d : α} (vs : List α) : ∀ (t : Tbl α) (k : Nat), Tbl.wf d t = true → Tbl.wf d (Tbl.setRun d t k vs) = true := by
  induction vs with
  | nil => intro t k ht; exact ht
  | cons v vs ih => intro t k ht; exact ih _ _ (Tbl.wf_set k v t ht)

/-- A run leaves every key outside it as it was. -/
theorem Tbl.get_setRun_outside [DecidableEq α] {d : α} {i : Nat} (vs : List α) : ∀ (t : Tbl α) (k : Nat), i < k ∨ k + vs.length ≤ i →
    Tbl.get d (Tbl.setRun d t k vs) i = Tbl.get d t i := by
  induction vs with
  | nil => intro t k _; rfl
  | cons v vs ih =>
    intro t k h
    simp only [List.length_cons] at h
    rw [Tbl.setRun, ih _ _ (by omega), Tbl.get_set_other d v t (by omega)]

/-- A run reads back. -/
theorem Tbl.get_setRun_inside [DecidableEq α] {d : α} (vs : List α) : ∀ (t : Tbl α) (k i : Nat) (h : i < vs.length),
    Tbl.get d (Tbl.setRun d t k vs) (k + i) = vs[i] := by
  induction vs with
  | nil => intro t k i h; simp at h
  | cons v vs ih =>
    intro t k i h
    rw [Tbl.setRun]
    cases i with
    | zero => rw [Tbl.get_setRun_outside vs _ _ (by omega)]; simp
    | succ i =>
      have := ih (Tbl.set d t k v) (k + 1) i (by simpa using h)
      rw [show k + (i + 1) = k + 1 + i by omega, this]; simp

/-! ### Folds -/

/-- A fold keeps what each of its steps keeps. -/
theorem foldl_keeps {α β : Type} (P : β → Prop) (f : β → α → β) (hf : ∀ b a, P b → P (f b a)) : ∀ (l : List α) (b : β), P b → P (l.foldl f b)
  | [], _, h => h
  | a :: l, b, h => foldl_keeps P f hf l (f b a) (hf b a h)

end Sys2Proof
end

