-- ==== Sys2Proof/Laws/State.lean ====
section
/-! SUPPORT. What each named update of the state leaves alone, field by field, and reading back what it wrote. -/
set_option Elab.async false
namespace Sys2Proof.Machine

/-! ### `setLane` -/

@[simp] theorem State.setLane_build (s : State) (p : Nat) (l : Lane) : (s.setLane p l).build = s.build := rfl
@[simp] theorem State.setLane_otp (s : State) (p : Nat) (l : Lane) : (s.setLane p l).otp = s.otp := rfl
@[simp] theorem State.setLane_pins (s : State) (p : Nat) (l : Lane) : (s.setLane p l).pins = s.pins := rfl
@[simp] theorem State.setLane_life (s : State) (p : Nat) (l : Lane) : (s.setLane p l).life = s.life := rfl
@[simp] theorem State.setLane_boot (s : State) (p : Nat) (l : Lane) : (s.setLane p l).boot = s.boot := rfl
@[simp] theorem State.setLane_ctl (s : State) (p : Nat) (l : Lane) : (s.setLane p l).ctl = s.ctl := rfl
@[simp] theorem State.setLane_fw (s : State) (p : Nat) (l : Lane) : (s.setLane p l).fw = s.fw := rfl
@[simp] theorem State.setLane_hal (s : State) (p : Nat) (l : Lane) : (s.setLane p l).hal = s.hal := rfl
@[simp] theorem State.setLane_ports (s : State) (p : Nat) (l : Lane) : (s.setLane p l).ports = s.ports := rfl
@[simp] theorem State.setLane_plate (s : State) (p : Nat) (l : Lane) : (s.setLane p l).plate = s.plate := rfl
@[simp] theorem State.setLane_link (s : State) (p : Nat) (l : Lane) : (s.setLane p l).link = s.link := rfl
@[simp] theorem State.setLane_time (s : State) (p : Nat) (l : Lane) : (s.setLane p l).time = s.time := rfl
@[simp] theorem State.setLane_pwr (s : State) (p : Nat) (l : Lane) : (s.setLane p l).pwr = s.pwr := rfl
@[simp] theorem State.setLane_flt (s : State) (p : Nat) (l : Lane) : (s.setLane p l).flt = s.flt := rfl
@[simp] theorem State.setLane_tap (s : State) (p : Nat) (l : Lane) : (s.setLane p l).tap = s.tap := rfl
@[simp] theorem State.setLane_free (s : State) (p : Nat) (l : Lane) : (s.setLane p l).free = s.free := rfl
@[simp] theorem State.setLane_fwWrites (s : State) (p : Nat) (l : Lane) : (s.setLane p l).fwWrites = s.fwWrites := rfl
@[simp] theorem State.setLane_macOut (s : State) (p : Nat) (l : Lane) : (s.setLane p l).macOut = s.macOut := rfl
@[simp] theorem State.setLane_hostOut (s : State) (p : Nat) (l : Lane) : (s.setLane p l).hostOut = s.hostOut := rfl
@[simp] theorem State.setLane_pending (s : State) (p : Nat) (l : Lane) : (s.setLane p l).pending = s.pending := rfl

/-! ### `setPort` -/

@[simp] theorem State.setPort_build (s : State) (p : Nat) (q : Port) : (s.setPort p q).build = s.build := rfl
@[simp] theorem State.setPort_otp (s : State) (p : Nat) (q : Port) : (s.setPort p q).otp = s.otp := rfl
@[simp] theorem State.setPort_pins (s : State) (p : Nat) (q : Port) : (s.setPort p q).pins = s.pins := rfl
@[simp] theorem State.setPort_life (s : State) (p : Nat) (q : Port) : (s.setPort p q).life = s.life := rfl
@[simp] theorem State.setPort_boot (s : State) (p : Nat) (q : Port) : (s.setPort p q).boot = s.boot := rfl
@[simp] theorem State.setPort_ctl (s : State) (p : Nat) (q : Port) : (s.setPort p q).ctl = s.ctl := rfl
@[simp] theorem State.setPort_fw (s : State) (p : Nat) (q : Port) : (s.setPort p q).fw = s.fw := rfl
@[simp] theorem State.setPort_hal (s : State) (p : Nat) (q : Port) : (s.setPort p q).hal = s.hal := rfl
@[simp] theorem State.setPort_lanes (s : State) (p : Nat) (q : Port) : (s.setPort p q).lanes = s.lanes := rfl
@[simp] theorem State.setPort_plate (s : State) (p : Nat) (q : Port) : (s.setPort p q).plate = s.plate := rfl
@[simp] theorem State.setPort_link (s : State) (p : Nat) (q : Port) : (s.setPort p q).link = s.link := rfl
@[simp] theorem State.setPort_time (s : State) (p : Nat) (q : Port) : (s.setPort p q).time = s.time := rfl
@[simp] theorem State.setPort_pwr (s : State) (p : Nat) (q : Port) : (s.setPort p q).pwr = s.pwr := rfl
@[simp] theorem State.setPort_flt (s : State) (p : Nat) (q : Port) : (s.setPort p q).flt = s.flt := rfl
@[simp] theorem State.setPort_tap (s : State) (p : Nat) (q : Port) : (s.setPort p q).tap = s.tap := rfl
@[simp] theorem State.setPort_free (s : State) (p : Nat) (q : Port) : (s.setPort p q).free = s.free := rfl
@[simp] theorem State.setPort_fwWrites (s : State) (p : Nat) (q : Port) : (s.setPort p q).fwWrites = s.fwWrites := rfl
@[simp] theorem State.setPort_macOut (s : State) (p : Nat) (q : Port) : (s.setPort p q).macOut = s.macOut := rfl
@[simp] theorem State.setPort_hostOut (s : State) (p : Nat) (q : Port) : (s.setPort p q).hostOut = s.hostOut := rfl
@[simp] theorem State.setPort_pending (s : State) (p : Nat) (q : Port) : (s.setPort p q).pending = s.pending := rfl

/-! ### `modLane` -/

@[simp] theorem State.modLane_build (s : State) (p : Nat) (f : Lane → Lane) : (s.modLane p f).build = s.build := rfl
@[simp] theorem State.modLane_otp (s : State) (p : Nat) (f : Lane → Lane) : (s.modLane p f).otp = s.otp := rfl
@[simp] theorem State.modLane_pins (s : State) (p : Nat) (f : Lane → Lane) : (s.modLane p f).pins = s.pins := rfl
@[simp] theorem State.modLane_life (s : State) (p : Nat) (f : Lane → Lane) : (s.modLane p f).life = s.life := rfl
@[simp] theorem State.modLane_boot (s : State) (p : Nat) (f : Lane → Lane) : (s.modLane p f).boot = s.boot := rfl
@[simp] theorem State.modLane_ctl (s : State) (p : Nat) (f : Lane → Lane) : (s.modLane p f).ctl = s.ctl := rfl
@[simp] theorem State.modLane_fw (s : State) (p : Nat) (f : Lane → Lane) : (s.modLane p f).fw = s.fw := rfl
@[simp] theorem State.modLane_hal (s : State) (p : Nat) (f : Lane → Lane) : (s.modLane p f).hal = s.hal := rfl
@[simp] theorem State.modLane_ports (s : State) (p : Nat) (f : Lane → Lane) : (s.modLane p f).ports = s.ports := rfl
@[simp] theorem State.modLane_plate (s : State) (p : Nat) (f : Lane → Lane) : (s.modLane p f).plate = s.plate := rfl
@[simp] theorem State.modLane_link (s : State) (p : Nat) (f : Lane → Lane) : (s.modLane p f).link = s.link := rfl
@[simp] theorem State.modLane_time (s : State) (p : Nat) (f : Lane → Lane) : (s.modLane p f).time = s.time := rfl
@[simp] theorem State.modLane_pwr (s : State) (p : Nat) (f : Lane → Lane) : (s.modLane p f).pwr = s.pwr := rfl
@[simp] theorem State.modLane_flt (s : State) (p : Nat) (f : Lane → Lane) : (s.modLane p f).flt = s.flt := rfl
@[simp] theorem State.modLane_tap (s : State) (p : Nat) (f : Lane → Lane) : (s.modLane p f).tap = s.tap := rfl
@[simp] theorem State.modLane_free (s : State) (p : Nat) (f : Lane → Lane) : (s.modLane p f).free = s.free := rfl
@[simp] theorem State.modLane_fwWrites (s : State) (p : Nat) (f : Lane → Lane) : (s.modLane p f).fwWrites = s.fwWrites := rfl
@[simp] theorem State.modLane_macOut (s : State) (p : Nat) (f : Lane → Lane) : (s.modLane p f).macOut = s.macOut := rfl
@[simp] theorem State.modLane_hostOut (s : State) (p : Nat) (f : Lane → Lane) : (s.modLane p f).hostOut = s.hostOut := rfl
@[simp] theorem State.modLane_pending (s : State) (p : Nat) (f : Lane → Lane) : (s.modLane p f).pending = s.pending := rfl

/-! ### `modPort` -/

@[simp] theorem State.modPort_build (s : State) (p : Nat) (f : Port → Port) : (s.modPort p f).build = s.build := rfl
@[simp] theorem State.modPort_otp (s : State) (p : Nat) (f : Port → Port) : (s.modPort p f).otp = s.otp := rfl
@[simp] theorem State.modPort_pins (s : State) (p : Nat) (f : Port → Port) : (s.modPort p f).pins = s.pins := rfl
@[simp] theorem State.modPort_life (s : State) (p : Nat) (f : Port → Port) : (s.modPort p f).life = s.life := rfl
@[simp] theorem State.modPort_boot (s : State) (p : Nat) (f : Port → Port) : (s.modPort p f).boot = s.boot := rfl
@[simp] theorem State.modPort_ctl (s : State) (p : Nat) (f : Port → Port) : (s.modPort p f).ctl = s.ctl := rfl
@[simp] theorem State.modPort_fw (s : State) (p : Nat) (f : Port → Port) : (s.modPort p f).fw = s.fw := rfl
@[simp] theorem State.modPort_hal (s : State) (p : Nat) (f : Port → Port) : (s.modPort p f).hal = s.hal := rfl
@[simp] theorem State.modPort_lanes (s : State) (p : Nat) (f : Port → Port) : (s.modPort p f).lanes = s.lanes := rfl
@[simp] theorem State.modPort_plate (s : State) (p : Nat) (f : Port → Port) : (s.modPort p f).plate = s.plate := rfl
@[simp] theorem State.modPort_link (s : State) (p : Nat) (f : Port → Port) : (s.modPort p f).link = s.link := rfl
@[simp] theorem State.modPort_time (s : State) (p : Nat) (f : Port → Port) : (s.modPort p f).time = s.time := rfl
@[simp] theorem State.modPort_pwr (s : State) (p : Nat) (f : Port → Port) : (s.modPort p f).pwr = s.pwr := rfl
@[simp] theorem State.modPort_flt (s : State) (p : Nat) (f : Port → Port) : (s.modPort p f).flt = s.flt := rfl
@[simp] theorem State.modPort_tap (s : State) (p : Nat) (f : Port → Port) : (s.modPort p f).tap = s.tap := rfl
@[simp] theorem State.modPort_free (s : State) (p : Nat) (f : Port → Port) : (s.modPort p f).free = s.free := rfl
@[simp] theorem State.modPort_fwWrites (s : State) (p : Nat) (f : Port → Port) : (s.modPort p f).fwWrites = s.fwWrites := rfl
@[simp] theorem State.modPort_macOut (s : State) (p : Nat) (f : Port → Port) : (s.modPort p f).macOut = s.macOut := rfl
@[simp] theorem State.modPort_hostOut (s : State) (p : Nat) (f : Port → Port) : (s.modPort p f).hostOut = s.hostOut := rfl
@[simp] theorem State.modPort_pending (s : State) (p : Nat) (f : Port → Port) : (s.modPort p f).pending = s.pending := rfl

/-! ### `setStream` -/

@[simp] theorem State.setStream_build (s : State) (c : Nat) (x : Stream) : (s.setStream c x).build = s.build := rfl
@[simp] theorem State.setStream_otp (s : State) (c : Nat) (x : Stream) : (s.setStream c x).otp = s.otp := rfl
@[simp] theorem State.setStream_pins (s : State) (c : Nat) (x : Stream) : (s.setStream c x).pins = s.pins := rfl
@[simp] theorem State.setStream_life (s : State) (c : Nat) (x : Stream) : (s.setStream c x).life = s.life := rfl
@[simp] theorem State.setStream_boot (s : State) (c : Nat) (x : Stream) : (s.setStream c x).boot = s.boot := rfl
@[simp] theorem State.setStream_ctl (s : State) (c : Nat) (x : Stream) : (s.setStream c x).ctl = s.ctl := rfl
@[simp] theorem State.setStream_hal (s : State) (c : Nat) (x : Stream) : (s.setStream c x).hal = s.hal := rfl
@[simp] theorem State.setStream_lanes (s : State) (c : Nat) (x : Stream) : (s.setStream c x).lanes = s.lanes := rfl
@[simp] theorem State.setStream_ports (s : State) (c : Nat) (x : Stream) : (s.setStream c x).ports = s.ports := rfl
@[simp] theorem State.setStream_plate (s : State) (c : Nat) (x : Stream) : (s.setStream c x).plate = s.plate := rfl
@[simp] theorem State.setStream_link (s : State) (c : Nat) (x : Stream) : (s.setStream c x).link = s.link := rfl
@[simp] theorem State.setStream_time (s : State) (c : Nat) (x : Stream) : (s.setStream c x).time = s.time := rfl
@[simp] theorem State.setStream_pwr (s : State) (c : Nat) (x : Stream) : (s.setStream c x).pwr = s.pwr := rfl
@[simp] theorem State.setStream_flt (s : State) (c : Nat) (x : Stream) : (s.setStream c x).flt = s.flt := rfl
@[simp] theorem State.setStream_tap (s : State) (c : Nat) (x : Stream) : (s.setStream c x).tap = s.tap := rfl
@[simp] theorem State.setStream_free (s : State) (c : Nat) (x : Stream) : (s.setStream c x).free = s.free := rfl
@[simp] theorem State.setStream_fwWrites (s : State) (c : Nat) (x : Stream) : (s.setStream c x).fwWrites = s.fwWrites := rfl
@[simp] theorem State.setStream_macOut (s : State) (c : Nat) (x : Stream) : (s.setStream c x).macOut = s.macOut := rfl
@[simp] theorem State.setStream_hostOut (s : State) (c : Nat) (x : Stream) : (s.setStream c x).hostOut = s.hostOut := rfl
@[simp] theorem State.setStream_pending (s : State) (c : Nat) (x : Stream) : (s.setStream c x).pending = s.pending := rfl

/-! ### `enterSafe` and `raise` -/

/-- `t` differs from `s` at most in what entry to the safe state moves: the collector, pins, link, ports, lanes, firmware's objects and the counter
of free values. -/
def State.SafeShape (s t : State) : Prop :=
  t = { s with flt := t.flt, pins := t.pins, link := t.link, ports := t.ports, lanes := t.lanes, fw := t.fw, free := t.free }

theorem State.SafeShape.refl (s : State) : s.SafeShape s := rfl
theorem State.SafeShape.trans {s t u : State} (h : s.SafeShape t) (k : t.SafeShape u) : s.SafeShape u := by
  unfold State.SafeShape at *; rw [k, h]

theorem State.safeShape_modStream (s : State) (c : Nat) (f : Stream → Stream) : s.SafeShape (s.modStream c f) := by
  unfold State.modStream; cases s.stream c <;> rfl
theorem State.safeShape_spoiled (s : State) (o : Owner) (gone : Bool) : s.SafeShape (s.spoiled o gone) := by
  unfold State.spoiled
  split
  · exact s.safeShape_modStream _ _
  · rfl
theorem State.safeShape_stopLane (s : State) (p : Nat) (x : Stop) : s.SafeShape (s.stopLane p x) := rfl
theorem State.safeShape_cutWrites (s : State) (q : Nat) : s.SafeShape (s.cutWrites q) := by
  unfold State.cutWrites
  have step : ∀ (b : Bool) (l : List Owner) (t : State), s.SafeShape t → s.SafeShape (l.foldl (fun s o => s.spoiled o b) t) := fun b l t h =>
    foldl_keeps (fun u => s.SafeShape u) _ (fun u o hu => hu.trans (u.safeShape_spoiled o b)) l t h
  exact step _ _ _ (step _ _ _ rfl)

/-- What entry to the safe state can change. -/
theorem State.safeShape_enterSafe (s : State) : s.SafeShape s.enterSafe := by
  unfold State.enterSafe
  split
  · rfl
  · refine foldl_keeps (fun u => s.SafeShape u) _ (fun u p hu => hu.trans (u.safeShape_stopLane p .safe)) _ _ ?_
    exact foldl_keeps (fun u => s.SafeShape u) _ (fun u q hu => hu.trans (u.safeShape_cutWrites q)) _ _ rfl

/-- What raising a Burgee can change. -/
theorem State.safeShape_raise (s : State) (b : Burgee) : s.SafeShape (s.raise b) := by
  unfold State.raise
  split
  · exact State.SafeShape.trans (t := { s with flt := (s.flt.enter b).note b }) rfl (State.safeShape_enterSafe _)
  · rfl

/-- A corrected or deferred Burgee moves nothing but the collector. -/
theorem State.raise_low (s : State) (b : Burgee) (h : kindSev b.kind < 2) : s.raise b = { s with flt := (s.flt.enter b).note b } := by
  unfold State.raise; rw [if_neg (by omega)]

@[simp] theorem State.enterSafe_build (s : State) : s.enterSafe.build = s.build := by rw [s.safeShape_enterSafe]
@[simp] theorem State.enterSafe_otp (s : State) : s.enterSafe.otp = s.otp := by rw [s.safeShape_enterSafe]
@[simp] theorem State.enterSafe_life (s : State) : s.enterSafe.life = s.life := by rw [s.safeShape_enterSafe]
@[simp] theorem State.enterSafe_boot (s : State) : s.enterSafe.boot = s.boot := by rw [s.safeShape_enterSafe]
@[simp] theorem State.enterSafe_ctl (s : State) : s.enterSafe.ctl = s.ctl := by rw [s.safeShape_enterSafe]
@[simp] theorem State.enterSafe_hal (s : State) : s.enterSafe.hal = s.hal := by rw [s.safeShape_enterSafe]
@[simp] theorem State.enterSafe_plate (s : State) : s.enterSafe.plate = s.plate := by rw [s.safeShape_enterSafe]
@[simp] theorem State.enterSafe_time (s : State) : s.enterSafe.time = s.time := by rw [s.safeShape_enterSafe]
@[simp] theorem State.enterSafe_pwr (s : State) : s.enterSafe.pwr = s.pwr := by rw [s.safeShape_enterSafe]
@[simp] theorem State.enterSafe_tap (s : State) : s.enterSafe.tap = s.tap := by rw [s.safeShape_enterSafe]
@[simp] theorem State.enterSafe_fwWrites (s : State) : s.enterSafe.fwWrites = s.fwWrites := by rw [s.safeShape_enterSafe]
@[simp] theorem State.enterSafe_macOut (s : State) : s.enterSafe.macOut = s.macOut := by rw [s.safeShape_enterSafe]
@[simp] theorem State.enterSafe_hostOut (s : State) : s.enterSafe.hostOut = s.hostOut := by rw [s.safeShape_enterSafe]
@[simp] theorem State.enterSafe_pending (s : State) : s.enterSafe.pending = s.pending := by rw [s.safeShape_enterSafe]
@[simp] theorem State.raise_build (s : State) (b : Burgee) : (s.raise b).build = s.build := by rw [s.safeShape_raise b]
@[simp] theorem State.raise_otp (s : State) (b : Burgee) : (s.raise b).otp = s.otp := by rw [s.safeShape_raise b]
@[simp] theorem State.raise_life (s : State) (b : Burgee) : (s.raise b).life = s.life := by rw [s.safeShape_raise b]
@[simp] theorem State.raise_boot (s : State) (b : Burgee) : (s.raise b).boot = s.boot := by rw [s.safeShape_raise b]
@[simp] theorem State.raise_ctl (s : State) (b : Burgee) : (s.raise b).ctl = s.ctl := by rw [s.safeShape_raise b]
@[simp] theorem State.raise_hal (s : State) (b : Burgee) : (s.raise b).hal = s.hal := by rw [s.safeShape_raise b]
@[simp] theorem State.raise_plate (s : State) (b : Burgee) : (s.raise b).plate = s.plate := by rw [s.safeShape_raise b]
@[simp] theorem State.raise_time (s : State) (b : Burgee) : (s.raise b).time = s.time := by rw [s.safeShape_raise b]
@[simp] theorem State.raise_pwr (s : State) (b : Burgee) : (s.raise b).pwr = s.pwr := by rw [s.safeShape_raise b]
@[simp] theorem State.raise_tap (s : State) (b : Burgee) : (s.raise b).tap = s.tap := by rw [s.safeShape_raise b]
@[simp] theorem State.raise_fwWrites (s : State) (b : Burgee) : (s.raise b).fwWrites = s.fwWrites := by rw [s.safeShape_raise b]
@[simp] theorem State.raise_macOut (s : State) (b : Burgee) : (s.raise b).macOut = s.macOut := by rw [s.safeShape_raise b]
@[simp] theorem State.raise_hostOut (s : State) (b : Burgee) : (s.raise b).hostOut = s.hostOut := by rw [s.safeShape_raise b]
@[simp] theorem State.raise_pending (s : State) (b : Burgee) : (s.raise b).pending = s.pending := by rw [s.safeShape_raise b]

/-- Changing a stream changes nothing but the streams. -/
theorem State.modStream_frame (s : State) (c : Nat) (f : Stream → Stream) :
    s.modStream c f = { s with fw := { s.fw with streams := (s.modStream c f).fw.streams } } := by
  unfold State.modStream; cases s.stream c <;> rfl

/-! ### Activity -/

@[simp] theorem State.tallyBlock_build (s : State) (k n : Nat) : (s.tallyBlock k n).build = s.build := rfl
@[simp] theorem State.tallyBlock_otp (s : State) (k n : Nat) : (s.tallyBlock k n).otp = s.otp := rfl
@[simp] theorem State.tallyBlock_pins (s : State) (k n : Nat) : (s.tallyBlock k n).pins = s.pins := rfl
@[simp] theorem State.tallyBlock_life (s : State) (k n : Nat) : (s.tallyBlock k n).life = s.life := rfl
@[simp] theorem State.tallyBlock_boot (s : State) (k n : Nat) : (s.tallyBlock k n).boot = s.boot := rfl
@[simp] theorem State.tallyBlock_ctl (s : State) (k n : Nat) : (s.tallyBlock k n).ctl = s.ctl := rfl
@[simp] theorem State.tallyBlock_fw (s : State) (k n : Nat) : (s.tallyBlock k n).fw = s.fw := rfl
@[simp] theorem State.tallyBlock_hal (s : State) (k n : Nat) : (s.tallyBlock k n).hal = s.hal := rfl
@[simp] theorem State.tallyBlock_lanes (s : State) (k n : Nat) : (s.tallyBlock k n).lanes = s.lanes := rfl
@[simp] theorem State.tallyBlock_ports (s : State) (k n : Nat) : (s.tallyBlock k n).ports = s.ports := rfl
@[simp] theorem State.tallyBlock_plate (s : State) (k n : Nat) : (s.tallyBlock k n).plate = s.plate := rfl
@[simp] theorem State.tallyBlock_link (s : State) (k n : Nat) : (s.tallyBlock k n).link = s.link := rfl
@[simp] theorem State.tallyBlock_time (s : State) (k n : Nat) : (s.tallyBlock k n).time = s.time := rfl
@[simp] theorem State.tallyBlock_flt (s : State) (k n : Nat) : (s.tallyBlock k n).flt = s.flt := rfl
@[simp] theorem State.tallyBlock_tap (s : State) (k n : Nat) : (s.tallyBlock k n).tap = s.tap := rfl
@[simp] theorem State.tallyBlock_free (s : State) (k n : Nat) : (s.tallyBlock k n).free = s.free := rfl
@[simp] theorem State.tallyBlock_fwWrites (s : State) (k n : Nat) : (s.tallyBlock k n).fwWrites = s.fwWrites := rfl
@[simp] theorem State.tallyBlock_macOut (s : State) (k n : Nat) : (s.tallyBlock k n).macOut = s.macOut := rfl
@[simp] theorem State.tallyBlock_hostOut (s : State) (k n : Nat) : (s.tallyBlock k n).hostOut = s.hostOut := rfl
@[simp] theorem State.tallyBlock_pending (s : State) (k n : Nat) : (s.tallyBlock k n).pending = s.pending := rfl

/-- Counting to a stream changes the power manager's counts and the stream's open occurrences. -/
theorem State.charge_frame (s : State) (c id k n : Nat) :
    s.charge c id k n = { s with pwr := (s.charge c id k n).pwr, fw := { s.fw with streams := (s.charge c id k n).fw.streams } } := by
  unfold State.charge
  split
  · rfl
  · rw [State.modStream_frame]

/-- Counting changes the power manager's counts and the stream's open occurrences. -/
theorem State.tally_frame (s : State) (c id k n : Nat) :
    s.tally c id k n = { s with pwr := (s.tally c id k n).pwr, fw := { s.fw with streams := (s.tally c id k n).fw.streams } } :=
  (s.tallyBlock k n).charge_frame c id k n

/-- Time that passes moves nothing but the power manager's durations. -/
theorem State.accrue_frame (s : State) (d : Nat) : s.accrue d = { s with pwr := (s.accrue d).pwr } := by
  unfold State.accrue; split <;> rfl

/-! ### `armSkew` -/

@[simp] theorem State.armSkew_build (s : State) : s.armSkew.build = s.build := rfl
@[simp] theorem State.armSkew_otp (s : State) : s.armSkew.otp = s.otp := rfl
@[simp] theorem State.armSkew_pins (s : State) : s.armSkew.pins = s.pins := rfl
@[simp] theorem State.armSkew_life (s : State) : s.armSkew.life = s.life := rfl
@[simp] theorem State.armSkew_boot (s : State) : s.armSkew.boot = s.boot := rfl
@[simp] theorem State.armSkew_ctl (s : State) : s.armSkew.ctl = s.ctl := rfl
@[simp] theorem State.armSkew_hal (s : State) : s.armSkew.hal = s.hal := rfl
@[simp] theorem State.armSkew_lanes (s : State) : s.armSkew.lanes = s.lanes := rfl
@[simp] theorem State.armSkew_ports (s : State) : s.armSkew.ports = s.ports := rfl
@[simp] theorem State.armSkew_plate (s : State) : s.armSkew.plate = s.plate := rfl
@[simp] theorem State.armSkew_link (s : State) : s.armSkew.link = s.link := rfl
@[simp] theorem State.armSkew_time (s : State) : s.armSkew.time = s.time := rfl
@[simp] theorem State.armSkew_pwr (s : State) : s.armSkew.pwr = s.pwr := rfl
@[simp] theorem State.armSkew_flt (s : State) : s.armSkew.flt = s.flt := rfl
@[simp] theorem State.armSkew_tap (s : State) : s.armSkew.tap = s.tap := rfl
@[simp] theorem State.armSkew_free (s : State) : s.armSkew.free = s.free := rfl
@[simp] theorem State.armSkew_fwWrites (s : State) : s.armSkew.fwWrites = s.fwWrites := rfl
@[simp] theorem State.armSkew_macOut (s : State) : s.armSkew.macOut = s.macOut := rfl
@[simp] theorem State.armSkew_hostOut (s : State) : s.armSkew.hostOut = s.hostOut := rfl
@[simp] theorem State.armSkew_pending (s : State) : s.armSkew.pending = s.pending := rfl

/-! ### `linkBump` -/

@[simp] theorem State.linkBump_build (s : State) (k n : Nat) : (s.linkBump k n).build = s.build := rfl
@[simp] theorem State.linkBump_otp (s : State) (k n : Nat) : (s.linkBump k n).otp = s.otp := rfl
@[simp] theorem State.linkBump_pins (s : State) (k n : Nat) : (s.linkBump k n).pins = s.pins := rfl
@[simp] theorem State.linkBump_life (s : State) (k n : Nat) : (s.linkBump k n).life = s.life := rfl
@[simp] theorem State.linkBump_boot (s : State) (k n : Nat) : (s.linkBump k n).boot = s.boot := rfl
@[simp] theorem State.linkBump_ctl (s : State) (k n : Nat) : (s.linkBump k n).ctl = s.ctl := rfl
@[simp] theorem State.linkBump_fw (s : State) (k n : Nat) : (s.linkBump k n).fw = s.fw := rfl
@[simp] theorem State.linkBump_hal (s : State) (k n : Nat) : (s.linkBump k n).hal = s.hal := rfl
@[simp] theorem State.linkBump_lanes (s : State) (k n : Nat) : (s.linkBump k n).lanes = s.lanes := rfl
@[simp] theorem State.linkBump_ports (s : State) (k n : Nat) : (s.linkBump k n).ports = s.ports := rfl
@[simp] theorem State.linkBump_plate (s : State) (k n : Nat) : (s.linkBump k n).plate = s.plate := rfl
@[simp] theorem State.linkBump_time (s : State) (k n : Nat) : (s.linkBump k n).time = s.time := rfl
@[simp] theorem State.linkBump_pwr (s : State) (k n : Nat) : (s.linkBump k n).pwr = s.pwr := rfl
@[simp] theorem State.linkBump_flt (s : State) (k n : Nat) : (s.linkBump k n).flt = s.flt := rfl
@[simp] theorem State.linkBump_tap (s : State) (k n : Nat) : (s.linkBump k n).tap = s.tap := rfl
@[simp] theorem State.linkBump_free (s : State) (k n : Nat) : (s.linkBump k n).free = s.free := rfl
@[simp] theorem State.linkBump_fwWrites (s : State) (k n : Nat) : (s.linkBump k n).fwWrites = s.fwWrites := rfl
@[simp] theorem State.linkBump_macOut (s : State) (k n : Nat) : (s.linkBump k n).macOut = s.macOut := rfl
@[simp] theorem State.linkBump_hostOut (s : State) (k n : Nat) : (s.linkBump k n).hostOut = s.hostOut := rfl
@[simp] theorem State.linkBump_pending (s : State) (k n : Nat) : (s.linkBump k n).pending = s.pending := rfl

/-! ### `taken` -/

@[simp] theorem State.taken_build (s : State) (n : Nat) (rest : List Nat) : (s.taken n rest).build = s.build := rfl
@[simp] theorem State.taken_otp (s : State) (n : Nat) (rest : List Nat) : (s.taken n rest).otp = s.otp := rfl
@[simp] theorem State.taken_pins (s : State) (n : Nat) (rest : List Nat) : (s.taken n rest).pins = s.pins := rfl
@[simp] theorem State.taken_life (s : State) (n : Nat) (rest : List Nat) : (s.taken n rest).life = s.life := rfl
@[simp] theorem State.taken_boot (s : State) (n : Nat) (rest : List Nat) : (s.taken n rest).boot = s.boot := rfl
@[simp] theorem State.taken_fw (s : State) (n : Nat) (rest : List Nat) : (s.taken n rest).fw = s.fw := rfl
@[simp] theorem State.taken_hal (s : State) (n : Nat) (rest : List Nat) : (s.taken n rest).hal = s.hal := rfl
@[simp] theorem State.taken_lanes (s : State) (n : Nat) (rest : List Nat) : (s.taken n rest).lanes = s.lanes := rfl
@[simp] theorem State.taken_ports (s : State) (n : Nat) (rest : List Nat) : (s.taken n rest).ports = s.ports := rfl
@[simp] theorem State.taken_plate (s : State) (n : Nat) (rest : List Nat) : (s.taken n rest).plate = s.plate := rfl
@[simp] theorem State.taken_link (s : State) (n : Nat) (rest : List Nat) : (s.taken n rest).link = s.link := rfl
@[simp] theorem State.taken_time (s : State) (n : Nat) (rest : List Nat) : (s.taken n rest).time = s.time := rfl
@[simp] theorem State.taken_pwr (s : State) (n : Nat) (rest : List Nat) : (s.taken n rest).pwr = s.pwr := rfl
@[simp] theorem State.taken_flt (s : State) (n : Nat) (rest : List Nat) : (s.taken n rest).flt = s.flt := rfl
@[simp] theorem State.taken_tap (s : State) (n : Nat) (rest : List Nat) : (s.taken n rest).tap = s.tap := rfl
@[simp] theorem State.taken_free (s : State) (n : Nat) (rest : List Nat) : (s.taken n rest).free = s.free := rfl
@[simp] theorem State.taken_fwWrites (s : State) (n : Nat) (rest : List Nat) : (s.taken n rest).fwWrites = s.fwWrites := rfl
@[simp] theorem State.taken_macOut (s : State) (n : Nat) (rest : List Nat) : (s.taken n rest).macOut = s.macOut := rfl
@[simp] theorem State.taken_hostOut (s : State) (n : Nat) (rest : List Nat) : (s.taken n rest).hostOut = s.hostOut := rfl
@[simp] theorem State.taken_pending (s : State) (n : Nat) (rest : List Nat) : (s.taken n rest).pending = s.pending := rfl

/-! ### `posted` -/

@[simp] theorem State.posted_build (s : State) (n m status : Nat) (payload : List Nat) : (s.posted n m status payload).build = s.build := rfl
@[simp] theorem State.posted_otp (s : State) (n m status : Nat) (payload : List Nat) : (s.posted n m status payload).otp = s.otp := rfl
@[simp] theorem State.posted_pins (s : State) (n m status : Nat) (payload : List Nat) : (s.posted n m status payload).pins = s.pins := rfl
@[simp] theorem State.posted_life (s : State) (n m status : Nat) (payload : List Nat) : (s.posted n m status payload).life = s.life := rfl
@[simp] theorem State.posted_boot (s : State) (n m status : Nat) (payload : List Nat) : (s.posted n m status payload).boot = s.boot := rfl
@[simp] theorem State.posted_fw (s : State) (n m status : Nat) (payload : List Nat) : (s.posted n m status payload).fw = s.fw := rfl
@[simp] theorem State.posted_hal (s : State) (n m status : Nat) (payload : List Nat) : (s.posted n m status payload).hal = s.hal := rfl
@[simp] theorem State.posted_lanes (s : State) (n m status : Nat) (payload : List Nat) : (s.posted n m status payload).lanes = s.lanes := rfl
@[simp] theorem State.posted_ports (s : State) (n m status : Nat) (payload : List Nat) : (s.posted n m status payload).ports = s.ports := rfl
@[simp] theorem State.posted_plate (s : State) (n m status : Nat) (payload : List Nat) : (s.posted n m status payload).plate = s.plate := rfl
@[simp] theorem State.posted_link (s : State) (n m status : Nat) (payload : List Nat) : (s.posted n m status payload).link = s.link := rfl
@[simp] theorem State.posted_time (s : State) (n m status : Nat) (payload : List Nat) : (s.posted n m status payload).time = s.time := rfl
@[simp] theorem State.posted_pwr (s : State) (n m status : Nat) (payload : List Nat) : (s.posted n m status payload).pwr = s.pwr := rfl
@[simp] theorem State.posted_flt (s : State) (n m status : Nat) (payload : List Nat) : (s.posted n m status payload).flt = s.flt := rfl
@[simp] theorem State.posted_tap (s : State) (n m status : Nat) (payload : List Nat) : (s.posted n m status payload).tap = s.tap := rfl
@[simp] theorem State.posted_free (s : State) (n m status : Nat) (payload : List Nat) : (s.posted n m status payload).free = s.free := rfl
@[simp] theorem State.posted_fwWrites (s : State) (n m status : Nat) (payload : List Nat) : (s.posted n m status payload).fwWrites = s.fwWrites := rfl
@[simp] theorem State.posted_macOut (s : State) (n m status : Nat) (payload : List Nat) : (s.posted n m status payload).macOut = s.macOut := rfl
@[simp] theorem State.posted_hostOut (s : State) (n m status : Nat) (payload : List Nat) : (s.posted n m status payload).hostOut = s.hostOut := rfl
@[simp] theorem State.posted_pending (s : State) (n m status : Nat) (payload : List Nat) : (s.posted n m status payload).pending = s.pending := rfl

/-! ### `answer` -/

@[simp] theorem State.answer_build (s : State) (token code : BitVec 16) (status : Nat) (payload : List Nat) : (s.answer token code status payload).build = s.build := rfl
@[simp] theorem State.answer_otp (s : State) (token code : BitVec 16) (status : Nat) (payload : List Nat) : (s.answer token code status payload).otp = s.otp := rfl
@[simp] theorem State.answer_pins (s : State) (token code : BitVec 16) (status : Nat) (payload : List Nat) : (s.answer token code status payload).pins = s.pins := rfl
@[simp] theorem State.answer_life (s : State) (token code : BitVec 16) (status : Nat) (payload : List Nat) : (s.answer token code status payload).life = s.life := rfl
@[simp] theorem State.answer_boot (s : State) (token code : BitVec 16) (status : Nat) (payload : List Nat) : (s.answer token code status payload).boot = s.boot := rfl
@[simp] theorem State.answer_fw (s : State) (token code : BitVec 16) (status : Nat) (payload : List Nat) : (s.answer token code status payload).fw = s.fw := rfl
@[simp] theorem State.answer_hal (s : State) (token code : BitVec 16) (status : Nat) (payload : List Nat) : (s.answer token code status payload).hal = s.hal := rfl
@[simp] theorem State.answer_lanes (s : State) (token code : BitVec 16) (status : Nat) (payload : List Nat) : (s.answer token code status payload).lanes = s.lanes := rfl
@[simp] theorem State.answer_ports (s : State) (token code : BitVec 16) (status : Nat) (payload : List Nat) : (s.answer token code status payload).ports = s.ports := rfl
@[simp] theorem State.answer_plate (s : State) (token code : BitVec 16) (status : Nat) (payload : List Nat) : (s.answer token code status payload).plate = s.plate := rfl
@[simp] theorem State.answer_link (s : State) (token code : BitVec 16) (status : Nat) (payload : List Nat) : (s.answer token code status payload).link = s.link := rfl
@[simp] theorem State.answer_time (s : State) (token code : BitVec 16) (status : Nat) (payload : List Nat) : (s.answer token code status payload).time = s.time := rfl
@[simp] theorem State.answer_pwr (s : State) (token code : BitVec 16) (status : Nat) (payload : List Nat) : (s.answer token code status payload).pwr = s.pwr := rfl
@[simp] theorem State.answer_flt (s : State) (token code : BitVec 16) (status : Nat) (payload : List Nat) : (s.answer token code status payload).flt = s.flt := rfl
@[simp] theorem State.answer_tap (s : State) (token code : BitVec 16) (status : Nat) (payload : List Nat) : (s.answer token code status payload).tap = s.tap := rfl
@[simp] theorem State.answer_free (s : State) (token code : BitVec 16) (status : Nat) (payload : List Nat) : (s.answer token code status payload).free = s.free := rfl
@[simp] theorem State.answer_fwWrites (s : State) (token code : BitVec 16) (status : Nat) (payload : List Nat) : (s.answer token code status payload).fwWrites = s.fwWrites := rfl
@[simp] theorem State.answer_macOut (s : State) (token code : BitVec 16) (status : Nat) (payload : List Nat) : (s.answer token code status payload).macOut = s.macOut := rfl
@[simp] theorem State.answer_hostOut (s : State) (token code : BitVec 16) (status : Nat) (payload : List Nat) : (s.answer token code status payload).hostOut = s.hostOut := rfl
@[simp] theorem State.answer_pending (s : State) (token code : BitVec 16) (status : Nat) (payload : List Nat) : (s.answer token code status payload).pending = s.pending := rfl

/-! ### `plateFill` -/

@[simp] theorem State.plateFill_build (s : State) (a : Nat) (data : List Byte) : (s.plateFill a data).build = s.build := rfl
@[simp] theorem State.plateFill_otp (s : State) (a : Nat) (data : List Byte) : (s.plateFill a data).otp = s.otp := rfl
@[simp] theorem State.plateFill_pins (s : State) (a : Nat) (data : List Byte) : (s.plateFill a data).pins = s.pins := rfl
@[simp] theorem State.plateFill_life (s : State) (a : Nat) (data : List Byte) : (s.plateFill a data).life = s.life := rfl
@[simp] theorem State.plateFill_boot (s : State) (a : Nat) (data : List Byte) : (s.plateFill a data).boot = s.boot := rfl
@[simp] theorem State.plateFill_ctl (s : State) (a : Nat) (data : List Byte) : (s.plateFill a data).ctl = s.ctl := rfl
@[simp] theorem State.plateFill_fw (s : State) (a : Nat) (data : List Byte) : (s.plateFill a data).fw = s.fw := rfl
@[simp] theorem State.plateFill_hal (s : State) (a : Nat) (data : List Byte) : (s.plateFill a data).hal = s.hal := rfl
@[simp] theorem State.plateFill_lanes (s : State) (a : Nat) (data : List Byte) : (s.plateFill a data).lanes = s.lanes := rfl
@[simp] theorem State.plateFill_ports (s : State) (a : Nat) (data : List Byte) : (s.plateFill a data).ports = s.ports := rfl
@[simp] theorem State.plateFill_link (s : State) (a : Nat) (data : List Byte) : (s.plateFill a data).link = s.link := rfl
@[simp] theorem State.plateFill_time (s : State) (a : Nat) (data : List Byte) : (s.plateFill a data).time = s.time := rfl
@[simp] theorem State.plateFill_pwr (s : State) (a : Nat) (data : List Byte) : (s.plateFill a data).pwr = s.pwr := rfl
@[simp] theorem State.plateFill_flt (s : State) (a : Nat) (data : List Byte) : (s.plateFill a data).flt = s.flt := rfl
@[simp] theorem State.plateFill_tap (s : State) (a : Nat) (data : List Byte) : (s.plateFill a data).tap = s.tap := rfl
@[simp] theorem State.plateFill_free (s : State) (a : Nat) (data : List Byte) : (s.plateFill a data).free = s.free := rfl
@[simp] theorem State.plateFill_fwWrites (s : State) (a : Nat) (data : List Byte) : (s.plateFill a data).fwWrites = s.fwWrites := rfl
@[simp] theorem State.plateFill_macOut (s : State) (a : Nat) (data : List Byte) : (s.plateFill a data).macOut = s.macOut := rfl
@[simp] theorem State.plateFill_hostOut (s : State) (a : Nat) (data : List Byte) : (s.plateFill a data).hostOut = s.hostOut := rfl
@[simp] theorem State.plateFill_pending (s : State) (a : Nat) (data : List Byte) : (s.plateFill a data).pending = s.pending := rfl

/-! ### `keep` -/

/-- What a command that changes nothing leaves. -/
@[simp] theorem State.keep_self (s : State) : s.keep s = s := rfl
@[simp] theorem State.keep_build (s t : State) : (s.keep t).build = s.build := rfl
@[simp] theorem State.keep_otp (s t : State) : (s.keep t).otp = s.otp := rfl
@[simp] theorem State.keep_boot (s t : State) : (s.keep t).boot = t.boot := rfl
@[simp] theorem State.keep_ctl (s t : State) : (s.keep t).ctl = t.ctl := rfl
@[simp] theorem State.keep_fw (s t : State) : (s.keep t).fw = t.fw := rfl
@[simp] theorem State.keep_hal (s t : State) : (s.keep t).hal = t.hal := rfl
@[simp] theorem State.keep_lanes (s t : State) : (s.keep t).lanes = t.lanes := rfl
@[simp] theorem State.keep_ports (s t : State) : (s.keep t).ports = t.ports := rfl
@[simp] theorem State.keep_plate (s t : State) : (s.keep t).plate = t.plate := rfl
@[simp] theorem State.keep_link (s t : State) : (s.keep t).link = t.link := rfl
@[simp] theorem State.keep_time (s t : State) : (s.keep t).time = t.time := rfl
@[simp] theorem State.keep_pwr (s t : State) : (s.keep t).pwr = t.pwr := rfl
@[simp] theorem State.keep_flt (s t : State) : (s.keep t).flt = t.flt := rfl
@[simp] theorem State.keep_tap (s t : State) : (s.keep t).tap = s.tap := rfl
@[simp] theorem State.keep_free (s t : State) : (s.keep t).free = t.free := rfl
@[simp] theorem State.keep_fwWrites (s t : State) : (s.keep t).fwWrites = t.fwWrites := rfl
@[simp] theorem State.keep_macOut (s t : State) : (s.keep t).macOut = t.macOut := rfl
@[simp] theorem State.keep_hostOut (s t : State) : (s.keep t).hostOut = t.hostOut := rfl
@[simp] theorem State.keep_pending (s t : State) : (s.keep t).pending = s.pending := rfl

/-! ### Reading back -/

@[simp] theorem State.lane_setLane_same (s : State) (p : Nat) (l : Lane) : (s.setLane p l).lane p = l := by
  simp [State.lane, State.setLane]
theorem State.lane_setLane_other (s : State) {p q : Nat} (l : Lane) (h : q ≠ p) : (s.setLane p l).lane q = s.lane q := by
  simp [State.lane, State.setLane, Tbl.get_set_other _ _ _ h]
@[simp] theorem State.lane_modLane_same (s : State) (p : Nat) (f : Lane → Lane) : (s.modLane p f).lane p = f (s.lane p) := by
  simp [State.modLane]
theorem State.lane_modLane_other (s : State) {p q : Nat} (f : Lane → Lane) (h : q ≠ p) : (s.modLane p f).lane q = s.lane q :=
  State.lane_setLane_other s _ h
@[simp] theorem State.port_setPort_same (s : State) (p : Nat) (q : Port) : (s.setPort p q).port p = q := by
  simp [State.port, State.setPort]
theorem State.port_setPort_other (s : State) {p q : Nat} (x : Port) (h : q ≠ p) : (s.setPort p x).port q = s.port q := by
  simp [State.port, State.setPort, Tbl.get_set_other _ _ _ h]
@[simp] theorem State.port_modPort_same (s : State) (p : Nat) (f : Port → Port) : (s.modPort p f).port p = f (s.port p) := by
  simp [State.modPort]
theorem State.port_modPort_other (s : State) {p q : Nat} (f : Port → Port) (h : q ≠ p) : (s.modPort p f).port q = s.port q :=
  State.port_setPort_other s _ h
@[simp] theorem State.stream_setStream_same (s : State) (c : Nat) (x : Stream) : (s.setStream c x).stream c = some x := by
  simp [State.stream, State.setStream]
theorem State.stream_setStream_other (s : State) {c d : Nat} (x : Stream) (h : d ≠ c) : (s.setStream c x).stream d = s.stream d := by
  simp [State.stream, State.setStream, Tbl.find_put_other _ _ h]

/-- A changed stream, read back; a context without a stream stays without. -/
theorem State.stream_modStream_same (s : State) (c : Nat) (f : Stream → Stream) : (s.modStream c f).stream c = (s.stream c).map f := by
  unfold State.modStream; cases h : s.stream c <;> simp [h]
theorem State.stream_modStream_other (s : State) {c d : Nat} (f : Stream → Stream) (h : d ≠ c) : (s.modStream c f).stream d = s.stream d := by
  unfold State.modStream; cases s.stream c <;> simp [State.stream_setStream_other _ _ h]
end Sys2Proof.Machine
end

