-- ==== Sys2Proof/Laws/Memory.lean ====
section
/-! SUPPORT. The operations over the Plate pool keep its canonical form; what they write reads back, and other bytes stand. -/
set_option Elab.async false
namespace Sys2Proof.Machine

theorem Memory.wf_iff (p : Plate) :
    Memory.wf p = true ↔ Tbl.wf 0 p.bytes = true ∧ Tbl.wf false p.poison = true ∧ Tbl.wf 0 p.upset = true ∧ Tbl.wf 0 p.scrub = true ∧
      Tbl.rising p.chk = true ∧ Tbl.rising p.writers = true := by
  simp [Memory.wf, and_assoc]

theorem Tbl.wf_drop {α : Type} [DecidableEq α] {d : α} (k : Nat) (t : Tbl α) (h : Tbl.wf d t = true) : Tbl.wf d (Tbl.drop k t) = true := by
  simp only [Tbl.wf, Bool.and_eq_true] at *
  exact ⟨Tbl.rising_drop k t h.1, Tbl.tight_drop k t h.2⟩

/-- The pool after reset is canonical. -/
theorem Memory.wf_reset : Memory.wf State.reset.plate = true := by decide

theorem Memory.wf_poisonCell (p : Plate) (a : Nat) (h : Memory.wf p = true) : Memory.wf (p.poisonCell a) = true := by
  unfold Plate.poisonCell
  refine foldl_keeps (fun p => Memory.wf p = true) _ (fun b i hb => ?_) _ _ h
  rw [Memory.wf_iff] at *
  dsimp only
  exact ⟨hb.1, Tbl.wf_set (d := false) _ _ _ hb.2.1, Tbl.wf_drop (d := 0) _ _ hb.2.2.1, hb.2.2.2⟩

theorem Memory.wf_plateCheck (s : State) (a k l : Nat) (h : Memory.wf s.plate = true) : Memory.wf (s.plateCheck a k l).plate = true := by
  unfold State.plateCheck
  refine foldl_keeps (fun s : State => Memory.wf s.plate = true) _ (fun b i hb => ?_) _ _ h
  dsimp only
  split
  · exact hb
  · rw [State.raise_plate]
    rw [Memory.wf_iff] at *
    exact ⟨hb.1, hb.2.1, Tbl.wf_drop (d := 0) _ _ hb.2.2.1, hb.2.2.2⟩
  · rw [State.raise_plate]
    exact Memory.wf_poisonCell _ _ hb

/-- A read keeps the form: it may correct or poison, and writes no byte. -/
theorem Memory.wf_plateRead (s : State) (a : Nat) (h : Memory.wf s.plate = true) : Memory.wf (s.plateRead a).1.plate = true := by
  have k := Memory.wf_plateCheck s a 17 18 h
  unfold State.plateRead
  generalize s.plateCheck a 17 18 = t at k
  cases hp : t.plate.poisoned a <;> simpa [hp] using k

/-- A check value of a cell keeps the form. -/
theorem Memory.wf_putChk (p : Plate) (a : Nat) (be : BitVec 64) (chk : Nat) (h : Memory.wf p = true) : Memory.wf (p.putChk a be chk) = true := by
  rw [Memory.wf_iff] at *
  exact ⟨h.1, h.2.1, h.2.2.1, h.2.2.2.1, Tbl.rising_put _ _ _ h.2.2.2.2.1, h.2.2.2.2.2⟩

/-- Fresh check values of a run of cells keep the form. -/
theorem Memory.wf_freshChk (p : Plate) (a n : Nat) (h : Memory.wf p = true) : Memory.wf (p.freshChk a n) = true := by
  rw [Memory.wf_iff] at *
  exact ⟨h.1, h.2.1, h.2.2.1, h.2.2.2.1, foldl_keeps (fun t : Tbl Nat => Tbl.rising t = true) _ (fun b i hb => Tbl.rising_put _ _ _ hb) _ _ h.2.2.2.2.1,
    h.2.2.2.2.2⟩

theorem Memory.wf_putBytes (p : Plate) (a : Nat) (data : List Byte) (be : BitVec 64) (h : Memory.wf p = true) :
    Memory.wf (p.putBytes a data be) = true := by
  rw [Memory.wf_iff] at *
  refine ⟨foldl_keeps (fun t : Tbl Byte => Tbl.wf 0 t = true) _ (fun b i hb => ?_) _ _ h.1, h.2⟩
  split
  · exact Tbl.wf_set _ _ _ hb
  · exact hb

theorem Memory.wf_putPoison (p : Plate) (a : Nat) (be : BitVec 64) (x : Bool) (h : Memory.wf p = true) :
    Memory.wf (p.putPoison a be x) = true := by
  unfold Plate.putPoison
  refine foldl_keeps (fun p => Memory.wf p = true) _ (fun b i hb => ?_) _ _ h
  dsimp only
  split
  · exact hb
  · split
    · rw [Memory.wf_iff] at *; dsimp only; exact ⟨hb.1, Tbl.wf_set (d := false) _ _ _ hb.2.1, hb.2.2⟩
    · split
      · rw [Memory.wf_iff] at *; dsimp only; exact ⟨hb.1, Tbl.wf_set (d := false) _ _ _ hb.2.1, Tbl.wf_drop (d := 0) _ _ hb.2.2.1, hb.2.2.2⟩
      · exact hb

/-- A write of a cell keeps the form. -/
theorem Memory.wf_plateWrite (s : State) (a : Nat) (data : List Byte) (be : BitVec 64) (x : Bool) (chk : Nat)
    (h : Memory.wf s.plate = true) : Memory.wf (s.plateWrite a data be x chk).plate = true :=
  Memory.wf_putPoison _ _ _ _ (Memory.wf_putChk _ _ _ _ (Memory.wf_putBytes _ _ _ _ h))

/-- The record of a byte's last writer keeps the form. -/
theorem Memory.wf_markWriter (s : State) (x : Stream) (a : Nat) (be : BitVec 64) (raced : Nat → Bool) (h : Memory.wf s.plate = true) :
    Memory.wf (s.markWriter x a be raced).plate = true := by
  rw [Memory.wf_iff] at *
  exact ⟨h.1, h.2.1, h.2.2.1, h.2.2.2.1, h.2.2.2.2.1,
    foldl_keeps (fun t : Tbl (Tbl Nat) => Tbl.rising t = true) _ (fun b i hb => Tbl.rising_put _ _ _ hb) _ _ h.2.2.2.2.2⟩

/-- A stream's write of a Plate cell keeps the form. -/
theorem Memory.wf_poolStore (s : State) (c a : Nat) (data : List Byte) (be : BitVec 64) (x : Bool) (chk : Nat)
    (h : Memory.wf s.plate = true) : Memory.wf (s.poolStore c a data be x chk).plate = true := by
  unfold State.poolStore
  split
  · exact Memory.wf_plateWrite _ _ _ _ _ _ h
  · dsimp only
    split
    · exact Memory.wf_markWriter _ _ _ _ _ (Memory.wf_plateWrite _ _ _ _ _ _ h)
    · exact Memory.wf_markWriter _ _ _ _ _ (Memory.wf_plateWrite _ _ _ _ _ _ h)

/-- Filling a run of bytes keeps the form. -/
theorem Memory.wf_plateFill (s : State) (a : Nat) (data : List Byte) (h : Memory.wf s.plate = true) :
    Memory.wf (s.plateFill a data).plate = true := by
  unfold State.plateFill
  have k := foldl_keeps (fun p : Plate => Memory.wf p = true) (fun (p : Plate) i =>
      if a % 8 = 0 then { p with poison := Tbl.set false p.poison (wordKey a + i) false, upset := Tbl.drop (wordKey a + i) p.upset } else p)
    (fun b i hb => by
      split
      · rw [Memory.wf_iff] at *; dsimp only; exact ⟨hb.1, Tbl.wf_set (d := false) _ _ _ hb.2.1, Tbl.wf_drop (d := 0) _ _ hb.2.2.1, hb.2.2.2⟩
      · exact hb) (List.range (data.length / 8)) _ h
  refine Memory.wf_freshChk _ _ _ ?_
  rw [Memory.wf_iff] at *
  exact ⟨Tbl.wf_setRun _ _ _ k.1, k.2⟩

/-- Only the words of a cell that a write touches change their bytes: an address outside the enabled bytes reads as before. -/
theorem Plate.putBytes_other (p : Plate) (a : Nat) (data : List Byte) (be : BitVec 64) (x : Nat)
    (h : ∀ i, i < 64 → be.getLsbD i = true → x ≠ a + i) : Tbl.get 0 (p.putBytes a data be).bytes x = Tbl.get 0 p.bytes x := by
  have g : ∀ (l : List Nat) (t : Tbl Byte), (∀ i ∈ l, i < 64) →
      Tbl.get 0 (l.foldl (fun t i => if be.getLsbD i then Tbl.set 0 t (a + i) (nth 0 data i) else t) t) x = Tbl.get 0 t x := by
    intro l
    induction l with
    | nil => intro t _; rfl
    | cons i l ih =>
      intro t hl
      rw [List.foldl_cons, ih _ fun j hj => hl j (List.mem_cons_of_mem _ hj)]
      cases hb : be.getLsbD i
      · simp
      · simp only [if_true]
        exact Tbl.get_set_other _ _ _ (h i (hl i List.mem_cons_self) hb)
  exact g _ _ fun i hi => List.mem_range.mp hi

end Sys2Proof.Machine
end

