-- ==== Sys2Proof/Laws/PerInstr.lean ====
section
/-! SUPPORT. The classes of the commands (Safety), constructor by constructor: what comes from outside the domain, the level changes of pins,
and the mailbox commands exclude each other; the first two may act before the block is started, the third not. -/
set_option Elab.async false

/-- The classes that a command is in. -/
def Sys2Proof.Laws.Classified.Statement (c : Sys2Proof.Instr) : Prop :=
  (!(c.outside && (c.level || c.message.isSome || !c.early)) && !(c.level && (c.message.isSome || !c.early)) &&
    !(c.message.isSome && c.early)) = true

namespace Sys2Proof.Laws.Classified

theorem hello : Statement (.hello) := rfl
theorem attach (h : HostView) : Statement (.attach h) := rfl
theorem detach (h : HostView) : Statement (.detach h) := rfl
theorem tensorCreate (h : HostView) (pick : BitVec 12) (place : Nat) : Statement (.tensorCreate h pick place) := rfl
theorem tensorDestroy : Statement (.tensorDestroy) := rfl
theorem programLoad (h : HostView) (place : Nat) : Statement (.programLoad h place) := rfl
theorem streamBind (h : HostView) (pick : BitVec 12) : Statement (.streamBind h pick) := rfl
theorem streamArm : Statement (.streamArm) := rfl
theorem streamRearm (h : HostView) : Statement (.streamRearm h) := rfl
theorem streamPause (h : HostView) : Statement (.streamPause h) := rfl
theorem streamResume (h : HostView) : Statement (.streamResume h) := rfl
theorem streamAbandon (h : HostView) : Statement (.streamAbandon h) := rfl
theorem modelLoad (h : HostView) : Statement (.modelLoad h) := rfl
theorem modelSelect (h : HostView) (place : Nat) : Statement (.modelSelect h place) := rfl
theorem halyardInit : Statement (.halyardInit) := rfl
theorem buntingDefine (pick : BitVec 12) : Statement (.buntingDefine pick) := rfl
theorem buntingReadmit : Statement (.buntingReadmit) := rfl
theorem buntingDelete : Statement (.buntingDelete) := rfl
theorem linkUp (place : Nat) : Statement (.linkUp place) := rfl
theorem linkDown : Statement (.linkDown) := rfl
theorem phasePoint : Statement (.phasePoint) := rfl
theorem powerCap : Statement (.powerCap) := rfl
theorem energyRead : Statement (.energyRead) := rfl
theorem faultAck : Statement (.faultAck) := rfl
theorem codebookLoad (h : HostView) : Statement (.codebookLoad h) := rfl
theorem triggerSet : Statement (.triggerSet) := rfl
theorem triggerCancel : Statement (.triggerCancel) := rfl
theorem pageResume (h : HostView) : Statement (.pageResume h) := rfl
theorem pageResumeInvalidate : Statement (.pageResumeInvalidate) := rfl
theorem fwUpdate (h : HostView) : Statement (.fwUpdate h) := rfl
theorem mbxGo (w : Word) : Statement (.mbxGo w) := rfl
theorem mbxRelease (w : Word) : Statement (.mbxRelease w) := rfl
theorem replyPlacement : Statement (.replyPlacement) := rfl
theorem lanePause (n : Fin 8) : Statement (.lanePause n) := rfl
theorem laneUnpause (n : Fin 8) : Statement (.laneUnpause n) := rfl
theorem halyardAdd (n : BitVec 15) (v : BitVec 30) : Statement (.halyardAdd n v) := rfl
theorem halyardSet (n : BitVec 15) (v : BitVec 30) : Statement (.halyardSet n v) := rfl
theorem incFracWrite (w : Word) : Statement (.incFracWrite w) := rfl
theorem ofsApply (w : Word) : Statement (.ofsApply w) := rfl
theorem nsLoRead : Statement (.nsLoRead) := rfl
theorem lkClear (w : Word) : Statement (.lkClear w) := rfl
theorem durClear (w : Word) : Statement (.durClear w) := rfl
theorem cntClear (w : Word) : Statement (.cntClear w) := rfl
theorem safeExitRequest : Statement (.safeExitRequest) := rfl
theorem selfClear : Statement (.selfClear) := rfl
theorem testUnlock (w : Word) : Statement (.testUnlock w) := rfl
theorem injGo (w : Word) : Statement (.injGo w) := rfl
theorem bootStart : Statement (.bootStart) := rfl
theorem registerWrite (off : BitVec 18) (w : Word) : Statement (.registerWrite off w) := rfl
theorem rstNAssert : Statement (.rstNAssert) := rfl
theorem rstNRelease (testMode held : Bool) : Statement (.rstNRelease testMode held) := rfl
theorem isoEnAssert : Statement (.isoEnAssert) := rfl
theorem isoEnRelease : Statement (.isoEnRelease) := rfl
theorem powerLoss : Statement (.powerLoss) := rfl
theorem vrAlert : Statement (.vrAlert) := rfl
theorem vrAlertRelease : Statement (.vrAlertRelease) := rfl
theorem vrAlertHoldExpiry : Statement (.vrAlertHoldExpiry) := rfl
theorem evIn (lines : BitVec 64) (left : Fin 33) : Statement (.evIn lines left) := rfl
theorem evOutPulse : Statement (.evOutPulse) := rfl
theorem dreqAssert (k : Fin 32) : Statement (.dreqAssert k) := rfl
theorem dreqRelease (k : Fin 32) : Statement (.dreqRelease k) := rfl
theorem capInEdge (n : Fin 8) (rising : Bool) : Statement (.capInEdge n rising) := rfl
theorem tapInstruction (code : BitVec 5) : Statement (.tapInstruction code) := rfl
theorem base (lane : Fin 10) : Statement (.base lane) := rfl
theorem loop (lane : Fin 10) : Statement (.loop lane) := rfl
theorem tile (lane : Fin 10) : Statement (.tile lane) := rfl
theorem xform (lane : Fin 10) (eng : Engine) : Statement (.xform lane eng) := rfl
theorem pad (lane : Fin 10) : Statement (.pad lane) := rfl
theorem clamp (lane : Fin 10) : Statement (.clamp lane) := rfl
theorem stipple (lane : Fin 10) : Statement (.stipple lane) := rfl
theorem scale (lane : Fin 10) (eng : Engine) : Statement (.scale lane eng) := rfl
theorem swap (lane : Fin 10) (eng : Engine) : Statement (.swap lane eng) := rfl
theorem emit (lane : Fin 10) : Statement (.emit lane) := rfl
theorem drain (lane : Fin 10) : Statement (.drain lane) := rfl
theorem wait (lane : Fin 10) : Statement (.wait lane) := rfl
theorem post (lane : Fin 10) : Statement (.post lane) := rfl
theorem pace (lane : Fin 10) : Statement (.pace lane) := rfl
theorem deadline (lane : Fin 10) : Statement (.deadline lane) := rfl
theorem phase (lane : Fin 10) (eng : Engine) : Statement (.phase lane eng) := rfl
theorem repeat_ (lane : Fin 10) : Statement (.repeat_ lane) := rfl
theorem endRun (lane : Fin 10) (eng : Engine) (h : HostView) : Statement (.endRun lane eng h) := rfl
theorem tl64Descriptor (lane : Fin 10) : Statement (.tl64Descriptor lane) := rfl
theorem laneDescriptor (lane : Fin 10) : Statement (.laneDescriptor lane) := rfl
theorem quantumExpiry (lane : Fin 10) : Statement (.quantumExpiry lane) := rfl
theorem streamAdmission (place : List Nat) : Statement (.streamAdmission place) := rfl
theorem readBeat (port : Fin 4) (tag : BitVec 12) (idx : Fin 32) (code : Resp) (data : BitVec 1024) (chk : BitVec 64) : Statement (.readBeat port tag idx code data chk) := rfl
theorem writeResponse (port : Fin 4) (tag : BitVec 12) (code : Resp) (early : Bool) : Statement (.writeResponse port tag code early) := rfl
theorem laneDrainDone (lane : Fin 10) : Statement (.laneDrainDone lane) := rfl
theorem laneReport (lane : Fin 10) (h : HostView) : Statement (.laneReport lane h) := rfl
theorem portResponseTimeout (port : Fin 4) (write : Bool) (tag : BitVec 12) (own : Option FwReq) : Statement (.portResponseTimeout port write tag own) := rfl
theorem weightBlockLoaded (lane : Fin 10) : Statement (.weightBlockLoaded lane) := rfl
theorem expandBlockDone (port : Fin 4) : Statement (.expandBlockDone port) := rfl
theorem compressBlock (port : Fin 4) : Statement (.compressBlock port) := rfl
theorem deadlineMiss (sctx : BitVec 12) : Statement (.deadlineMiss sctx) := rfl
theorem deadlineReplyTimer (sctx : BitVec 12) : Statement (.deadlineReplyTimer sctx) := rfl
theorem buntingSkewTimer (lane : Fin 10) : Statement (.buntingSkewTimer lane) := rfl
theorem triggerFiring (k : Fin 32) : Statement (.triggerFiring k) := rfl
theorem activityWindow (lane : Fin 10) (work : Fin 9) : Statement (.activityWindow lane work) := rfl
theorem scrubSlot (plate : Fin 64) : Statement (.scrubSlot plate) := rfl
theorem streamRecordTimer (h : HostView) : Statement (.streamRecordTimer h) := rfl
theorem writeFrame (f : Frame) (full : Bool) : Statement (.writeFrame f full) := rfl
theorem rowsFrame (f : Frame) (full : Bool) : Statement (.rowsFrame f full) := rfl
theorem readFrame (f : Frame) (full : Bool) : Statement (.readFrame f full) := rfl
theorem rdataFrame (f : Frame) (full : Bool) : Statement (.rdataFrame f full) := rfl
theorem haddFrame (f : Frame) (full : Bool) : Statement (.haddFrame f full) := rfl
theorem statusFrame (f : Frame) (full : Bool) : Statement (.statusFrame f full) := rfl
theorem ackFrame (f : Frame) (full : Bool) : Statement (.ackFrame f full) := rfl
theorem trainHelloFrame (f : Frame) (full : Bool) : Statement (.trainHelloFrame f full) := rfl
theorem probeFrame (f : Frame) (full : Bool) : Statement (.probeFrame f full) := rfl
theorem byeFrame (f : Frame) (full : Bool) : Statement (.byeFrame f full) := rfl
theorem macPassThrough (f : Frame) : Statement (.macPassThrough f) := rfl
theorem hostPassThrough (f : Frame) : Statement (.hostPassThrough f) := rfl
theorem retryTimerExpiry : Statement (.retryTimerExpiry) := rfl
theorem ackTimer : Statement (.ackTimer) := rfl
theorem frameCloseTimer : Statement (.frameCloseTimer) := rfl
theorem trainHelloTimer : Statement (.trainHelloTimer) := rfl
theorem linkTrainTimeout : Statement (.linkTrainTimeout) := rfl
theorem linkDownDrained (h : HostView) : Statement (.linkDownDrained h) := rfl
theorem plLinkUpFall : Statement (.plLinkUpFall) := rfl
theorem linkStatusTimer : Statement (.linkStatusTimer) := rfl
theorem linkIdleTimer : Statement (.linkIdleTimer) := rfl
theorem controlInterval : Statement .controlInterval := rfl
theorem pllSlewDone : Statement (.pllSlewDone) := rfl
theorem voutSettleExpiry : Statement (.voutSettleExpiry) := rfl
theorem pmbusTransactionDone (r : Option (BitVec 16)) : Statement (.pmbusTransactionDone r) := rfl
theorem pmbusStatusPoll : Statement (.pmbusStatusPoll) := rfl
theorem pmbusRetryTimer : Statement (.pmbusRetryTimer) := rfl
theorem sensorSample (readings : List Int) (h : HostView) : Statement (.sensorSample readings h) := rfl
theorem wearMeasurement (temp : Int) (readings : List Nat) (h : HostView) : Statement (.wearMeasurement temp readings h) := rfl
theorem energyModelFit : Statement (.energyModelFit) := rfl
theorem burgee (doms : List Dom) (raised : Option Detected) (h : HostView) : Statement (.burgee doms raised h) := rfl
theorem faultPinTimer : Statement (.faultPinTimer) := rfl
theorem clockMonitorFault (clk : Clock) (loss : Bool) : Statement (.clockMonitorFault clk loss) := rfl
theorem teconWdog (write : Option Word) : Statement (.teconWdog write) := rfl
theorem laneCheckDone (lane : Fin 10) (pass : Bool) (h : HostView) : Statement (.laneCheckDone lane pass h) := rfl
theorem warmRestartDone (r : Restart) (h : HostView) : Statement (.warmRestartDone r h) := rfl
theorem bootStepDone (e : StepEnd) (h : HostView) : Statement (.bootStepDone e h) := rfl
theorem bootWatchdogExpiry : Statement (.bootWatchdogExpiry) := rfl
theorem powerOn : Statement (.powerOn) := rfl
theorem clockReturn (clk : Clock) : Statement (.clockReturn clk) := rfl
theorem plLinkUpRise : Statement (.plLinkUpRise) := rfl
theorem trigOutPulseEnd (line : Fin 16) : Statement (.trigOutPulseEnd line) := rfl
theorem testLogicReset : Statement (.testLogicReset) := rfl

end Sys2Proof.Laws.Classified
end

