-- ==== Sys2Proof/Laws/Serve.lean ====
section
/-! SUPPORT. How firmware serves a mailbox command (R247, R250, R252): the message is taken, the body runs, the reply is placed. -/
set_option Elab.async false
namespace Sys2Proof.Machine

/-- The body ran and its reply is placed at once. -/
theorem serve_done {s t : State} {n : Nat} {rest : List Nat} {op m status : Nat} {payload : List Nat} {mine : Nat → Bool} {body : Body}
    (h : s.hears n rest op m) (hm : mine (s.arg n 0) = true)
    (hb : body { s with ctl := s.ctl.accept n rest } (s.arg n) = (t, .done status payload)) :
    serve op mine body s = t.answer (BitVec.ofNat 16 (bits (s.ctl.cmdWord n 0) 31 16)) (BitVec.ofNat 16 op) status payload := by
  obtain ⟨_, h1, h2, h3, h4, h5, h6⟩ := h
  have e : (fun k => s.ctl.cmdWord n (2 + k)) = s.arg n := rfl
  have hm' : mine (s.ctl.cmdWord n 2) = true := hm
  have ht : takesRow op mine op (s.ctl.cmdWord n 2) = true := by simp [takesRow, hm']
  simp only [serve, h1, h2, h3, h4, h5, ht, e, hb]
  simp

/-- Where the reply goes. -/
theorem answer_free {t : State} {m : Nat} (token code : BitVec 16) (status : Nat) (payload : List Nat) (h : t.ctl.freeReply = some m) :
    t.answer token code status payload = { t with ctl := { t.ctl.putReply m (messageWords token.toNat code.toNat status
      (if status = 0 then toWords payload else [])) with hand := none } } := by
  simp [State.answer, Ctl.reply, h]

theorem bits_lt (x hi lo : Nat) : bits x hi lo < 2 ^ (hi + 1 - lo) := Nat.mod_lt _ (Nat.two_pow_pos _)

/-- The state a served command leaves with status `st`, for a body that leaves this command's word and the reply mailboxes alone. -/
theorem serve_answered {s t : State} {n : Nat} {rest : List Nat} {op m st : Nat} {payload : List Nat} {mine : Nat → Bool} {body : Body}
    (h : s.hears n rest op m) (hm : mine (s.arg n 0) = true)
    (hb : body (s.taken n rest) (s.arg n) = (t, .done st payload)) (hp : st = 0 ∨ payload = [])
    (hw : t.ctl.cmdWord n 0 = s.ctl.cmdWord n 0) (hf : t.ctl.rplFull = s.ctl.rplFull) :
    serve op mine body s = t.posted n m st payload := by
  have h6 := h.2.2.2.2.2.2
  have h4 := h.2.2.2.2.1
  have hf' : t.ctl.freeReply = some m := by rw [← h6]; simp [Ctl.freeReply, hf]
  rw [serve_done h hm hb, answer_free _ _ _ _ hf']
  have b1 : (BitVec.ofNat 16 (bits (s.ctl.cmdWord n 0) 31 16)).toNat = bits (s.ctl.cmdWord n 0) 31 16 := by
    simpa using Nat.mod_eq_of_lt (bits_lt (s.ctl.cmdWord n 0) 31 16)
  have b2 : (BitVec.ofNat 16 op).toNat = bits (s.ctl.cmdWord n 0) 15 0 := by
    rw [← h4]; simpa using Nat.mod_eq_of_lt (bits_lt (s.ctl.cmdWord n 0) 15 0)
  have e : (if st = 0 then toWords payload else []) = toWords payload := by
    rcases hp with hp | hp <;> subst hp <;> simp [toWords]
  simp [State.posted, hw, b1, b2, e]

/-- A served command answers its status and payload. -/
theorem command_answered {s t : State} {n : Nat} {rest : List Nat} {op m st : Nat} {payload : List Nat} {mine : Nat → Bool} {body : Body}
    (h : s.hears n rest op m) (hm : mine (s.arg n 0) = true)
    (hb : body (s.taken n rest) (s.arg n) = (t, .done st payload)) (hp : st = 0 ∨ payload = [])
    (hw : t.ctl.cmdWord n 0 = s.ctl.cmdWord n 0) (hf : t.ctl.rplFull = s.ctl.rplFull) :
    command op mine body s = .next (s.keep (t.posted n m st payload)) := by
  rw [command_works op mine body h.1, serve_answered h hm hb hp hw hf]

/-- A served command answers that state. -/
theorem command_posted {s t : State} {n : Nat} {rest : List Nat} {op m : Nat} {payload : List Nat} {mine : Nat → Bool} {body : Body}
    (h : s.hears n rest op m) (hm : mine (s.arg n 0) = true)
    (hb : body (s.taken n rest) (s.arg n) = (t, .done 0 payload)) (hc : t.ctl = (s.taken n rest).ctl) :
    command op mine body s = .next (s.keep (t.posted n m 0 payload)) := by
  exact command_answered h hm hb (.inl rfl) (by rw [hc]; rfl) (by rw [hc]; rfl)

end Sys2Proof.Machine
end

