-- ==== Sys2Proof/Tests/Slice0.lean ====
section
/-! SUPPORT. The model's own tests: a witness for the hypotheses of every statement (`wit_…`), small checks of one step (`test_…`), and an
ill-formed term for each check of `WellFormed`. Expected values come from the spec's rules and tables by hand. -/
set_option Elab.async false
namespace Sys2Proof.Tests
open Machine

/-! ### Small states -/

/-- A started block (R354). -/
def started : State := { State.reset with life := { State.reset.life with started := true } }
/-- A started block whose rail, reset and isolation are as given. -/
def asleep (p : Power) (rst iso : Bool) : State :=
  { State.reset with life := { State.reset.life with power := p }, pins := { State.reset.pins with rstN := rst, isoEn := iso } }
/-- A block in test mode. -/
def testMode : State :=
  { started with life := { started.life with testSampled := true }, pins := { started.pins with testMode := true } }
/-- An attached block whose firmware takes commands. -/
def ready : State :=
  { started with boot := { Boot.reset with done := true }, ctl := { Ctl.reset with fwReady := true }, fw := { State.reset.fw with attached := true } }
/-- The message `op` with payload `args` waits in command mailbox 0, with its CRC (Table CTRL-10). -/
def mail (s : State) (op : Nat) (args : List Nat) : State :=
  let h := toWords ([7 * 65536 + op, 5 * 2 ^ 24 + 4 * args.length] ++ args)
  { s with ctl := { s.ctl with cmd := Tbl.setRun 0 [] 0 (h ++ [BitVec.ofNat 32 (crc32c (bytesOfWords h))]), cmdOwn := 1, submitted := [0] } }
/-- Host memory that answers every read with zeros. -/
def blank : HostView := ⟨[], [], []⟩
/-- Halyard `n` holds `w`. -/
def withHal (s : State) (n : Nat) (w : HalWord) : State := { s with hal := { s.hal with words := Tbl.set HalWord.zero s.hal.words n w } }

/-! ### The whole block -/

theorem wit_frontCommandRuns : ({ State.reset with pending := [.hello, .bootStart] } : State).pending = .hello :: [.bootStart] := rfl
theorem wit_idleTick : State.reset.pending = [] ∧ State.reset.time.incPending = false ∧ State.reset.time.run = false := by decide
theorem wit_idleTick_run : ({ started with time := { Time.reset with run := true, frac := 0xFFFFFFFF, curFrac := 1 } } : State).pending = [] := by decide
theorem wit_soundKept : (asleep .undefined true false).sound ∧ ∃ t, step (asleep .undefined true false) = .next t :=
  ⟨by unfold State.sound; exact ⟨(fun h => nomatch h), (fun h => nomatch h), Or.inl rfl, by decide⟩, _, rfl⟩
theorem wit_outsideStands : (∃ t, exec .bootStart State.reset = .next t) ∧ Instr.outside .bootStart = false ∧ State.reset.defined = true ∧
    Instr.outside .powerLoss = true ∧ (asleep .off true false).awake = false := ⟨⟨_, rfl⟩, rfl, rfl, rfl, rfl⟩
theorem wit_asleepIgnores : (asleep .off true false).awake = false ∧ (asleep .up false false).awake = false ∧ (asleep .up true true).awake = false ∧
    Instr.outside .plLinkUpFall = false ∧ Instr.level .plLinkUpFall = true ∧ Instr.level (.evIn 1 0) = true := by decide
theorem wit_undefinedStops : (asleep .undefined true false).awake = true ∧ (asleep .undefined true false).defined = false ∧
    ({ testMode with tap := ⟨9, true⟩ } : State).defined = false := by decide
theorem wit_beforeStart : State.reset.live ∧ State.reset.alive = false ∧ Instr.early (.emit 0) = false ∧
    ({ started with boot := { Boot.reset with stop := true } } : State).alive = false := by unfold State.live; decide

/-! ### Power, reset and the test port -/

theorem wit_resetPin : State.reset.life.power = .up ∧ (asleep .undefined false false).life.power ≠ .off ∧
    (asleep .undefined false false).pins.rstN = false ∧ State.reset.pins.rstN = true ∧ (asleep .off false false).life.power ≠ .up := by decide
theorem wit_railAndIsolation : (asleep .up true true).pins.isoEn = true ∧ (asleep .off true false).life.power = .off ∧
    (asleep .undefined true false).life.power ≠ .off := by decide
theorem wit_testPort : testMode.pins.isoEn = false ∧ testMode.life.power ≠ .off ∧ testMode.life.testSampled = true ∧
    State.reset.life.testSampled = false ∧ (11 : BitVec 5) ≠ 1 ∧ (11 : BitVec 5) ≠ 10 := by decide
theorem test_tap_bypass : ∃ u, exec (.tapInstruction 11) testMode = .next u ∧ u.tap = ⟨31, false⟩ := ⟨_, rfl, by decide⟩
theorem test_reset_pin : ∃ u, exec (.rstNRelease true true) (asleep .undefined false false) = .next u ∧ u.life.power = .up ∧ u.life.testSampled = true :=
  ⟨_, rfl, rfl, rfl⟩

/-! ### Pins -/

/-- Rising edges of `CAP_IN`[7] are selected. -/
def capturing (valid : Bool) : State :=
  { started with time := { Time.reset with run := true, ns := 1000, capcfg := 0x4000, capValid := if valid then 0x80 else 0 } }
theorem wit_inputPins : (capturing false).works ∧ (capturing true).works ∧ (capturing true).time.capValid.getLsbD 7 = true ∧
    (capturing false).time.capValid.getLsbD 7 = false ∧
    bitOn (bits (capturing false).time.capcfg.toNat (2 * 7 + 1) (2 * 7)) 0 = true ∧
    bitOn (bits (capturing false).time.capcfg.toNat (2 * 7 + 1) (2 * 7)) 1 = false := by unfold State.works State.live; decide
theorem test_capture : ∃ u, exec (.capInEdge 7 true) (capturing false) = .next u ∧ Tbl.get 0 u.time.cap 7 = (992 : BitVec 64) := ⟨_, rfl, by decide⟩
theorem wit_regulatorAlert : State.reset.live ∧ State.reset.pwr.pmb = 0 ∧
    ({ started with pwr := { started.pwr with pmb := 1, alertHold := true }, pins := { started.pins with vrAlertN := false } } : State).live ∧
    ({ started with pwr := { started.pwr with pmb := 1, alertHold := true } } : State).pins.vrAlertN = true := by unfold State.live; decide

/-! ### Halyards and event lines -/

/-- Halyard 1023 in counter mode with count 65,535, Halyard 7 a barrier of 5 at 4. -/
def halyards : State := withHal (withHal ready 1023 ⟨65535, 3, false, 0, false, 0⟩) 7 ⟨4, 65535, true, 5, false, 0⟩
theorem wit_counterMode : halyards.live ∧ (halyards.hword 1023).barrier = false ∧ halyards.halWindow 1023 = true ∧ halyards.halDead 1023 = false ∧
    Tbl.get 0 halyards.hal.upset 1023 ≤ 1 ∧ (1 : BitVec 30).toNat ≤ 65535 ∧ (65535 : BitVec 30).toNat ≤ 65535 := by
  unfold State.live; decide +kernel
theorem wit_halyardWindow : (halyards.hword 7).barrier = true ∧ (halyards.hword 7).target ≠ 0 ∧ halyards.halWindow 7 = true ∧
    ({ halyards with hal := { halyards.hal with unusable := [(7, true)] } } : State).halDead 7 = true ∧
    ({ halyards with hal := { halyards.hal with upset := [(7, 2)] } } : State).halWindow 7 = true := by decide +kernel
theorem test_counter_wraps : ∃ u, exec (.halyardAdd 1023 1) halyards = .next u ∧ (u.hword 1023).count = 0 ∧ (u.hword 1023).gen = 3 :=
  ⟨_, rfl, by decide +kernel⟩
theorem test_barrier_wraps : ∃ u, exec (.halyardAdd 7 6) halyards = .next u ∧ (u.hword 7).count = 0 ∧ (u.hword 7).gen = 1 := ⟨_, rfl, by decide +kernel⟩
/-- `EV_IN`[63] is bound to Halyard 1023, lines 0 and 0 wait in the event-out crossing, and the event-in crossing holds `q`. -/
def events (shown : BitVec 64) (q : List Nat) : State :=
  { halyards with hal := { halyards.hal with evBind := [(63, 1023)], evOutQ := [0, 0], evInQ := q }, pins := { halyards.pins with evOut := shown } }
theorem wit_eventLines : (events 0 []).works ∧ (2 ^ 63 : BitVec 64) = setBit (events 0 []).pins.evIn 63 true ∧ (events 0 []).pins.evIn.getLsbD 63 = false ∧
    Tbl.find (events 0 []).hal.evBind 63 = some 1023 ∧ Tbl.find (events 0 []).hal.evBind 62 = none ∧
    (events 0 []).halDead 1023 = false ∧ Tbl.get 0 (events 0 []).hal.upset 1023 = 0 ∧ ((events 0 []).hword 1023).relay = false ∧
    (events 1 []).pins.evOut.getLsbD 0 = true ∧ (events 0 []).pins.evOut.getLsbD 0 = false ∧ halyards.hal.evOutQ = [] := by
  unfold State.works State.live; decide +kernel
theorem wit_eventLines_full : (events 0 (List.replicate 32 5)).works ∧ (events 0 (List.replicate 32 5)).hal.evInQ.length = 32 ∧
    ((0 : BitVec 64) &&& ~~~(events 0 []).pins.evIn = 0) ∧ (events 0 []).hal.evInQ.length ≤ (0 : Fin 33).val ∧
    (32 : Fin 33).val = (events 0 (List.replicate 31 5)).hal.evInQ.length + 1 := by unfold State.works State.live; decide +kernel
theorem test_ev_in : ∃ u, exec (.evIn (2 ^ 63) 0) (events 0 []) = .next u ∧ (u.hword 1023).count = 0 := ⟨_, rfl, by decide +kernel⟩

/-! ### The time unit -/

theorem wit_timeRegisters : started.works ∧ started.time.ofsNs.toNat ≤ 999999999 ∧ (1 : Word).getLsbD 0 = true ∧ (2 : Word).getLsbD 0 = false ∧
    ({ started with time := { Time.reset with ofsNs := 1000000000 } } : State).works := by unfold State.works State.live; decide
/-- Trigger 31 is due at time 1000 on line `out`, with the period and repeats given. -/
def armed (ns : BitVec 64) (period : Nat) (left : Option Nat) (out : Nat) (late : Bool) : State :=
  { started with time := { Time.reset with run := true, ns := ns, trig := [(31, ⟨1000, period, left, out, late⟩)] } }
theorem wit_triggersFire : (armed 999 0 (some 0) 16 false).works ∧ Tbl.find (armed 999 0 (some 0) 16 false).time.trig 31 = some ⟨1000, 0, some 0, 16, false⟩ ∧
    reached64 (armed 999 0 (some 0) 16 false).now 1000 = false ∧ reached64 (armed 1000 5000 none 1 true).now 1000 = true := by
  unfold State.works State.live; decide +kernel
theorem test_trigger_last : ∃ u, exec (.triggerFiring 31) (armed 1000 5000 (some 0) 16 true) = .next u ∧ u.time.trig = [] ∧ u.time.trigLate = 0x80000000 ∧
    u.pins.trigOut = 0x8000 := ⟨_, rfl, by decide +kernel⟩

/-! ### The control window -/

theorem wit_registerWrites : started.works ∧ started.ctl.cmdOwn.getLsbD 7 = false ∧
    ({ started with ctl := { Ctl.reset with cmdOwn := 0x80 } } : State).ctl.cmdOwn.getLsbD 7 = true ∧ ready.works ∧ ready.boot.done = true ∧
    started.boot.done = false := by unfold State.works State.live; decide

/-! ### Images of zeros -/

/-- A view of zeros answers every read within a page with zeros. -/
theorem getRun_empty : ∀ n a : Nat, Tbl.getRun (0 : Byte) [] a n = List.replicate n 0
  | 0, _ => rfl
  | n + 1, a => by rw [Tbl.getRun, getRun_empty n, List.replicate_succ]; rfl
theorem hostBad_blank (np a n : Nat) : hostBad np blank a n = none := by
  have e : ∀ l : List Nat, l.findSome? (portResp blank) = none := fun l => by
    induction l with
    | nil => rfl
    | cons _ _ ih => exact ih
  exact e _
theorem fwRead_blank (s : State) (h : s.fw.root = 0) (n : Nat) (h0 : 0 < n) (hn : n ≤ 65536) : fwRead s blank 0 n = some (List.replicate n 0) := by
  obtain ⟨k, rfl⟩ : ∃ k, n = k + 1 := ⟨n - 1, by omega⟩
  have e : min (k + 1) (65536 - 0 % 65536) = k + 1 := by omega
  have r : hostRead s.build.cfg.ports blank 0 (k + 1) = some (List.replicate (k + 1) 0) := by unfold hostRead; rw [hostBad_blank, ← getRun_empty]; rfl
  rw [fwRead, fwReadN, e]
  · simp only [fwTranslate, h, if_true, Option.bind_some, r, Nat.sub_self]
    simp [fwReadN]
  · omega
/-- `k` steps of `f`, each value computed before the next. -/
def forced (f : Nat → Nat) : Nat → Nat → Nat
  | 0, c => c
  | k + 1, c => match f c with
    | 0 => forced f k 0
    | m + 1 => forced f k (m + 1)
theorem forced_succ (f : Nat → Nat) (k c : Nat) : forced f (k + 1) c = forced f k (f c) := by
  rw [forced]; generalize f c = x; cases x <;> rfl
theorem crc_zero (c : Nat) (l : List Byte) : crc32cRun c (0 :: l) = crc32cRun (crc32cBits 8 c) l :=
  congrArg (fun x => crc32cRun (crc32cBits 8 x) l) (Nat.xor_zero c)
theorem crc_zeros (f : Nat → Nat) (hf : ∀ c l, crc32cRun c (0 :: l) = crc32cRun (f c) l) (k : Nat) :
    ∀ c, crc32cRun c (List.replicate k 0) = forced f k c := by
  induction k with
  | zero => intro c; rfl
  | succ k ih => intro c; rw [forced_succ, ← ih, List.replicate_succ, hf]
theorem crc_forced : forced (crc32cBits 8) 8192 0xFFFFFFFF = 1874573788 := by decide +kernel
theorem crc_end (b : List Byte) (c d : Nat) (h : crc32cRun 0xFFFFFFFF b = c) (hd : c ^^^ 0xFFFFFFFF = d) : crc32c b = d := by
  rw [crc32c, h, hd]
theorem crc_8192 : crc32c (List.replicate 8192 0) = 2420393507 :=
  crc_end _ _ _ (.trans (crc_zeros _ crc_zero 8192 0xFFFFFFFF) crc_forced) (by decide)

/-! ### Mailbox commands -/

/-- Firmware hears the message. -/
theorem hears_hello : (mail ready 0x01 []).hears 0 [] 0x01 0 := by unfold State.hears State.works State.live; decide +kernel
/-- `FAULT` replies 1 to 16 are not yet acknowledged, and `f` wait for a number. -/
def unacked (f : List FaultMsg) : State :=
  { ready with ctl := { ready.ctl with unacked := (List.range 16).map fun i => BitVec.ofNat 16 (i + 1), faultWait := f, fseq := 17 } }
theorem wit_firmwareAnswers : (mail (unacked []) 0x90 [16]).hears 0 [] 0x90 0 ∧ (16 : BitVec 16) ∈ (unacked []).ctl.unacked ∧
    (17 : BitVec 16) ∉ (unacked []).ctl.unacked ∧ (mail (unacked [⟨3, 0, 0, 0, 0, 0, []⟩]) 0x90 [1]).hears 0 [] 0x90 0 ∧
    (unacked []).ctl.unacked.length = 16 := by unfold State.hears State.works State.live; decide +kernel
/-- A `POWER_CAP` message with a bit of its payload in error. -/
def spoilt : State :=
  let s := mail ready 0x81 [5000]
  { s with ctl := { s.ctl with cmd := Tbl.put 2 5001 s.ctl.cmd } }
theorem wit_failedChecks : spoilt.works ∧ spoilt.ctl.submitted = [0] ∧ bits (spoilt.ctl.cmdWord 0 0) 15 0 = 0x81 ∧ spoilt.ctl.freeReply = some 0 ∧
    spoilt.messageStatus 0 = 10 := by unfold State.works State.live; decide +kernel
theorem wit_powerCommands : (mail ready 0x80 [7 * 256 + 63]).hears 0 [] 0x80 0 ∧ (mail ready 0x80 [15 * 256]).hears 0 [] 0x80 0 ∧
    (mail ready 0x82 [0]).hears 0 [] 0x82 0 ∧ (mail ready 0x82 [63 * 65536 + 1]).hears 0 [] 0x82 0 := by
  unfold State.hears State.works State.live; decide +kernel
theorem wit_capIsSet : (mail ready 0x81 [1000]).hears 0 [] 0x81 0 ∧ (mail ready 0x81 [8500]).hears 0 [] 0x81 0 ∧
    (mail ready 0x81 [8501]).hears 0 [] 0x81 0 ∧ ready.build.cfg = .l4 := by unfold State.hears State.works State.live; decide +kernel
theorem wit_halyardsInitialised : (mail ready 0x50 [2 * 65536 + 16382, 4, 2 ^ 30 + 2 ^ 29 + 5, 32766]).hears 0 [] 0x50 0 ∧
    (mail ready 0x50 [65536 + 16383, 0xFFFFFFFF, 64 * 65536, 0]).hears 0 [] 0x50 0 ∧ ready.build.cfg.halyards = 16384 := by
  unfold State.hears State.works State.live; decide +kernel
theorem wit_triggerCommands : (mail started 0xB0 [0]).works ∧ (mail ready 0xB0 [16 * 256 + 31, 0, 0, 1000, 0xFFFF]).hears 0 [] 0xB0 0 ∧
    (mail (armed 0 0 (some 0) 0 false) 0xB0 [0x1001F, 0, 0, 0, 0]).arg 0 0 = 0x1001F ∧
    (mail { ready with time := (armed 0 0 (some 0) 0 false).time } 0xB0 [0x1001F, 0, 0, 0, 0]).hears 0 [] 0xB0 0 := by
  unfold State.hears State.works State.live; decide +kernel
/-- Bytes of 32-bit words from an address on, as host memory holds them. -/
def hostWords (a : Nat) (ws : List Word) : Tbl Byte := Tbl.setRun 0 [] a (bytesOfWords ws)
/-- A descriptor of an INT8 tensor of one super-tile (Table LAYOUT-3), with its CRC. -/
def descWords (base loc len tag own : Nat) : List Word :=
  let h := toWords [base, loc * 2 ^ 28, 2 * 2 ^ 26, 64, 16, 1, 1, 0, 0, 0, 0, base, tag * 2 ^ 20, len, own]
  h ++ [BitVec.ofNat 32 (crc32c (bytesOfWords h))]
/-- Whether the descriptor at 0x100 is one that `TENSOR_CREATE` takes. -/
def described (h : HostView) (p : Desc → Bool) : Bool :=
  match fwRead ready h 0x100 64 with
  | none => false
  | some b => match ready.checkDesc b with | .inl _ => false | .inr d => p d
theorem wit_tensorCreate_plate : (mail ready 0x20 [0x100, 0]).hears 0 [] 0x20 0 ∧ ready.newHandle 4095 = some 4095 ∧ ready.liveHandles < 4095 ∧
    described ⟨hostWords 0x100 (descWords 0x1000 1 16 0 0), [], []⟩ (fun d => decide (d.loc = 1) && !meetsAny [] d.allocBase (d.allocLen * 64)) = true := by
  unfold State.hears State.works State.live; decide +kernel
theorem wit_tensorCreate_split : ready.tagHeld 5 = false ∧ (ready.holdPlace 64 1).isSome = true ∧
    described ⟨hostWords 0x100 (descWords 0x8000 2 256 5 0x400), [], []⟩ (fun d => decide (d.loc = 2) && decide (d.nst = 1) &&
      decide (fwRead ready ⟨hostWords 0x100 (descWords 0x8000 2 256 5 0x400), [], []⟩ (d.allocBase + d.ownerOff) d.nst = some [0x00])) = true := by
  decide +kernel
/-- An INT8 tensor of 64 x 16 elements in the Plate pool. -/
def plateDesc (base : Nat) : Desc :=
  { base := base, loc := 1, fmt := .int8, padw := false, coded := false, cbook := 0, stc := 1, str := 1, e := ⟨64, 16, 1, 1⟩, s := ⟨0, 0, 0, 0⟩
    allocBase := base, allocLen := 64, peerTag := 0, ownerOff := 0 }
/-- Handles 1 and 2 are live Plate tensors, handle 3 is split and its copy held, and model 9 lies in handle 2. -/
def tensors : State :=
  { ready with fw := { ready.fw with
      tensors := [(1, ⟨plateDesc 0, [], none⟩), (2, ⟨plateDesc 0x1000, [], none⟩),
        (3, ⟨{ plateDesc 0x8000 with loc := 2, peerTag := 5 }, [0x01], some (0x4000, 1)⟩)]
      models := [(9, ⟨2, 1, 2, 0⟩)], held := [(0x4000, 1)] } }
theorem wit_tensorDestroy : (mail tensors 0x21 [3]).hears 0 [] 0x21 0 ∧ (mail tensors 0x21 [2]).hears 0 [] 0x21 0 ∧
    Tbl.find tensors.fw.buntings 3 = none ∧ (tensors.tensor 3).isSome = true ∧ tensors.programNames 3 = false ∧ tensors.streamNames 3 = false ∧
    tensors.memberNamed 3 = false ∧ tensors.storeInUse 2 = false := by unfold State.hears State.works State.live; decide +kernel
/-- The words of a program. -/
def insnWords (l : List Nat) : List Word := (l.map fun i => toWords [i % 2 ^ 32, i / 2 ^ 32]).flatten
/-- `PHASE` 5 and `END`. -/
def tiny : List Nat := [0x1C * 2 ^ 58 + 5, 0x3F * 2 ^ 58]
theorem wit_programLoad : (mail ready 0x30 [2 * 65536 + 63 * 256 + 3, 0x100, 0, crc32c (bytesOfWords (insnWords tiny))]).hears 0 [] 0x30 0 ∧
    ready.nLanes = 4 ∧ ready.laneDown 3 = false ∧ ready.fw.compat.getLsbD 3 = false ∧ Tbl.find ready.fw.programs (progKey 3 63) = none ∧
    fwRead ready ⟨hostWords 0x100 (insnWords tiny), [], []⟩ 0x100 16 = some (bytesOfWords (insnWords tiny)) ∧
    (ready.storePlace 3 63 0 2).isSome = true ∧ ready.programStatus (insnsOf 2 (bytesOfWords (insnWords tiny))) true = 0 := by
  unfold State.hears State.works State.live; decide +kernel
/-- Program 0 of lane 0 is `PHASE` 5, `END`. -/
def programmed : State := { ready with fw := { ready.fw with programs := [(0, ⟨tiny.map (BitVec.ofNat 64), 0, 0, false, []⟩)] } }
theorem wit_programLoad_remove : (mail programmed 0x30 [0, 0, 0, 0]).hears 0 [] 0x30 0 ∧ (Tbl.find programmed.fw.programs (progKey 0 0)).isSome = true ∧
    programmed.progBusy 0 0 = false := by unfold State.hears State.works State.live; decide +kernel
theorem wit_codebookLoad : (mail ready 0xA0 [15, 0, 0, 2420393507]).hears 0 [] 0xA0 0 := by
  unfold State.hears State.works State.live; decide +kernel
theorem wit_codebookLoad_image : fwRead (mail ready 0xA0 [15, 0, 0, 2420393507]) blank 0 8192 = some (List.replicate 8192 0) :=
  fwRead_blank _ rfl 8192 (by decide) (by decide)
/-- Handle 2 is a Plate tensor of eight super-tiles. -/
def store : State :=
  { ready with fw := { ready.fw with tensors := [(2, ⟨{ plateDesc 0x1000 with e := ⟨64, 16, 8, 1⟩, s := ⟨0, 0, 1024, 0⟩, allocLen := 128 }, [], none⟩)] } }
theorem wit_modelLoad : (mail store 0x40 [10 * 1024 + 1023, 2, 0, 0, 2420393507]).hears 0 [] 0x40 0 ∧ Fmt.ofCode 10 = some .bf16 ∧
    (mapShape .bf16).isSome = true ∧ blockBytes .bf16 = 8192 ∧ ((store.tensor 2).map fun t => t.d.span) = some 8192 ∧
    store.liveBind (WBind.fixes 1023) = false ∧ store.liveBind (WBind.lists 1023) = false := by
  unfold State.hears State.works State.live; decide +kernel
theorem wit_modelLoad_image : fwRead (mail store 0x40 [10 * 1024 + 1023, 2, 0, 0, 2420393507]) blank 0 8192 = some (List.replicate 8192 0) :=
  fwRead_blank _ rfl 8192 (by decide) (by decide)

/-! ### Commands that name a stream -/

/-- Program 0 of lane 0, given by its words. -/
def withCode (s : State) (code : List Nat) : State :=
  { s with fw := { s.fw with programs := [(0, ⟨code.map (BitVec.ofNat 64), 0, 0, false, []⟩)] } }
/-- A stream of one member on lane 0, bound to program 0. -/
def solo : Stream := BindArgs.stream ⟨[0], 1, false, 2, 0, 10, 0x40, none⟩ 0 9 5 0 0
/-- Context 5 holds `x`. -/
def withStream (s : State) (x : Stream) : State := { s with fw := { s.fw with streams := Tbl.put 5 x s.fw.streams } }
/-- Lane 0 is running context 5. -/
def onLane0 (s : State) : State :=
  { s with lanes := Tbl.put 0 { Lane.reset with queue := [{ ready.descriptorOf 5 with begun := true }], used := true } s.lanes }
/-- `PHASE` 5, `END` with `PARK`. -/
def parking : List Nat := [0x1C * 2 ^ 58 + 5, 0x3F * 2 ^ 58 + 2 ^ 57]
/-- A bound stream. -/
def bound : State := withStream (withCode ready tiny) solo

theorem wit_modelSelected : (mail bound 0x41 [3 * 65536 + 5, 0]).hears 0 [] 0x41 0 ∧ (bound.stream 5).map (·.st) = some .bound ∧ solo.idx = 0 := by
  unfold State.hears State.works State.live; decide +kernel
/-- Model 0 is loaded, and handle 4 is an INT16 tensor of two entries in the Plate pool. -/
def tabled : State :=
  { bound with fw := { bound.fw with
      models := [(0, ⟨2, 1, 2, 0⟩)]
      tensors := [(4, ⟨{ plateDesc 0 with fmt := .int16, e := ⟨2, 1, 1, 1⟩ }, [], none⟩)] } }
theorem wit_modelSelected_fixed : (mail tabled 0x41 [2 ^ 18 + 5, 1023]).hears 0 [] 0x41 0 ∧ slotEmits (tabled.emitsOfStream solo) 0 = [] := by
  unfold State.hears State.works State.live; decide +kernel
theorem wit_modelSelected_table : (mail tabled 0x41 [2 ^ 19 + 5, 4]).hears 0 [] 0x41 0 ∧
    ((mail tabled 0x41 [2 ^ 19 + 5, 4]).readTable blank 4 = (mail tabled 0x41 [2 ^ 19 + 5, 4], .inr [0, 0])) ∧ tabled.entriesStatus [0, 0] = 0 ∧
    (tabled.holdPlace 0 4).isSome = true := by
  unfold State.hears State.works State.live; decide +kernel
/-- A define of Bunting members 1 and 2, whose credit Halyards are 0 and 1. -/
def define : List Nat := [2 * 4096, 500, 2 ^ 20, 2 * 2 ^ 20 + 1, 0, 0, 0, 0, 0, 0, 0x0202, 0]
/-- Bunting 9 has an evicted member 0. -/
def grouped : State :=
  { tensors with fw := { tensors.fw with buntings := [(9, ⟨500, [⟨1, 0, 2, 0, 0, true⟩, ⟨2, 1, 2, 0, 0, false⟩], 3⟩)] } }
theorem wit_buntingDefine : (mail tensors 0x60 define).hears 0 [] 0x60 0 ∧ bunReserved ((mail tensors 0x60 define).arg 0) = false ∧
    (definedMembers tensors ((mail tensors 0x60 define).arg 0)).length = 2 ∧
    (∀ x ∈ definedMembers tensors ((mail tensors 0x60 define).arg 0), x.depth ≠ 0) ∧
    tensors.bunStatus (definedMembers tensors ((mail tensors 0x60 define).arg 0)) 500 = 0 ∧ tensors.newHandle 0 = some 4 := by
  unfold State.hears State.works State.live; decide +kernel
theorem wit_buntingReadmit : (mail grouped 0x60 ([2 ^ 30 + 9 * 65536] ++ List.replicate 11 0)).hears 0 [] 0x60 0 ∧
    bunShort ((mail grouped 0x60 ([2 ^ 30 + 9 * 65536] ++ List.replicate 11 0)).arg 0) = true ∧
    ((Tbl.find grouped.fw.buntings 9).bind fun b => b.members[0]?).map (·.evicted) = some true ∧
    grouped.peerMember ⟨1, 0, 2, 0, 0, true⟩ = false := by unfold State.hears State.works State.live; decide +kernel
theorem wit_buntingDelete : (mail grouped 0x60 ([2 ^ 31 + 9 * 65536] ++ List.replicate 11 0)).hears 0 [] 0x60 0 ∧ grouped.programNames 9 = false ∧
    grouped.streamNames 9 = false := by unfold State.hears State.works State.live; decide +kernel
theorem wit_streamBind : (mail (withCode ready tiny) 0x31 [2 ^ 24 + 8 * 2 ^ 16, 0x40, 0, 0, 0]).hears 0 [] 0x31 0 ∧ onBits 8 1 = [0] ∧
    ready.laneDown 0 = false ∧ (withCode ready tiny).nativeRows [0] 0 = 0 ∧ (ready.newContexts 1 4095).isSome = true ∧
    8 ≤ ready.openPositions.length := by unfold State.hears State.works State.live; decide +kernel
/-- A TL-64 descriptor of zeros. -/
def tlDesc : List Nat := List.replicate 8 0
/-- Lane 0 is a TL-64 lane. -/
def compat0 : State := { ready with fw := { ready.fw with compat := 1 } }
theorem wit_streamBind_tl : (mail compat0 0x31 [2 ^ 24 + 2 ^ 21 + 2 * 2 ^ 16, 0x40, 0, 0, 0]).hears 0 [] 0x31 0 := by
  unfold State.hears State.works State.live; decide +kernel
theorem wit_streamBind_tl_rows : compat0.fw.compat.getLsbD 0 = true ∧
    (match compat0.tlRows ⟨hostWords 0 (toWords tlDesc), [], []⟩ 0 1 with | .inr ds => decide (ds.length = 1) | .inl _ => false) = true := by
  decide +kernel
theorem wit_streamArmed : (mail bound 0x32 [5]).hears 0 [] 0x32 0 ∧ bound.linkDenies solo = false ∧ (bound.progOf solo).isSome = true ∧
    bound.bindingsStatus solo.wbind (bound.emitsOfStream solo) = 0 := by unfold State.hears State.works State.live; decide +kernel
/-- A parked stream. -/
def parked : State := withStream (withCode ready parking) { solo with st := .parked, armed := true, reserve := [0, 1] }
theorem wit_streamRearmed : (mail parked 0x33 [5, 0, 0, 0, 0]).hears 0 [] 0x33 0 ∧
    ((parked.progOf solo).bind fun p => p.insns.getLast?) = some (.endRun true) ∧
    ((parked.progOf solo).map fun p => parked.substStatus p.insns [] [] 0) = some 0 ∧ (∀ k < 8, rearmHandle ((mail parked 0x33 [5, 0, 0, 0, 0]).arg 0) k = 0) ∧
    (match State.rereadTables blank solo.wbind parked with | (w, .inr wb) => decide (w.bindingsStatus wb [] = 0) | _ => false) = true := by
  unfold State.hears State.works State.live; decide +kernel
/-- A stream that runs on lane 0. -/
def running0 : State := onLane0 (withStream (withCode ready tiny) { solo with st := .active, armed := true, reserve := [0, 1] })
theorem wit_streamPaused : (mail bound 0x34 [5]).hears 0 [] 0x34 0 ∧ (mail running0 0x34 [5]).hears 0 [] 0x34 0 ∧ solo.paused = false ∧
    bound.toDrain 5 = [] ∧ running0.toDrain 5 = [0] ∧ (mail (withStream bound { solo with paused := true }) 0x34 [5]).hears 0 [] 0x34 0 := by
  unfold State.hears State.works State.live; decide +kernel
theorem wit_streamAbandoned : (mail bound 0x36 [5]).hears 0 [] 0x36 0 ∧ (mail running0 0x36 [5]).hears 0 [] 0x36 0 := by
  unfold State.hears State.works State.live; decide +kernel
/-- A stream Held after an error, with or without a reservation. -/
def held (r : List Nat) : State := withStream (withCode ready tiny) { solo with st := .held, heldBy := [.error], reserve := r, armed := true }
theorem wit_streamResumed : (mail (withStream bound { solo with paused := true }) 0x35 [5]).hears 0 [] 0x35 0 ∧
    (withStream bound { solo with paused := true }).heldGroup 5 = false ∧ (mail (held []) 0x35 [5]).hears 0 [] 0x35 0 ∧
    (mail (held [0, 1]) 0x35 [5]).hears 0 [] 0x35 0 ∧ (held []).heldGroup 5 = true ∧ (∀ d ∈ (held []).group 5, ((held []).laneOf d).isSome = true) ∧
    (held []).anyMember 5 (fun y => y.heldBy.contains .page) = false ∧ (held []).anyMember 5 (fun y => y.denied) = false := by
  unfold State.hears State.works State.live; decide +kernel
/-- Lane 3 holds on a page. -/
def paged : State := { ready with lanes := [(3, { Lane.reset with stops := [.page ⟨5, 0, false, 1⟩], holding := true })] }
theorem wit_pageResumes : (mail paged 0xC0 [3]).hears 0 [] 0xC0 0 ∧ paged.physOf 3 = some 3 ∧ (paged.lane 3).onPage = true ∧ paged.nLanes = 4 ∧
    (mail paged 0xC0 [15 * 65536 + 256]).hears 0 [] 0xC0 0 ∧ onBits 8 15 = [0, 1, 2, 3] ∧ pageReserved (15 * 65536 + 256) = false := by
  unfold State.hears State.works State.live; decide +kernel
/-- A link in state `n`. -/
def linked (n : Nat) : State := { ready with link := { Link.reset with st := n, buf := if n = 0 then none else some 0 }, fw := { ready.fw with held := if n = 0 then [] else [(0, retryBytes)] } }
theorem wit_linkUp : (mail (linked 0) 0x70 [0, 2, 0, 4, 0]).hears 0 [] 0x70 0 ∧ (mail (linked 4) 0x70 [0x0600, 2, 0, 4, 0]).hears 0 [] 0x70 0 ∧
    badMac 2 = false ∧ badEtype 0x0600 = false ∧ (linked 0).freeBuffer.holdPlace 0 retryBytes = some 0 ∧
    (linked 4).freeBuffer.holdPlace 0 retryBytes = some 0 := by unfold State.hears State.works State.live; decide +kernel
theorem wit_linkDown : (mail (linked 2) 0x71 []).hears 0 [] 0x71 0 ∧ (mail (linked 4) 0x71 []).hears 0 [] 0x71 0 ∧
    (mail (linked 5) 0x71 []).hears 0 [] 0x71 0 ∧ (mail (linked 0) 0x71 []).hears 0 [] 0x71 0 ∧ (linked 2).remoteBusy = false := by
  unfold State.hears State.works State.live; decide +kernel
/-- A block that waits for `ATTACH`. -/
def unattached : State := { ready with fw := { ready.fw with attached := false } }
theorem wit_attach : (mail unattached 0x10 [0x200000, 15 * 2 ^ 24, 0, 0, 0]).hears 0 [] 0x10 0 ∧ (mail ready 0x10 [0, 0, 0, 0, 0]).hears 0 [] 0x10 0 ∧
    ready.liveHandles = 0 ∧ ready.fw.streams = [] := by unfold State.hears State.works State.live; decide +kernel
/-- A regulator record whose first entry limits lane 0 at port 0. -/
def regRecord : List Byte := bytesOfWords (toWords (1024 :: List.replicate 31 0))
theorem wit_attach_record : (match readRegs 2 ⟨Tbl.setRun 0 [] 0x40 regRecord, [], []⟩ 0x40 (crc32c regRecord) with
    | .inr (some b) => ready.regPresent.all fun i => regReservedOk b i
    | _ => false) = true ∧ (mail unattached 0x10 [0, 0, 0x40, 0, crc32c regRecord]).hears 0 [] 0x10 0 := by
  unfold State.hears State.works State.live; decide +kernel
theorem wit_detach : (mail ready 0x11 []).hears 0 [] 0x11 0 ∧ ready.lanes = [] ∧ ready.ports = [] ∧ ready.fw.streams = [] ∧
    ready.link.reads = [] ∧ ready.link.st = 0 := by
  unfold State.hears State.works State.live; decide +kernel

/-! ### A signed image (R362) -/

/-- A firmware image of 64 zero bytes, version 7, signed with the private key 1 over a body of zeros. -/
def image : List Byte :=
  toBytes 0x31574654 4 ++ [1, 0, 0, 0] ++ toBytes 7 4 ++ toBytes 64 4 ++ List.replicate 48 0 ++ toBytesBE p256G.1 32 ++ toBytesBE p256G.2 32 ++
    toBytesBE 0x6b17d1f2e12c4247f8bce6e563a440f277037d812deb33a0f4a13945d898c296 32 ++
    toBytesBE 0x83c40f2c3b8b8135780a28f671444ac4cc7a55b8012760b5e33014cf2e2afd19 32 ++ List.replicate 64 0
/-- The hash of its key. -/
def keyHash : Nat := 0xd875db7def232236aec738c6b0bb3e80142f5d0fd8f4df24fed6eef5cbb50d9f
theorem image_digest : imageDigest image = 0x18ac3d395a5f3eed7f4d42110da009d25576d836d33c2d14ee8edb8955923a83 := by decide +kernel
theorem image_key : sha256 (slice image 64 64) = keyHash := by decide +kernel
theorem image_signed : ecdsaVerify (ofBytesBE (slice image 64 32)) (ofBytesBE (slice image 96 32)) (ofBytesBE (slice image 128 32))
    (ofBytesBE (slice image 160 32)) 0x18ac3d395a5f3eed7f4d42110da009d25576d836d33c2d14ee8edb8955923a83 = true := by decide +kernel
theorem image_verified : verifyImage keyHash image = 0 := by
  simp only [verifyImage, image_key, image_digest, image_signed]; rfl
theorem crc32cRun_append (a b : List Byte) : ∀ c, crc32cRun c (a ++ b) = crc32cRun (crc32cRun c a) b := by
  induction a with
  | nil => intro c; rfl
  | cons x a ih => intro c; exact ih _
theorem crc_part (b : List Byte) (n c d : Nat) (h : crc32cRun c (b.take n) = d) : crc32cRun c b = crc32cRun d (b.drop n) := by
  conv => lhs; rw [← List.take_append_drop n b, crc32cRun_append, h]
theorem image_crc : crc32c image = 4234900271 :=
  crc_end _ _ _ (((crc_part image 64 0xFFFFFFFF 1621602422 (by decide +kernel)).trans (crc_part _ 64 _ 4246394617 (by decide +kernel))).trans
    ((crc_part _ 64 _ 2809178597 (by decide +kernel)).trans (by decide +kernel : _ = 60067024))) (by decide)
/-- A block whose fuses hold the hash of that key. -/
def keyed : State := { ready with otp := { ready.otp with keyHash := keyHash } }
/-- Host memory with the image at 0x40. -/
def imageView : HostView := ⟨Tbl.setRun 0 [] 0x40 image, [], []⟩
theorem wit_fwUpdate : (mail keyed 0xF0 [1, 0x40, 0, 256, 4234900271]).hears 0 [] 0xF0 0 ∧ hostRead 2 imageView 0x40 256 = some image ∧
    decide ((1 : Nat) = 1) ≠ keyed.boot.slotRunning ∧ hostBad 2 imageView (keyed.boot.slotAddr 1) 256 = none := by
  unfold State.hears State.works State.live; decide +kernel
theorem wit_fwUpdate_signed : imageStatus keyHash 256 image = 0 := by
  rw [imageStatus, image_verified]; decide +kernel

/-! ### The mailbox port -/

/-- A block with the reply `h` in hand and a `PAGE` reply queued. -/
def inHand (h : Option Hand) : State := { ready with ctl := { ready.ctl with hand := h, async := [⟨.page, []⟩], rplFull := 0x7F, cmdOwn := 0x80 } }
theorem wit_mailboxPort : started.works ∧ started.ctl.fwReady = false ∧ (inHand none).works ∧ (inHand none).ctl.fwReady = true ∧
    (inHand none).ctl.freeReply = some 7 ∧ (inHand (some (.reply ⟨1, 0x11, 0, []⟩))).ctl.hand = some (.reply ⟨1, 0x11, 0, []⟩) ∧
    (inHand (some (.reply ⟨1, 0x11, 9, []⟩))).ctl.freeReply = some 7 ∧ ∀ r, (inHand none).ctl.hand ≠ some (.reply r) := by
  unfold State.works State.live; exact ⟨by decide, by decide, by decide, by decide, by decide, by decide, by decide, fun r => by simp [inHand]⟩
theorem wit_mailboxPort_quiet : (inHand (some (.reply ⟨1, 0x11, 0, []⟩))).quiet = true ∧ ({ inHand (some (.reply ⟨1, 0x11, 0, []⟩)) with
    pwr := { ready.pwr with tx := [⟨0x79, 0, false⟩] } } : State).quiet = false := by decide +kernel
theorem test_mbxGo : ∃ u, exec (.mbxGo 0xFFFFFF81) (inHand none) = .next u ∧ u.ctl.submitted = [0] ∧ u.ctl.cmdOwn = 0x81 := ⟨_, rfl, by decide +kernel⟩

/-! ### Faults -/

/-- Test mode, `n` keys given, injection open, of site `site`. -/
def injecting (n site : Nat) : State :=
  { testMode with flt := { Flt.reset with unlock := n, inj := true, injSel := BitVec.ofNat 32 (site + 9 * 256) } }
theorem wit_faultInjection : (injecting 0 2).works ∧ (injecting 0 2).life.testSampled = true ∧ started.life.testSampled = false ∧
    (0x5A5A : Word).toNat = unlockKey 0 ∧ (0x0F0F : Word).toNat = unlockKey 2 ∧ (0x5A5B : Word).toNat ≠ unlockKey 0 ∧ (injecting 1 2).flt.unlock < 2 ∧
    (injecting 2 2).flt.unlock = 2 ∧ (1 : Word).getLsbD 0 = true ∧ (2 : Word).getLsbD 0 = false ∧ bits (injecting 0 11).flt.injSel.toNat 3 0 = 11 ∧
    bits (injecting 0 2).flt.injSel.toNat 11 8 = 9 ∧ testMode.flt.inj = false ∧ testMode.flt.selfF = false ∧
    ({ started with flt := { Flt.reset with selfF := true } } : State).works := by unfold State.works State.live; decide +kernel
theorem wit_faultInjection_signature : Config.signature 0 + 1 ≠ Config.signature 0 ∧ (true || false) = true := by
  generalize Config.signature 0 = x
  exact ⟨fun h => by have := congrArg (· - x) h; simp at this, rfl⟩
/-- The crossing of the Burgee's domain holds it. -/
def crossed (b : Burgee) (safe : Bool) : State := { running0 with flt := { Flt.reset with cross := [(b.dom, [b])], safe := safe } }
theorem wit_collects : (crossed ⟨0, 0, 32, 5⟩ false).works ∧ Tbl.get [] started.flt.cross Dom.aclk.num = [] ∧
    ((crossed ⟨0, 0, 32, 5⟩ false).flt.pop Dom.aclk.num).map (·.1) = some ⟨0, 0, 32, 5⟩ ∧ kindSev 32 = 1 ∧ kindSev 17 = 0 ∧ kindSev 22 = 2 ∧ kindSev 49 = 3 ∧
    ((crossed ⟨2, 0, 17, 5⟩ false).flt.pop Dom.aclk.num).map (·.1) = some ⟨2, 0, 17, 5⟩ ∧
    ((crossed ⟨0, 0, 22, 5⟩ false).flt.pop Dom.aclk.num).map (·.1) = some ⟨0, 0, 22, 5⟩ ∧ laneCheckKind 22 = true ∧
    ((crossed ⟨8, 0, 56, 0⟩ false).flt.pop Dom.cclk.num).map (·.1) = some ⟨8, 0, 56, 0⟩ ∧ restartKind 56 = true ∧ (crossed ⟨0, 0, 22, 5⟩ true).flt.safe = true ∧
    (crossed ⟨0, 0, 22, 5⟩ false).manages = true ∧ (crossed ⟨0, 0, 22, 5⟩ false).flt.restarting = false ∧ started.manages = false ∧
    ((crossed ⟨0, 0, 32, 5⟩ false).lane 0).queue ≠ [] ∧ 0 ∈ running0.build.cfg.physLanes := by
  unfold State.works State.live; decide +kernel
theorem wit_collects_restarting : ({ crossed ⟨0, 0, 22, 5⟩ false with flt := { (crossed ⟨0, 0, 22, 5⟩ false).flt with recov := [.warmRestart 55] } } : State).flt.restarting = true ∧
    restartKind 22 = false := by decide +kernel
/-- A Plate's corrected error, and a fault of a memory port's compressor, as their units find them. -/
def corrected : RawBurgee := ⟨2, 31, 17, 0x3FFFFFFFFFFF⟩
def identity : RawBurgee := ⟨3, 1, 16, 0⟩
theorem wit_collects_raise : (kindClasses (rawBurgee corrected).kind).contains (rawBurgee corrected).cls = true ∧ running0.hasUnit (rawBurgee corrected) = true ∧
    (rawBurgee corrected).kind ∈ [16, 17, 20, 40, 41, 47, 56, 57, 58] ∧ (rawBurgee corrected).addr = 0xFFFFF ∧
    (kindClasses (rawBurgee identity).kind).contains (rawBurgee identity).cls = true ∧ running0.hasUnit (rawBurgee identity) = true ∧
    (rawBurgee identity).kind ∈ [16, 17, 20, 40, 41, 47, 56, 57, 58] ∧ kindSev 16 = 2 ∧
    crossRoom (rawBurgee identity).dom 16 7 = true ∧ crossRoom (rawBurgee corrected).dom 17 12 = false ∧ running0.flt.safe = false := by decide +kernel
theorem wit_collects_history : (crossed ⟨0, 0, 32, 5⟩ false).entersHistory ⟨0, 0, 32, 5⟩ = true ∧
    ({ crossed ⟨0, 0, 32, 5⟩ false with flt := { Flt.reset with recent := [((⟨0, 0, 32, 5⟩ : Burgee).pairKey, 0)] } } : State).entersHistory ⟨0, 0, 32, 5⟩ =
      false := by decide +kernel
/-- The safe state, with a cause present or not. -/
def safe (cause : Bool) : State := { ready with flt := { Flt.reset with safe := true, clkFlag := if cause then 1 else 0 } }
theorem wit_clocksAndSafeExit : (safe false).works ∧ (safe false).flt.recov = [] ∧ (safe false).flt.causePresent = false ∧
    ({ safe false with flt := { (safe false).flt with causes := [⟨7, 0, 53, 0⟩], clkFlag := 1 } } : State).flt.causePresent = true ∧
    started.flt.safe = false ∧ (linked 2).works ∧ (linked 2).link.up = true ∧ (linked 0).link.up = false ∧ clockIdx .aclk = 0 := by
  unfold State.works State.live; decide +kernel
/-- A lane check of lane 0 runs, and the lane holds. -/
def checking (n : Nat) (spares : List Nat) : State :=
  { ready with
    flt := { Flt.reset with recov := [.laneCheck n], safe := true }
    lanes := Tbl.put n { Lane.reset with holding := true, stops := [.safe], reported := [.safe] } []
    fw := { ready.fw with spares := spares } }
theorem wit_recoveries : (checking 0 [8]).works ∧ (checking 0 [8]).flt.recov.contains (.laneCheck 0) = true ∧ ((checking 0 [8]).lane 0).holding = true ∧
    ((checking 0 [8]).lane 0).report = [] ∧ (checking 0 [8]).threeFaults 0 = false ∧ 2 ≤ (checking 0 [8]).sensorsLeft 0 ∧
    (checking 0 [8]).logicalOf 0 = some 0 ∧ (checking 0 []).logicalOf 0 = some 0 ∧ (checking 8 [8]).logicalOf 8 = none ∧
    ((checking 8 [8]).lane 8).holding = true ∧ (ready.lane 0).holding = false := by unfold State.works State.live; decide +kernel
/-- Three lane faults of lane 0 within the hour. -/
def thirdFault : State := { checking 0 [8] with flt := { (checking 0 [8]).flt with laneTimes := [(0, [0, 0, 0])] } }
theorem wit_recoveries_three : thirdFault.threeFaults 0 = true ∧
    ({ checking 0 [8] with pwr := { ready.pwr with invalid := [(0, true), (1, true), (2, true)] } } : State).sensorsLeft 0 < 2 := by decide +kernel
theorem wit_recoveries_ready : ((checking 0 [8]).lane 0).holding = true ∧ (ready.lane 0).queue = [] ∧ ready.laneQuiet 0 = true ∧
    ((checking 0 [8]).lane 1).holding = false ∧ (checking 0 [8]).ctl.fwReady = true ∧ (running0.lane 0).holding = false ∧ (running0.lane 0).queue ≠ [] := by decide +kernel
/-- A warm restart runs; the fuses hold the hash of the test image's key. -/
def restarting : State := { keyed with flt := { Flt.reset with recov := [.warmRestart 55] }, ctl := { ready.ctl with fwReady := false } }
/-- Host memory with the test image in slot 0. -/
def slotView : HostView := ⟨Tbl.setRun 0 [] 0 image, [], []⟩
theorem wit_recoveries_restart : restarting.works ∧ restarting.flt.restarting = true ∧ ready.flt.restarting = false ∧ restarting.flt.todo = [] ∧
    loadImage 2 slotView (restarting.boot.slotAddr 0) = .inr image ∧ restarting.boot.digest = none := by unfold State.works State.live; decide +kernel
theorem reload_some (s : State) (h : HostView) (img : List Byte) (h0 : s.boot.slotRunning = false)
    (hl : loadImage s.build.cfg.ports h (s.boot.slotAddr 0) = .inr img) (hv : verifyImage s.otp.keyHash img = 0) : (s.reloadFirmware h).isSome = true := by
  simp [State.reloadFirmware, State.restartImage, h0, hl, hv]
theorem reload_none (s : State) (h : HostView) (hl : ∀ k, loadImage s.build.cfg.ports h (s.boot.slotAddr k) = .inl 3) : s.reloadFirmware h = none := by
  simp [State.reloadFirmware, State.restartImage, hl]
theorem slots_at_zero (k : Nat) : restarting.boot.slotAddr k = 0 := by unfold Boot.slotAddr; split <;> decide
theorem wit_recoveries_image : (restarting.reloadFirmware slotView).isSome = true :=
  reload_some _ _ image rfl wit_recoveries_restart.2.2.2.2.1 image_verified
theorem wit_recoveries_no_image : restarting.reloadFirmware blank = none :=
  reload_none _ _ fun k => (congrArg (loadImage restarting.build.cfg.ports blank) (slots_at_zero k)).trans (by decide +kernel)

/-! ### The power manager -/

/-- The power manager at point `op` with the PMBus in order, and the transactions `tx`. -/
def managed (op : Nat) (tx : List Pmb) : State :=
  { ready with pwr := { ready.pwr with op := op, pmb := 1, tx := tx, confirmed := 750, vout := 750 }, boot := { ready.boot with step := 12 } }
/-- A raise from OP0 to OP1. -/
def raising (r : Raise) (tx : List Pmb) : State := { managed 0 tx with pwr := { (managed 0 tx).pwr with raise := some r } }
theorem wit_powerMoves : (managed 3 []).works ∧ (managed 3 []).pwr.slewTo = none ∧ (managed 3 []).pwr.busOk = true ∧ (managed 3 []).pins.vrAlertN = true ∧
    ({ managed 3 [] with pwr := { (managed 3 []).pwr with slewTo := some 2 } } : State).pwr.op = 3 ∧
    ({ managed 3 [] with pwr := { (managed 3 []).pwr with slewTo := some 3 } } : State).pwr.op ≤ 3 ∧
    (raising ⟨1, 0, 0, true, false, false⟩ []).pwr.raise = some ⟨1, 0, 0, true, false, false⟩ ∧ (managed 3 []).pwr.raise = none ∧
    ((raising ⟨1, 0, 0, true, false, false⟩ []).pwr.tx.any fun t => decide (t.code = 0x8B) && decide (t.data = 1)) = false ∧
    (managed 3 []).manages = true ∧ (managed 3 []).pwr.tx = [] ∧ started.manages = false := by unfold State.works State.live; decide +kernel
/-- The PMBus word that reads as the voltage planned for OP1. -/
def planned1 : BitVec 16 := BitVec.ofNat 16 ((managed 0 []).pwr.toLinear16 ((managed 0 []).pwr.planned 1))
theorem wit_powerMoves_bus : (managed 3 [⟨0x8B, 0, true⟩]).pwr.tx = ⟨0x8B, 0, true⟩ :: [] ∧
    ((raising ⟨1, 0, 0, true, false, false⟩ [⟨0x8B, 1, false⟩]).pwr.planned 1 : Rat) - 15 ≤ (managed 0 []).pwr.linear16 planned1.toNat ∧
    (managed 0 []).pwr.linear16 planned1.toNat ≤ ((raising ⟨1, 0, 0, true, false, false⟩ [⟨0x8B, 1, false⟩]).pwr.planned 1 : Rat) + 15 ∧
    ({ managed 3 [] with pwr := { (managed 3 []).pwr with pmb := 2 } } : State).manages = true := by decide +kernel
theorem wit_powerMoves_more : (raising ⟨1, 0, 77, true, true, false⟩ [⟨0x8B, 1, false⟩]).pwr.failedRaises < 2 ∧
    ({ managed 3 [] with pwr := { (managed 3 []).pwr with vset := some 5 } } : State).pwr.plannedWord 3 ≠ 5 ∧
    ({ managed 3 [] with pwr := { (managed 3 []).pwr with failedRaises := 2 } } : State).manages = true ∧
    (raising ⟨1, 0, 77, false, false, false⟩ [⟨0x21, (raising ⟨1, 0, 77, false, false, false⟩ []).pwr.plannedWord 1, true⟩]).pwr.raise =
      some ⟨1, 0, 77, false, false, false⟩ := by decide +kernel
/-- A thermal emergency. -/
def hot : State := { managed 3 [] with pwr := { (managed 3 []).pwr with emerg := true } }
theorem wit_powerMeasures : hot.works ∧ hot.manages = true ∧ hot.pwr.pmb ≠ 0 ∧ hot.pwr.emerg = true ∧ hot.pwr.raise = none ∧ hot.pwr.slewTo = none ∧
    0 < hot.pwr.op ∧ (managed 3 []).pwr.emerg = false ∧ hot.ctl.fwReady = true ∧ hot.pwr.flawWear = none ∧ hot.pwr.op < hot.pwr.ofs.length ∧
    hot.pwr.op < hot.pwr.retired.length ∧ started.pwr.pmb = 0 ∧ hot.pwr.measured = false ∧
    ({ hot with pwr := { hot.pwr with prods := List.replicate 8 750000 } } : State).pwr.measured = true := by unfold State.works State.live; decide +kernel
theorem wit_powerMeasures_sensors : hot.sensorPresent 3 = true ∧ (Tbl.find hot.pwr.invalid 3).isNone = true ∧
    3 ∉ hot.newInvalid (List.replicate 44 (115 * 16)) ∧ hot.flt.failed.getLsbD 0 = false ∧ 115 * 16 ≤ nth 0 (List.replicate 44 ((115 : Int) * 16)) 3 ∧
    (∀ i, i < 44 → nth 0 (List.replicate 44 ((99 : Int) * 16)) i < 100 * 16) := by decide +kernel
/-- Wear references of 100 ps at both temperatures for monitor 0 at OP3. -/
def worn (ofs : Nat) : State :=
  { managed 3 [] with
    otp := { ready.otp with wearRef := [(3, (100, 100))] }
    pwr := { (managed 3 []).pwr with ofs := [0, 0, 0, ofs, 0, 0, 0, 0] } }
theorem wit_powerMeasures_wear : ((topDrift ((worn 35).drifts 3 (25 * 16) (List.replicate 124 103))).map fun e => decide (2 / 100 < e.2)) = some true ∧
    nth 0 (worn 35).pwr.ofs 3 < 40 ∧ Tbl.get 0 (worn 35).pwr.raiseHold 3 ≤ 1 ∧ 40 ≤ nth 0 (worn 40).pwr.ofs 3 ∧ (worn 40).pwr.withdrawn 3 = false ∧
    ((topDrift ((worn 35).drifts 3 (25 * 16) (List.replicate 124 102))).map fun e => decide (e.2 ≤ 2 / 100)) = some true ∧ (worn 35).manages = true := by
  decide +kernel
theorem wit_powerMeasures_fit : ({ managed 3 [] with pwr := { (managed 3 []).pwr with samples := [⟨List.replicate 7 1, 5⟩] } } : State).manages = true ∧
    (managed 3 []).pwr.samples = [] := by decide +kernel

/-! ### The boot -/

/-- A boot at step `k`, level `l`. -/
def booting (k l : Nat) : State := { started with boot := { Boot.reset with step := k, level := l } }
theorem wit_bootSequence : State.reset.live ∧ State.reset.life.started = false ∧ (booting 1 0).live ∧ (booting 1 0).alive = true ∧
    (booting 1 0).boot.done = false ∧ (booting 11 0).boot.step = 11 ∧ ready.alive = true ∧ ready.boot.done = true ∧ (booting 9 1).boot.level = 1 ∧
    ({ booting 4 0 with boot := { (booting 4 0).boot with restarts := 3 } } : State).alive = true ∧ (booting 4 0).boot.restarts < 3 := by
  unfold State.live; decide +kernel
/-- Step 7, with the signed image loaded. -/
def verifying : State := { booting 7 0 with otp := keyed.otp, boot := { (booting 7 0).boot with image := some image } }
theorem wit_bootSequence_verify : verifying.alive = true ∧ verifying.boot.done = false ∧ verifying.boot.step = 7 ∧ verifying.boot.image = some image ∧
    verifyImage verifying.otp.keyHash image = 0 := ⟨rfl, rfl, rfl, rfl, image_verified⟩

/-! ### The engines of a lane -/

/-- The fetch engine of lane 0 stands at the instruction `w` of a program. -/
def atInsn (w : Nat) : State := onLane0 (withStream (withCode ready [w, 0x3F * 2 ^ 58]) { solo with st := .active, armed := true, reserve := [0, 1] })
/-- The instruction that the fetch engine finds. -/
def found (s : State) : Option FInsn := (s.fetchStream 0).bind fun e => s.insnAt e.2 e.2.fpc
/-- Words written out field by field from Tables FYUSH-1 and FYUSH-3 to FYUSH-5, and the instructions they stand for. -/
def spelled : List (Nat × FInsn) :=
  [(0x01 * 2 ^ 58 + 2 ^ 57 + 7 * 2 ^ 54 + 0xFFF * 2 ^ 40 + 0xFFFFF * 2 ^ 20 + 0x7FFFF, .base true 7 false 0xFFF (-1) 0x7FFFF (-524289)),
   (0x02 * 2 ^ 58 + 3 * 2 ^ 55 + 2 ^ 53 + 0xFFFF * 2 ^ 24 + 0x800000, .loop false 3 1 0xFFFF (-8388608)),
   (0x03 * 2 ^ 58 + 0x0C * 2 ^ 50 + 15 * 2 ^ 46 + 255 * 2 ^ 38, .tile false false 0x0C 16 256 1),
   (0x05 * 2 ^ 58 + 3 * 2 ^ 55 + 0xFFFF * 2 ^ 32 + 2 * 2 ^ 16, .padAmount 3 0xFFFF 2),
   (0x05 * 2 ^ 58 + 2 ^ 57 + 2 ^ 56 + 0xFFFFFFFF, .padMode true 0xFFFFFFFF),
   (0x06 * 2 ^ 58 + 2 * 2 ^ 56 + 5 * 2 ^ 32 + 9 * 2 ^ 8, .clamp 2 5 9),
   (0x07 * 2 ^ 58 + 2 ^ 57 + 0xABC * 2 ^ 44 + 0xFFFF * 2 ^ 24, .stipple true false 0xABC 65536)] ++
  [(0x08 * 2 ^ 58, .scale ⟨0, 0, false, 0, false, 0, 0, 0⟩),
   (0x09 * 2 ^ 58 + 2 * 2 ^ 55, .swap false 2),
   (0x18 * 2 ^ 58 + 2 ^ 56 + 5 * 2 ^ 53 + 16383 * 2 ^ 32 + 0x8000, .wait ⟨false, true, 5, 16383, 0x8000⟩),
   (0x19 * 2 ^ 58 + 2 ^ 57 + 63 * 2 ^ 51 + 7 * 2 ^ 32 + 3, .post true 63 7 3),
   (0x1A * 2 ^ 58 + 2 * 2 ^ 56 + 31 * 2 ^ 32, .pace (.trigger 31)),
   (0x1B * 2 ^ 58 + 0xFFFFFFFF, .deadline 0xFFFFFFFF),
   (0x1C * 2 ^ 58 + 63, .phase 63),
   (0x20 * 2 ^ 58 + 0xFFFF * 2 ^ 10 + 0x3FF, .repeat_ 0xFFFF 0x3FF),
   (0x3F * 2 ^ 58 + 2 ^ 57, .endRun true), (0x10 * 2 ^ 58, .emit), (0x11 * 2 ^ 58, .drain)]
theorem test_insns : ∀ e ∈ spelled, decodeInsn e.1 = some e.2 := by decide +kernel
theorem test_insns_refused : ∀ w ∈ [0, 0x01 * 2 ^ 58, 0x02 * 2 ^ 58, 0x10 * 2 ^ 58 + 1, 0x1A * 2 ^ 58 + 3 * 2 ^ 56 + 2 ^ 40, 0x3E * 2 ^ 58], decodeInsn w = none := by
  decide +kernel
/-- An `XFORM` of mode Map. -/
def xformWord : Nat := 0x04 * 2 ^ 58 + 2 ^ 30
theorem wit_fetchInstructions : ((spelled.filter fun e => (e.2.fetchRow 0 blank).isSome).all fun e =>
    decide (found (atInsn e.1) = some e.2) && ((atInsn e.1).lane 0).fetching && decide (((atInsn e.1).stream 5).map (·.emitting) = some false) &&
      decide (((atInsn e.1).stream 5).map (·.xq.length) = some 0)) = true ∧ (spelled.filter fun e => (e.2.fetchRow 0 blank).isSome).length = 13 ∧
    ((found (atInsn xformWord)).bind fun i => i.fetchRow 0 blank) = some (.xform 0 .fetch) ∧ (atInsn 0).works := by
  unfold State.works State.live; decide +kernel
/-- The fetch engine stands at a `WAIT` for count `n` of Halyard 9, relative to cursor 5, whose value is 1. -/
def waiting (n : Nat) : State := withHal (atInsn (0x18 * 2 ^ 58 + 2 ^ 56 + 5 * 2 ^ 53 + 9 * 2 ^ 32 + n)) 9 ⟨1, 0, false, 0, false, 0⟩
theorem wit_fetchInstructions_wait : found (waiting 1) = some (.wait ⟨false, true, 5, 9, 1⟩) ∧
    ((waiting 1).stream 5).map (fun x => ((waiting 1).halMeets ⟨false, true, 5, 9, 1⟩ x.cursors).2) = some true ∧
    ((waiting 2).stream 5).map (fun x => ((waiting 2).halMeets ⟨false, true, 5, 9, 2⟩ x.cursors).2) = some false ∧
    Tbl.get 0 (waiting 1).hal.upset 9 = 0 := by decide +kernel
/-- The cell of the store at which the fetch engine stands fails its check. -/
def spoiltCell : State := { waiting 1 with fw := { (waiting 1).fw with programs := (waiting 1).fw.programs.map fun e => (e.1, { e.2 with bad := [0] }) } }
theorem wit_fetchInstructions_cell : ((spoiltCell.fetchStream 0).map fun e => (spoiltCell.cellBad e.2 e.2.fpc, e.2.emitting)) = some (true, false) ∧
    (spoiltCell.lane 0).fetching = true := by decide +kernel
theorem wit_loopStep : (atInsn (0x02 * 2 ^ 58 + 3 * 2 ^ 55 + 2 ^ 53 + 0xFFFF * 2 ^ 24 + 0x800000)).works ∧
    found (atInsn (0x02 * 2 ^ 58 + 3 * 2 ^ 55 + 2 ^ 53 + 0xFFFF * 2 ^ 24 + 0x800000)) = some (.loop false 3 1 0xFFFF (-8388608)) := by
  unfold State.works State.live; decide +kernel
theorem test_loop : ∃ u, exec (.loop 0) (atInsn (0x02 * 2 ^ 58 + 3 * 2 ^ 55 + 2 ^ 53 + 0xFFFF * 2 ^ 24 + 0x800000)) = .next u ∧
    (u.stream 5).map (fun y => (y.rs.rd.cnt.d3, y.rs.rd.st.d3.d1, y.fpc)) = some (0xFFFF, -8388608, 1) := ⟨_, rfl, by decide +kernel⟩
/-- The execute engine of lane 0 stands at `i`. -/
def atExec (i : FInsn) : State :=
  onLane0 (withStream (withCode ready tiny) { solo with st := .active, armed := true, reserve := [0, 1], fetchEnd := true, xq := [⟨i, 1, 0⟩] })
theorem wit_executeInstructions : ([.scale ⟨0, 0, false, 0, false, 0, 0, 0⟩, .swap true 1, .deadline 7, .phase 63, .xform Xform.start] : List FInsn).all
      (fun i => (i.execRow 0).isSome && decide (((atExec i).execHead 0).map (fun e => e.2.2.i) = some i) && !((atExec i).lane 0).holding &&
        decide (((atExec i).stream 5).map (·.awaitsFit) = some false)) = true ∧ (atExec (.deadline 7)).works := by
  unfold State.works State.live; decide +kernel
theorem wit_executeInstructions_post : ((atExec (.post true 63 7 3)).execHead 0).map (fun e => e.2.2.i) = some (.post true 63 7 3) ∧
    ((atExec (.post true 63 7 3)).lane 0).queue.head? = ((atExec (.post true 63 7 3)).lane 0).execEntry ∧
    ((atExec (.post true 63 7 3)).stream 5).map (fun x => (x.writesOpen, (atExec (.post true 63 7 3)).abandoning 5 x, x.idx)) = some (false, false, 0) ∧
    (atExec (.post true 63 7 3)).hal.evOutQ.length < evOutRoom ∧ (atExec (.post true 63 7 3)).halDead 7 = false := by decide +kernel
theorem wit_executeInstructions_end : ((atExec (.endRun true)).execHead 0).map (fun e => e.2.2.i) = some (.endRun true) ∧
    ((atExec (.endRun false)).stream 5).map (fun x => (x.tl, x.xfers.length, (atExec (.endRun false)).othersEnded 5 x)) = some (none, 0, true) := by
  decide +kernel
/-- The state after a read side on handle 1 and a write side on handle 2, 64 bytes each in byte mode. -/
def sides : RunState :=
  ([.base false 0 false 1 0 0 0, .tile false true 0 1 1 64, .base true 1 false 2 0 0 0, .tile true true 0 1 1 64] : List FInsn).foldl RunState.apply .start
/-- `EMIT`, `DRAIN`, `END`, with the sides set. -/
def transfer : State :=
  onLane0 (withStream (withCode tensors [0x10 * 2 ^ 58, 0x11 * 2 ^ 58, 0x3F * 2 ^ 58])
    { solo with st := .active, armed := true, reserve := [16, 17], rs := sides, xrs := sides })
theorem wit_transfers_emit : transfer.works ∧ found transfer = some .emit ∧ (transfer.lane 0).fetching = true ∧
    (transfer.stream 5).map (fun x => (x.emitting, x.xfers.length, x.xq.length, (transfer.startSource x).isSome)) = some (false, 0, 0, true) := by
  unfold State.works State.live; decide +kernel
/-- The `EMIT` has run. -/
def emitted : State := match exec (.emit 0) transfer with | .next u => u | _ => transfer
theorem wit_transfers_drain : ((emitted.execHead 0).map fun e => (e.2.2.i, (e.2.1.xfer e.2.2.xfer).map fun t => (t.inPlace, t.wrNext, t.wrUnits))) =
      some (.drain, some (false, 0, 1)) ∧ (emitted.lane 0).holding = false ∧ (emitted.stream 5).map (·.awaitsFit) = some false ∧
    (let v := ((emitted.ageRequests 0).modLane 0 fun l => { l with xst := if l.xst ≤ 3 then 2 else l.xst }).modXfer 5 0 fun t =>
        { t with snap := { t.snap with scaleBlock := 0, scaleSlot := 0, scaleRow := 0, prodBlock := 0 } }
     (State.drainUnits 0 5 0 2 v).2 = true ∧ ((State.drainUnits 0 5 0 2 v).1.xferOf 5 0).map (fun e => e.2.rs.scale) = some none) := by decide +kernel
/-- A TL-64 stream at its only descriptor. -/
def tl64 (emitting : Bool) : State :=
  onLane0 (withStream compat0 { solo with tl := some (0, [toWords (List.replicate 7 0 ++ [3 * 65536 + 7])]), st := .active, armed := true, reserve := [0, 1], emitting := emitting })
theorem wit_transfers_tl64 : (tl64 true).works ∧ ((tl64 true).execStream 0).map (·.1) = some 5 ∧ ((tl64 false).lane 0).fetching = true ∧
    ((tl64 true).lane 0).queue.head? = ((tl64 true).lane 0).execEntry ∧ (Tl.of (toWords (List.replicate 7 0 ++ [3 * 65536 + 7]))).add = 3 ∧
    (Tl.of (toWords (List.replicate 7 0 ++ [3 * 65536 + 7]))).hal = 7 := by unfold State.works State.live; decide +kernel

/-! ### Lanes and their queues -/

theorem wit_laneQueues_pause : running0.works ∧ running0.nLanes ≤ (4 : Fin 8).val ∧ running0.physOf 3 = some 3 ∧ running0.logicalOf 3 = some 3 ∧
    (running0.lane 3).stops.contains .hostPause = false := by unfold State.works State.live; decide +kernel
/-- Two descriptors wait on lane 0. -/
def queued : State := { running0 with lanes := [(0, { Lane.reset with queue := [ready.descriptorOf 5, ready.descriptorOf 6] })] }
theorem wit_laneQueues_descriptor : (queued.lane 0).nextEntry = some (ready.descriptorOf 5) ∧ (queued.lane 0).fetching = true ∧
    (queued.fetchEntry 0).isNone = true ∧ (ready.lane 0).execEntry = none ∧ (running0.lane 0).execEntry = some { ready.descriptorOf 5 with begun := true } ∧
    (running0.lane 0).stops = [] ∧ (running0.stream 5).map (fun x => (x.headXfer.isNone, x.emitting, x.runnable)) = some (true, false, true) ∧
    (emitted.stream 5).map (fun x => x.headXfer.isSome) = some true := by decide +kernel
/-- A stream waits for admission. -/
def admission : State := { withStream (withCode ready tiny) { solo with st := .queued, armed := true } with fw := { (withStream (withCode ready tiny) { solo with st := .queued, armed := true }).fw with admitQ := [5] } }
/-- A descriptor whose derived fields differ from their copy. -/
def flawed : State := { queued with lanes := [(0, { Lane.reset with queue := [{ ready.descriptorOf 5 with copy := [4] }] })] }
theorem wit_laneQueues_sound : (ready.descriptorOf 5).sound = true ∧ (flawed.lane 0).nextEntry = some { ready.descriptorOf 5 with copy := [4] } ∧
    ({ ready.descriptorOf 5 with copy := [4] } : DescEntry).sound = false ∧ (flawed.lane 0).fetching = true ∧ (flawed.fetchEntry 0).isNone = true ∧
    (queued.lane 0).queue.any (fun d => decide (d.sctx = 5) && d.begun && !d.ended) = false := by decide +kernel
theorem wit_laneQueues_admission : admission.works ∧ admission.ctl.fwReady = true ∧ admission.fw.admitQ = 5 :: [] ∧
    (admission.reservePlaces [63, 0] 2).isSome = true ∧ ({ admission with fw := { admission.fw with held := [(0, 64 * 1048576)] } } : State).reservePlaces [] 2 = none := by
  unfold State.works State.live; decide +kernel
theorem wit_laneQueues_record : (∀ e ∈ running0.fw.streams, e.2.owed = false ∧ e.2.stats = e.2.statsSent) ∧
    (withStream ready { solo with st := .active, stats := [(1, 1)] }).fw.streams = [(5, { solo with st := .active, stats := [(1, 1)] })] ∧
    (hostBad 2 blank solo.recAddr 192).isSome = false := by decide +kernel
/-- Lane 0 drains after an error. -/
def draining : State := { running0 with lanes := [(0, { Lane.reset with stops := [.error], draining := true, xst := 6 })] }
theorem wit_laneStops : draining.works ∧ (draining.lane 0).draining = true ∧ (draining.lane 0).queue = [] ∧ draining.laneQuiet 0 = true ∧
    Stop.error ∈ (draining.lane 0).stops ∧ (running0.lane 0).draining = false ∧ (running0.lane 0).report = [] ∧
    Stop.error ∈ (draining.lane 0).freshStops ∧ (∀ e ∈ draining.fw.streams, e.2.xfers = []) ∧ (running0.lane 0).holding = false := by unfold State.works State.live; decide +kernel
/-- Lane 0 reports a page fault of context 5. -/
def faulted : State := { running0 with lanes := [(0, { Lane.reset with holding := true, stops := [.page ⟨5, 0xFFFFFFFFFFFFF, true, 3⟩], report := [.held (.page ⟨5, 0xFFFFFFFFFFFFF, true, 3⟩) [] 0 0 0] })] }
theorem wit_laneStops_page : faulted.works ∧ faulted.ctl.fwReady = true ∧ (faulted.stream 5).isSome = true ∧ faulted.ctl.hand = none := by unfold State.works State.live; decide +kernel
/-- The transfer of context 5 has a deadline of 10 ns, and 10 ns have passed. -/
def late (ready_ : Bool) : State :=
  { emitted with
    time := { emitted.time with ns := 10 }
    ctl := { emitted.ctl with fwReady := ready_ }
    fw := { emitted.fw with streams := emitted.fw.streams.map fun (e : Nat × Stream) => (e.1, { e.2 with xfers := e.2.xfers.map fun t => { t with rs := { t.rs with deadline := 10 } } }) } }
theorem wit_laneStops_deadline : (late true).works ∧ ((late true).stream 5).map (fun x => (x.takeMiss (late true).now).isSome) = some true ∧
    ((late true).stream 5).map (fun x => (x.idx, x.missReplied)) = some (0, none) ∧ (emitted.stream 5).map (fun x => (x.takeMiss emitted.now).isSome) = some false ∧
    (late false).ctl.fwReady = false ∧ ({ solo with missUnsent := 1 } : Stream).replyDue 0 = true ∧ solo.replyDue 0 = false ∧ (ready.stream 5).isNone = true := by
  unfold State.works State.live; decide +kernel
/-- Lane 0 waits at a Bunting's skew bound: its transfer goes to Bunting 9, of which member 0 has granted. -/
def skewed : State :=
  { emitted with
    time := { emitted.time with ns := 500 }
    fw := { emitted.fw with
      buntings := [(9, ⟨500, [⟨1, 0, 2, 0, 0, false⟩, ⟨2, 1, 0, 0, 0, false⟩], 0⟩)]
      streams := emitted.fw.streams.map fun (e : Nat × Stream) => (e.1, { e.2 with xfers := e.2.xfers.map fun t =>
        { t with skewFrom := some 0, rs := { t.rs with wr := { t.rs.wr with handle := 9 } } } }) } }
theorem wit_laneStops_skew : skewed.works ∧ (skewed.execStream 0).map (fun e => (e.1, (e.2.headXfer.map fun t => (e.2.handleOf t.rs.wr, t.skewFrom)))) = some (5, some (9, some 0)) ∧
    (skewed.lane 0).stops = [] ∧ 500 ≤ (skewed.now + 2 ^ 64 - 0) % 2 ^ 64 ∧ skewed.memberGrants ⟨1, 0, 2, 0, 0, false⟩ = true ∧
    skewed.memberGrants ⟨2, 1, 0, 0, 0, false⟩ = false ∧ (ready.execStream 0).isNone = true := by unfold State.works State.live; decide +kernel

/-! ### Ports, Plates and dictionaries -/

/-- A build without the sideband, with requests of context 5 at port 1 under tag 4095. -/
def ported (r : ReadReq) (w : WriteReq) : State :=
  { emitted with
    build := { ready.build with sideband := 0 }
    ports := [(1, { Port.reset with reads := [(4095, r)], writes := [(4095, w)] })]
    fw := { emitted.fw with streams := emitted.fw.streams.map fun (e : Nat × Stream) => (e.1, { e.2 with xfers := e.2.xfers.map fun t => { t with outstanding := 2 } }) } }
/-- A read of one or three cells, which one or two beats answer. -/
def oneCell (n : Nat) : ReadReq := ⟨[⟨.cell 0 5 0 4 (2 * n - 1), 4096, 64 * (2 * n - 1)⟩], [], .ok, 0, false⟩
/-- A write of one cell. -/
def oneWrite : WriteReq := ⟨[⟨.store 0 5 0, 4096, List.replicate 64 0, 1, false, 0⟩], 0, false⟩
theorem wit_portsAndPlates : (ported (oneCell 2) oneWrite).works ∧ (1 : Fin 4).val < (ported (oneCell 2) oneWrite).build.cfg.ports ∧
    Tbl.find ((ported (oneCell 2) oneWrite).port 1).reads 4095 = some (oneCell 2) ∧ Tbl.find ((ported (oneCell 1) oneWrite).port 1).reads 4095 = some (oneCell 1) ∧
    Tbl.find ((ported (oneCell 2) oneWrite).port 1).reads 0 = none ∧ Tbl.find ((ported (oneCell 2) oneWrite).port 1).lateR 0 = none ∧
    Tbl.find ((ported (oneCell 2) oneWrite).port 1).writes 4095 = some oneWrite ∧ Tbl.find ((ported (oneCell 2) oneWrite).port 1).writes 0 = none ∧
    Tbl.find ((ported (oneCell 2) oneWrite).port 1).lateW 0 = none ∧ (ported (oneCell 2) oneWrite).build.sideband.getLsbD 1 = false ∧
    ((ported (oneCell 2) oneWrite).port 1).flawIn = false ∧ (ported (oneCell 2) oneWrite).link.rx = [] ∧
    (oneCell 2).nbeat = 2 ∧ (oneCell 1).nbeat = 1 ∧ ((ported (oneCell 2) oneWrite).port 1).waitR = [] ∧ ((ported (oneCell 2) oneWrite).port 1).waitW = [] ∧
    (∀ e ∈ oneWrite.cells, e.owner = .store 0 5 0) ∧ oneWrite.cells ≠ [] ∧ crossRoom 2 15 (Tbl.get [] (ported (oneCell 2) oneWrite).flt.cross 2).length = true ∧
    ((ported (oneCell 2) oneWrite).xferOf 5 0).map (fun e => e.2.outstanding) = some 2 := by unfold State.works State.live; decide +kernel
/-- Firmware writes 32 beats at the start of a 4,096-byte block. -/
def ownWrite : FwReq := ⟨0x1000, 32⟩
theorem wit_portsAndPlates_own : (ported (oneCell 2) oneWrite).portFor ownWrite.addr.toNat = 1 ∧ ownWrite.beats.val ≠ 0 ∧
    ownWrite.addr.toNat / 128 * 128 % 4096 + 128 * ownWrite.beats.val ≤ 4096 := by decide +kernel
/-- Lane 0 loads block 0 of model 3, whose store is handle 2. -/
def loading : State :=
  { ready with
    lanes := [(0, { Lane.reset with loading := some (3, 0, 1) })]
    fw := { ready.fw with models := [(3, ⟨0x11, 1, 2, 0⟩)], tensors := [(2, ⟨{ plateDesc 0x1000 with e := ⟨64, 16, 4, 1⟩, s := ⟨0, 0, 1024, 0⟩, allocLen := 64 }, [], none⟩)] } }
theorem wit_portsAndPlates_weights : (loading.lane 0).loading = some (3, 0, 1) ∧ (loading.blockAddr 3 0).map (·.1) = some 0x1000 ∧ (ready.lane 0).loading = none ∧
    (ready.port 0).expand = [] ∧ (ready.port 0).compress = [] ∧
    (match readCells 64 0x1000 ((loading.modLane 0 fun l => { l with loading := none }).tallyLane 0 plateClass 64) with | (_, .inl _) => true | _ => false) = true := by decide +kernel
/-- A Plate word in error at the end of the scrubber's round. -/
def upset : State := { ready with plate := { ready.plate with upset := [((4095 / 4 * 32 + 31) * 128 + 4095 % 4 * 32 + 31, 2)], scrub := [(31, 4095)] } }
theorem wit_portsAndPlates_scrub : upset.build.cfg.plates = 32 ∧ Tbl.get 0 upset.plate.scrub 31 = 4095 ∧ (∀ w ∈ List.range 32, Tbl.get 0 ready.plate.upset w = 0) := by
  decide +kernel
/-- A coded tensor of one super-tile in host memory, whose transfer reads block 0: its header is in, and port 0 expands its body. -/
def codedDesc : Desc := { plateDesc 0x10000 with loc := 0, coded := true, padw := true, cbook := 2, allocLen := 64 }
def expanding : State :=
  { emitted with
    fw := { emitted.fw with
      tensors := [(1, ⟨codedDesc, [], none⟩), (2, ⟨plateDesc 0x1000, [], none⟩)]
      streams := emitted.fw.streams.map fun (e : Nat × Stream) => (e.1, { e.2 with xfers := e.2.xfers.map fun t =>
        { t with lists := [((Place.host 0x10400).key, .data (blockHeader 1024 1024 2 0 4004437628 ++ List.replicate 48 0) 0)] } }) }
    ports := [(0, { Port.reset with expand := [⟨0, 5, 0, 0, 0, 0, some (List.replicate 1024 0)⟩] })] }
theorem wit_dictionaryBlocks_expand : expanding.works ∧ (expanding.port 0).expand = [⟨0, 5, 0, 0, 0, 0, some (List.replicate 1024 0)⟩] ∧
    ((expanding.codedOf 5 0 0).map fun t => (t.d, t.d.headerAddr 0 0, t.d.blockSize 0)) = some (codedDesc, 0x10400, 1024) ∧
    ((expanding.xferOf 5 0).bind fun e => Tbl.find e.2.lists (Place.host 0x10400).key) =
      some (.data (blockHeader 1024 1024 2 0 4004437628 ++ List.replicate 48 0) 0) ∧
    fieldLE (blockHeader 1024 1024 2 0 4004437628) 2 2 = 1024 ∧ fieldLE (blockHeader 1024 1024 2 0 4004437628) 5 1 = 0 ∧
    fieldLE (blockHeader 1024 1024 2 0 4004437628) 8 4 = 4004437628 := by unfold State.works State.live; decide +kernel
theorem wit_dictionaryBlocks_body : expandBody (expanding.bookBytes 2) ((List.replicate 1024 0).take 1024) 1024 0 = some ⟨List.replicate 1024 0, 0⟩ := by
  rw [expandBody, if_pos rfl, List.take_of_length_le (Nat.le_of_eq List.length_replicate)]
theorem wit_dictionaryBlocks_crc : crc32c (List.replicate 1024 0) = 4004437628 :=
  crc_end _ _ _ (.trans (crc_zeros _ crc_zero 1024 0xFFFFFFFF) (by decide +kernel : _ = 290529667)) (by decide)
/-- Port 0 compresses a block of 128 zero bytes. -/
def compressing (safe : Bool) : State :=
  { emitted with
    flt := { Flt.reset with safe := safe }
    ports := [(0, { Port.reset with compress := [⟨0, 5, 0, 2, 0x10000, 0x10400, List.replicate 128 0, false⟩] })] }
theorem wit_dictionaryBlocks_compress : (compressing false).works ∧ (compressing true).flt.safe = true ∧ ((compressing false).xferOf 5 0).isSome = true ∧
    (State.issueAll (.store 0 5 0) false ((⟨0, 5, 0, 2, 0x10000, 0x10400, List.replicate 128 0, false⟩ : CompressJob).cells (codeBlock ((compressing false).bookBytes 2) (List.replicate 128 0)))
      ((compressing false).modPort 0 fun q => { q with compress := [] })).isSome = true := by unfold State.works State.live; decide +kernel

/-! ### The peer link -/

/-- An open session: this side is chip 2, the peer chip 4; tags 5 and 6 are the split tensors 3 and 4, which lie here. -/
def session : State :=
  { emitted with
    fw := { emitted.fw with tensors := (emitted.fw.tensors.filter fun (e : Nat × Tensor) => decide (e.1 < 3)) ++ [(3, ⟨{ plateDesc 0x8000 with loc := 2, peerTag := 5 }, [0x00], none⟩),
      (4, ⟨{ plateDesc 0x10000 with loc := 2, peerTag := 6, fmt := .int16 }, List.replicate 4 0x00, none⟩)] }
    link := { Link.reset with
      st := 2, trains := 1, peerCtr := 1, dmac := 4, smac := 2, reads := [(7, ⟨⟨0, 5, 0, 1⟩, [4], 0, 0⟩)]
      retry := [(0, ⟨5, 0, toBytes 9 4 ++ toBytes 3 4, [], false, [⟨0, 5, 0, 1⟩]⟩)], seq := 1 } }
/-- The peer's link, which sends with the acknowledgements given. -/
def peer (rcv cmp : BitVec 16) : Link := { Link.reset with st := 2, trains := 1, peerCtr := 1, dmac := 2, smac := 4, rcv := rcv, cmp := cmp }
/-- A frame of the peer that acknowledges nothing new. -/
def sent (type seq tag : Nat) (spec payload : List Byte) : List Byte := linkFrame (peer 0xFFFF 0xFFFF) type seq tag false false spec payload false
/-- The beats of a frame (R392). -/
def framed (b : List Byte) : Frame :=
  ⟨(List.range ((b.length + 63) / 64)).map fun i => ⟨slice b (64 * i) 64 ++ zeros (64 * (i + 1) - b.length), min 64 (b.length - 64 * i)⟩, false⟩
/-- The parts of a frame that passes the checks of Table LINK-4. -/
def parts (s : State) (b : List Byte) (p : RxHead → Bool) : Bool :=
  decide (etherType (untag (framed b).bytes) = s.link.etype.toNat) && match s.screen (framed b) false with | .inr h => p h | .inl _ => false
theorem wit_transportFrames : session.works ∧ session.link.up = true ∧ session.link.rx = [] ∧ session.link.waitQ = [] ∧ session.link.open_ = none ∧
    parts session (sent 0 0 0 [] []) (fun h => decide (h.type = 0) && !bitOn h.flags 0 && decide (h.rcv = 0xFFFF) && decide (h.cmp = 0xFFFF)) = true ∧
    parts session (sent 5 0 0 (toBytes 9 4 ++ toBytes 0xFFFF 4) []) (fun h => decide (h.type = 5) && decide (h.seq = (session.link.rcv + 1).toNat) &&
      decide (bits (h.word 0) 14 0 = 9) && decide (bits (h.word 1) 15 0 = 0xFFFF)) = true ∧
    parts session (sent 5 1 0 (toBytes 9 4 ++ toBytes 1 4) []) (fun h => decide (h.seq ≠ (session.link.rcv + 1).toNat)) = true := by
  unfold State.works State.live; decide +kernel
/-- A `ROWS` frame of row 0 of tag 6: 64 narrow elements of kind 0. -/
def rowsSent : List Byte := sent 2 0 6 (toBytes 0 4 ++ toBytes (64 * 65536) 4) (List.replicate 64 0x80)
theorem wit_transportFrames_rows : parts session rowsSent (fun h => decide (h.type = 2) && decide (h.seq = (session.link.rcv + 1).toNat) &&
      (match session.tagged h.tag with
        | some t => match h.rowsWrites t with
          | some ((a, _, _) :: _) => (session.port (session.portFor a)).writeTag.isSome
          | _ => false
        | none => false)) = true ∧ session.flt.safe = false := by decide +kernel
theorem wit_transportFrames_read : parts session (sent 3 0 5 (toBytes 0 4 ++ toBytes (15 * 65536) 4) []) (fun h => decide (h.type = 3) &&
      decide (((session.tagged h.tag).bind fun t => t.cellRun (h.word 0) (bits (h.word 1) 11 0) (bits (h.word 1) 22 16 + 1)) = some 0x8000)) = true ∧
    (session.port (session.portFor 0x8000)).readTag.isSome = true := by decide +kernel
theorem wit_transportFrames_status : parts session (sent 6 0 0 (toBytes 0 4 ++ toBytes 1 4) []) (fun h => decide (h.type = 6) &&
      decide (bits (h.word 0) 15 0 = 0)) = true ∧
    (Tbl.find session.link.retry 0).map TxFrame.owners = some [⟨0, 5, 0, 1⟩] := by decide +kernel
theorem wit_transportFrames_write : parts session (sent 1 0 5 (toBytes 0 4 ++ toBytes 15 4 ++ toBytes (2 ^ 64 - 1) 8 ++ toBytes 0 8) (List.replicate 64 7)) (fun h =>
      decide (h.type = 1) && decide (h.payload.length = 64) && decide (((session.tagged h.tag).bind fun t => t.cellRun (h.word 0) (bits (h.word 1) 11 0) 1) = some 0x83C0)) = true ∧
    ((session.port (session.portFor 0x83C0)).writeTag).isSome = true := by decide +kernel
theorem wit_transportFrames_rdata : parts session (sent 4 0 0 (toBytes 7 4 ++ toBytes 0 4) (List.replicate 64 7)) (fun h =>
      decide (h.type = 4) && decide (h.payload.length = 64) && decide (bits (h.word 0) 15 0 = 7)) = true ∧
    Tbl.find session.link.reads 7 = some ⟨⟨0, 5, 0, 1⟩, [4], 0, 0⟩ ∧ (session.xferOf 5 0).isSome = true := by decide +kernel
/-- An `ACK` that acknowledges and covers frame 0. -/
def acking : List Byte := linkFrame (peer 0 0) 0 0 0 false false [] [] false
theorem wit_transportFrames_ack : parts session acking (fun h => decide (h.rcv = 0) && decide (h.cmp = 0) &&
    decide ((BitVec.ofNat 16 h.rcv - session.link.peerRcv).toNat ≤ (session.link.seq - 1 - session.link.peerRcv).toNat) &&
    decide ((BitVec.ofNat 16 h.cmp - session.link.peerCmp).toNat ≤ (BitVec.ofNat 16 h.rcv - session.link.peerCmp).toNat)) = true := by decide +kernel
theorem wit_transportFrames_foreign : etherType (untag (framed (zeros 68)).bytes) ≠ session.link.etype.toNat ∧ (linked 0).link.up = false ∧ (linked 0).link.st ≠ 1 := by
  decide +kernel
theorem wit_transportFrames_nak : parts session (linkFrame (peer 0xFFFF 0xFFFF) 0 0 0 true false [] [] false) (fun h =>
    decide (h.type = 0) && bitOn h.flags 0 && decide (h.rcv = session.link.peerRcv.toNat) && decide (h.cmp = session.link.peerCmp.toNat)) = true := by decide +kernel
/-- Training, with the peer's `HELLO` and series flag as given. -/
def training (reduced : Bool) : State := { session with link := { Link.reset with st := 1, trains := 3, peerCtr := 1, dmac := 4, smac := 2, peerReduced := reduced } }
/-- A frame that the MAC marks. -/
def marked (b : List Byte) : Frame := { framed b with marked := true }
theorem wit_transportFrames_full : (training false).link.up = false ∧ (RxHead.of (untag (framed (sent 5 0 0 (zeros 8) [])).bytes)).type = 5 ∧
    etherType (untag (framed (sent 5 0 0 (zeros 8) [])).bytes) = (training false).link.etype.toNat ∧ (training false).link.ingressUsed + 9216 ≤ 16384 ∧
    (marked (sent 3 0 0 (zeros 8) [])).bad = true ∧ (RxHead.of (untag (marked (sent 3 0 0 (zeros 8) [])).bytes)).type = 3 ∧
    (framed ((sent 5 0 0 (zeros 8) []).take 67)).bad = false ∧ (untag (framed ((sent 5 0 0 (zeros 8) []).take 67)).bytes).length < 68 ∧
    (RxHead.of (untag (framed ((sent 5 0 0 (zeros 8) []).take 67)).bytes)).type = 5 ∧
    etherType (untag (framed ((sent 5 0 0 (zeros 8) []).take 67)).bytes) = (training false).link.etype.toNat := by decide +kernel
theorem wit_transportFrames_crowded : 16384 < ({ session with link := { session.link with rx := [{ (⟨0, 1, 0, 0, 0, 0, 5, 0, 1, [], []⟩ : RxHead).accepted 9 with
    todoW := List.replicate 113 (0, [], 0) }] } } : State).link.ingressUsed + 9216 := by decide +kernel
/-- A `TRAIN` frame (Table LINK-3): its `OP`, the sender's counter and the counter it echoes. -/
def train (op own back : Nat) (payload : List Byte) : List Byte :=
  sent 7 0 0 ([BitVec.ofNat 8 op, 0, 0, 0] ++ toBytes own 2 ++ toBytes back 2 ++ toBytes 0 4) payload
theorem wit_linkSession_hello : (training false).works ∧ parts (training false) (train 0 1 2 []) (fun h => decide (h.type = 7) && decide (bits (h.word 0) 1 0 = 0) &&
      decide (h.field 6 2 ≠ (training false).link.trains.toNat)) = true ∧
    parts session (train 0 1 1 []) (fun h => decide (h.field 4 2 = session.link.peerCtr.toNat)) = true ∧
    parts session (train 0 2 1 []) (fun h => decide (h.field 4 2 ≠ session.link.peerCtr.toNat)) = true ∧
    parts session (train 2 1 1 []) (fun h => decide (bits (h.word 0) 1 0 = 2)) = true ∧
    parts (training false) (train 2 1 1 []) (fun h => decide (bits (h.word 0) 1 0 = 2)) = true := by unfold State.works State.live; decide +kernel
/-- An open session with `n` retries run out in a row. -/
def retried (n : Nat) (q : List TxFrame) : State := { session with link := { session.link with expiries := n, seq := if n = 0 then 0 else 1, retry := if n = 0 then [] else session.link.retry, waitQ := q } }
theorem wit_linkSession_retry : (retried 0 []).link.sentOpen = false ∧ (retried 7 []).link.sentOpen = true ∧ (retried 6 []).link.sentOpen = true ∧
    (retried 6 []).link.expiries < 7 ∧ session.link.open_ = none := by decide +kernel
/-- A `WRITE` frame is open. -/
def opened : State := { session with link := { session.link with open_ := some ⟨0, 5, 0, 15, [List.replicate 64 7], beAll, beAll, false, [⟨0, 5, 0, 1⟩]⟩ } }
theorem wit_linkSession_close : opened.link.up = true ∧ opened.link.open_.isSome = true ∧ opened.link.waitQ = [] ∧ opened.link.window = true ∧
    opened.link.flawCell = false := by decide +kernel
theorem wit_linkSession_timers : ({ session with pins := { session.pins with plLinkUp := false } } : State).link.up = true ∧
    session.pins.plLinkUp = true ∧ (linked 0).link.st ≠ 1 ∧ (linked 0).link.up = false ∧
    ({ training false with ctl := { ready.ctl with hand := some (.waiting 7 0x70 .linkUp) } } : State).ctl.hand = some (.waiting 7 0x70 .linkUp) ∧
    ({ session with ctl := { ready.ctl with hand := some (.waiting 7 0x71 .linkDown) } } : State).ctl.hand = some (.waiting 7 0x71 .linkDown) ∧ ready.ctl.hand = none := by
  decide +kernel
/-- A PTP `Sync` event message in an Ethernet frame, and a plain frame. -/
def sync : List Byte := zeros 12 ++ [0x88, 0xF7, 0x00, 0x02, 0x00, 0x2C] ++ zeros 60
/-- The MAC-to-host queue holds a `Sync` that came in while the unit was locked, or 7,169 bytes. -/
def passing : State := { started with
  time := { Time.reset with run := true, tclkOk := true, tsLock := true }, link := { Link.reset with toHost := [⟨sync, 0, true⟩] } }
def crowded : State := { started with link := { Link.reset with toHost := [⟨zeros 7169, 0, false⟩], toMac := [⟨zeros 7169, 0, false⟩] } }
theorem wit_passThrough : started.works ∧ started.isTransport (framed (zeros 64)).bytes = false ∧ started.isTransport (framed (sent 0 0 0 [] [])).bytes = true ∧
    (marked (zeros 64)).bad = true ∧ (framed (zeros 64)).bad = false ∧ (framed (zeros 64)).bytes.length ≤ 9216 ∧ started.isTransport (marked (zeros 64)).bytes = false ∧
    passRoom started.link.toHost = true ∧ passRoom started.link.toMac = true ∧
    passing.corrects sync = true ∧ passing.link.choose = .none ∧ passing.link.sending = none ∧ started.corrects sync = false ∧ ptpEvent (zeros 64) = false ∧
    ptpEvent sync = true ∧ session.corrects sync = false := by
  unfold State.works State.live; decide +kernel
theorem wit_passThrough_full : passRoom crowded.link.toHost = false ∧ passRoom crowded.link.toMac = false := by decide +kernel
/-- A frame of 9,280 bytes. -/
def longFrame : Frame := ⟨List.replicate 145 ⟨zeros 64, 64⟩, false⟩
theorem wit_passThrough_long : 9216 < longFrame.bytes.length ∧ longFrame.bad = false :=
  ⟨by rw [Frame.bytes, longFrame, List.length_flatMap, List.map_replicate]; decide +kernel, by decide +kernel⟩
theorem wit_passThrough_turns : ({ session.link with ackQ := [true], toMac := [⟨sync, 0, true⟩], txQ := [.train 0] } : Link).choose = .ack true ∧
    ({ session.link with toMac := [⟨sync, 0, true⟩], txQ := [.train 0], hostTurn := true } : Link).choose = .host ⟨sync, 0, true⟩ := by decide +kernel
/-- Everything of the peer's first `PROBE` before its payload: Ethernet and transport header. -/
def probeHead : List Byte := (linkFrame (peer 0xFFFF 0xFFFF) 7 0 0 false false ([1, 0, 0, 0] ++ toBytes 1 2 ++ toBytes 3 2 ++ toBytes 0 4) [] false).take 24 ++
  toBytes 8192 2 ++ ((linkFrame (peer 0xFFFF 0xFFFF) 7 0 0 false false ([1, 0, 0, 0] ++ toBytes 1 2 ++ toBytes 3 2 ++ toBytes 0 4) [] false).drop 26).take 38
/-- The `PROBE`, with its `FCRC`. -/
def probe : List Byte := probeHead ++ probePayload ++ toBytes (crc32c (probeHead.drop 14 ++ probePayload)) 4
theorem probe_head_length : probeHead.length = 64 := by decide +kernel
theorem probe_payload_length : probePayload.length = 8192 := by rw [probePayload, List.length_map, List.length_range]
theorem probe_length : probe.length = 8260 := by
  rw [probe, List.length_append, List.length_append, probe_head_length, probe_payload_length]; rfl
theorem probe_untagged : untag probe = probe := by rw [untag, if_neg (by decide +kernel)]
theorem probe_payload : slice probe 64 8192 = probePayload := by
  have e : probe.drop 64 = probePayload ++ toBytes (crc32c (probeHead.drop 14 ++ probePayload)) 4 := by
    rw [probe, List.append_assoc, ← probe_head_length, List.drop_left]
  rw [slice, e, ← probe_payload_length, List.take_left]
theorem crc_bits_lt (n : Nat) : ∀ c, c < 2 ^ 32 → crc32cBits n c < 2 ^ 32 := by
  induction n with
  | zero => intro c h; exact h
  | succ n ih =>
    intro c h
    refine ih _ ?_
    unfold crc32cBit
    split
    · exact Nat.xor_lt_two_pow (by omega) (by decide)
    · omega
theorem crc_run_lt (b : List Byte) : ∀ c, c < 2 ^ 32 → crc32cRun c b < 2 ^ 32 := by
  induction b with
  | nil => intro c h; exact h
  | cons x b ih => intro c h; exact ih _ (crc_bits_lt 8 _ (Nat.xor_lt_two_pow h (Nat.lt_of_lt_of_le x.isLt (by decide))))
theorem crc_lt (b : List Byte) : crc32c b < 2 ^ 32 := Nat.xor_lt_two_pow (crc_run_lt b _ (by decide)) (by decide)
theorem four_bytes (c : Nat) (h : c < 2 ^ 32) : ofBytes (toBytes c 4) = c := by
  simp only [toBytes, ofBytes, BitVec.toNat_ofNat]; omega
theorem four_take (c : Nat) : (toBytes c 4).take 4 = toBytes c 4 := rfl
theorem probe_fcrc : fcrcOk probe = true := by
  have e : probe = probeHead.take 14 ++ (probeHead.drop 14 ++ probePayload) ++ toBytes (crc32c (probeHead.drop 14 ++ probePayload)) 4 := by
    rw [← List.append_assoc, List.take_append_drop, probe]
  have h14 : (probeHead.take 14).length = 14 := by rw [List.length_take, probe_head_length]; rfl
  have hm : (probeHead.drop 14 ++ probePayload).length = 8242 := by
    rw [List.length_append, List.length_drop, probe_head_length, probe_payload_length]
  have hs : slice probe 14 8242 = probeHead.drop 14 ++ probePayload := by
    rw [slice, e, List.append_assoc, List.drop_append_of_le_length (Nat.le_of_eq h14.symm), List.drop_of_length_le (Nat.le_of_eq h14), List.nil_append, ← hm,
      List.take_left]
  have hf : fieldLE probe 8256 4 = crc32c (probeHead.drop 14 ++ probePayload) := by
    rw [fieldLE, slice, e, List.drop_left' (by rw [List.length_append, h14, hm]), four_take, four_bytes _ (crc_lt _)]
  rw [fcrcOk, probe_length, hs, hf, decide_eq_true rfl]
/-- A frame that passes every check of Table LINK-4. -/
theorem screen_accepts (s : State) (f : Frame) (b : List Byte) (h0 : f.bad = false) (hb : f.bytes = b) (hr : decide (16384 < s.link.ingressUsed + 9216) = false)
    (h1 : untag b = b) (h2 : ¬ (b.length < 68 ∨ b.length > 8260 ∨ (RxHead.of b).plen ≠ b.length - 68))
    (h3 : s.link.headerOk b (RxHead.of b) = true) (h4 : fcrcOk b = true) : s.screen f false = .inr (RxHead.of b) := by
  unfold State.screen
  rw [hb, h1, hr, Bool.or_false, if_neg Bool.false_ne_true, h0, if_neg Bool.false_ne_true, if_neg h2, h3, h4]
  rfl
theorem payload_of (b : List Byte) : (RxHead.of b).payload = slice b 64 (b.length - 68) := by simp only [RxHead.of]
theorem probe_parts : (RxHead.of probe).payload = probePayload := by rw [payload_of, probe_length]; exact probe_payload
/-- The `PROBE` as 129 whole beats and one of 4 bytes. -/
def probeFrame : Frame := ⟨(List.range 129).map (fun i => ⟨slice probe (64 * i) 64, 64⟩) ++ [⟨probe.drop 8256 ++ zeros 60, 4⟩], false⟩
theorem cut_beats (l : List Byte) : ∀ k, 64 * k ≤ l.length → ((List.range k).map fun i => slice l (64 * i) 64).flatten = l.take (64 * k) := by
  intro k
  induction k with
  | zero => intro; simp
  | succ k ih =>
    intro h
    rw [List.range_succ, List.map_append, List.flatten_append, ih (by omega), Nat.mul_add, List.take_add]
    simp [slice]
theorem probe_frame_bytes : probeFrame.bytes = probe := by
  have e : (List.range 129).flatMap (fun i => (slice probe (64 * i) 64).take 64) = probe.take 8256 := by
    rw [← cut_beats probe 129 (by rw [probe_length]; decide), List.flatMap_def]
    exact congrArg List.flatten (List.map_congr_left fun i _ => List.take_of_length_le (List.length_take_le _ _))
  have d : (probe.drop 8256 ++ zeros 60).take 4 = probe.drop 8256 := List.take_left' (by rw [List.length_drop, probe_length])
  rw [Frame.bytes, probeFrame, List.flatMap_append, List.flatMap_map, e, List.flatMap_singleton, d, List.take_append_drop]
theorem probe_frame_good : probeFrame.bad = false := by
  simp [Frame.bad, Frame.wellFormed, probeFrame]
theorem wit_linkSession_probe : (training false).screen probeFrame false = .inr (RxHead.of probe) := by
  refine screen_accepts _ _ probe probe_frame_good probe_frame_bytes (by decide +kernel) probe_untagged ?_ ?_ probe_fcrc
  · rw [probe_length]; decide +kernel
  · simp only [Link.headerOk, Bool.and_eq_true, decide_eq_true_eq, Bool.or_eq_true, RxHead.shapeOk, probe_parts, probe_payload_length]
    decide +kernel
theorem wit_linkSession_probe_fields : (RxHead.of probe).type = 7 ∧ bits ((RxHead.of probe).word 0) 1 0 = 1 ∧ (training false).link.st = 1 ∧
    (RxHead.of probe).field 4 2 = (training false).link.peerCtr.toNat ∧ bitOn ((RxHead.of probe).word 0) 8 = (training false).link.peerReduced ∧
    (training false).link.peerIntact < 255 ∧ etherType (untag probe) = (training false).link.etype.toNat := by decide +kernel

/-! ### Well-formed operands: an ill-formed term for each check -/

theorem test_wf_order : Instr.wf (.attach ⟨[(2, 1), (1, 1)], [], []⟩) = false := by decide
theorem test_wf_zero : Instr.wf (.attach ⟨[(1, 0)], [], []⟩) = false := by decide
theorem test_wf_address : Instr.wf (.attach ⟨[(2 ^ 52, 1)], [], []⟩) = false := by decide
theorem test_wf_bad_order : Instr.wf (.detach ⟨[], [(2, 1, .fail)], []⟩) = false := by decide
theorem test_wf_bad_address : Instr.wf (.detach ⟨[], [(0, 2 ^ 52, .fail)], []⟩) = false := by decide
theorem test_wf_bad_ok : Instr.wf (.detach ⟨[], [(0, 1, .ok)], []⟩) = false := by decide
theorem test_wf_port_ok : Instr.wf (.detach ⟨[], [], [(3, .ok)]⟩) = false := by decide
theorem test_wf_view : Instr.wf (.detach ⟨[(1, 1), (2 ^ 52 - 1, 1)], [(0, 2 ^ 52 - 1, .poison)], [(3, .decode)]⟩) = true := by decide
theorem test_wf_frame_empty : Instr.wf (.ackFrame ⟨[], false⟩ false) = false := by decide
theorem test_wf_frame_beat : Instr.wf (.macPassThrough ⟨[⟨List.replicate 63 0, 63⟩], false⟩) = false ∧
    Instr.wf (.hostPassThrough ⟨[⟨List.replicate 64 0, 65⟩], true⟩) = true := by decide
theorem test_wf_rows : Instr.wf (.bootStepDone ⟨true, 2 ^ 16, 0, []⟩ blank) = false := by decide
theorem test_wf_monitors : Instr.wf (.bootStepDone ⟨true, 0, 0, [1]⟩ blank) = false := by decide
theorem test_wf_boot_view : Instr.wf (.bootStepDone ⟨true, 0, 0, []⟩ ⟨[(1, 0)], [], []⟩) = false := by decide
theorem test_wf_places : Instr.wf (.streamAdmission [0, 256]) = false ∧ Instr.wf (.streamAdmission [255, 255]) = true := by decide
theorem test_wf_sensors : Instr.wf (.sensorSample (List.replicate 43 0) blank) = false ∧ Instr.wf (.sensorSample (List.replicate 44 0) blank) = true := by decide
theorem test_wf_wear : Instr.wf (.wearMeasurement 0 (List.replicate 123 0) blank) = false ∧ Instr.wf (.wearMeasurement 0 (List.replicate 124 0) blank) = true := by
  decide +kernel
theorem test_wf_crossings : Instr.wf (.burgee [.aclk, .aclk] none blank) = false ∧ Instr.wf (.burgee [.cclk, .cclk, .pclk 0, .pclk 1] none blank) = true := by decide
/-- A beat rule of R392 broken: a beat that is not the last carries fewer than 64 bytes. -/
theorem test_frame_short_beat : (⟨[⟨List.replicate 64 0, 63⟩, ⟨List.replicate 64 0, 1⟩], false⟩ : Frame).bad = true := by decide

/-! ### The table gives no row any bits -/

theorem test_decode : decodeTableWord 32 0x01 = none := rfl
theorem test_withFetchWord : State.reset.withFetchWord 32 0x01 = State.reset := rfl
/-- CRC-32C of the nine digits (the check value of the polynomial in R382). -/
theorem test_crc32c : crc32c ([0x31, 0x32, 0x33, 0x34, 0x35, 0x36, 0x37, 0x38, 0x39] : List Byte) = 0xE3069283 := by decide +kernel

end Sys2Proof.Tests
end

section
/-! SUPPORT. Four values read back after one is replaced; one side read back after one is replaced; what `LOOP` leaves in a side (R83). -/
namespace Sys2Proof

@[simp] theorem V4.at_all {α : Type} (x : α) (d : Nat) : (V4.all x).at d = x := by
  unfold V4.at; split <;> rfl

@[simp] theorem V4.at_put_same {α : Type} (v : V4 α) (d : Nat) (x : α) : (v.put d x).at d = x := by
  unfold V4.put; split <;> simp [V4.at]

theorem V4.at_put_other {α : Type} (v : V4 α) {d e : Nat} (x : α) (hd : d < 4) (he : e < 4) (h : e ≠ d) : (v.put d x).at e = v.at e := by
  interval_cases d <;> interval_cases e <;> simp [V4.put, V4.at] at h ⊢

@[simp] theorem RunState.side_setSide_same (r : RunState) (w : Bool) (a : Side) : (r.setSide w a).side w = a := by
  cases w <;> rfl

@[simp] theorem RunState.side_setSide_not (r : RunState) (w : Bool) (a : Side) : (r.setSide w a).side (!w) = r.side !w := by
  cases w <;> rfl

namespace Side
variable {a : Side} {level dim count : Nat} {step : Int}

theorem loop_cnt_same : (a.loop level dim count step).cnt.at level = count := V4.at_put_same ..

theorem loop_step_same : ((a.loop level dim count step).st.at level).at dim = step := by simp [loop]

/-- With the count that the level had, its other steps stand; with another they are 0. -/
theorem loop_step_other {d : Nat} (hdim : dim < 4) (hd : d < 4) (h : d ≠ dim) :
    ((a.loop level dim count step).st.at level).at d = if count = a.cnt.at level then (a.st.at level).at d else 0 := by
  simp only [loop, V4.at_put_same, V4.at_put_other _ step hdim hd h]
  split <;> simp

theorem loop_tix : (a.loop level dim count step).tix = if level = 3 ∧ count ≠ a.cnt.at 3 then 0 else a.tix := by
  by_cases h : level = 3
  · subst h; rfl
  · simp [loop, h]

theorem loop_level_other {l : Nat} (hlevel : level < 4) (hl : l < 4) (h : l ≠ level) :
    (a.loop level dim count step).cnt.at l = a.cnt.at l ∧ (a.loop level dim count step).st.at l = a.st.at l :=
  ⟨V4.at_put_other _ _ hlevel hl h, V4.at_put_other _ _ hlevel hl h⟩

end Side

/-- The sides of `t` are those of `r` but for their swap kinds. -/
def RunState.SidesKept (r t : RunState) : Prop := ∀ w, ∃ k, t.side w = { r.side w with swap := k }

theorem RunState.SidesKept.refl (r : RunState) : r.SidesKept r := fun w => ⟨(r.side w).swap, rfl⟩

theorem RunState.SidesKept.trans {r t u : RunState} (h : r.SidesKept t) (h' : t.SidesKept u) : r.SidesKept u := fun w => by
  obtain ⟨j, hj⟩ := h w
  obtain ⟨k, hk⟩ := h' w
  exact ⟨k, by rw [hk, hj]⟩

/-- Of the instructions that the fetch engine passes on without performing them (Table FYUSH-1), only `SWAP` of the write side touches a side. -/
theorem RunState.sidesKept_apply (r : RunState) (i : FInsn) (h : i.fetches = false) : r.SidesKept (r.apply i) := by
  cases i with
  | drain | post | deadline => exact RunState.SidesKept.refl r
  | swap side k =>
    cases side with
    | false => cases h
    | true => exact fun w => by cases w <;> exact ⟨_, rfl⟩
  | _ => cases h

end Sys2Proof

/-! SUPPORT. What the fetch engine does when it performs an instruction, and what passing the following ones on leaves (R108). -/
namespace Sys2Proof.Machine

/-- What every passed-on instruction keeps holds after passing on: the one induction over `State.passN`. -/
theorem State.passN_induct {P : State → Prop} (c : Nat)
    (step : ∀ (t : State) (x : Stream) (i : FInsn) (pc : Nat) (reps : List Rep), P t → t.stream c = some x → i.fetches = false →
      P (t.setStream c { x with fpc := pc, reps := reps, rs := x.rs.apply i, xq := x.xq ++ [⟨i, x.fpc, 0⟩] })) :
    ∀ (n : Nat) (s : State), P s → P (State.passN c n s) := by
  intro n
  induction n with
  | zero => exact fun _ h => h
  | succ n ih =>
    intro s h
    unfold State.passN
    split
    · exact h
    next x hx =>
      split
      · exact h
      split
      · exact h
      next i _ =>
        split
        · exact h
        next hi => exact ih _ (step s x i _ _ h hx (by simpa using hi))

theorem State.passOn_induct {P : State → Prop} (p : Nat) {s : State}
    (step : ∀ (t : State) (c : Nat) (x : Stream) (i : FInsn) (pc : Nat) (reps : List Rep), P t → t.stream c = some x → i.fetches = false →
      P (t.setStream c { x with fpc := pc, reps := reps, rs := x.rs.apply i, xq := x.xq ++ [⟨i, x.fpc, 0⟩] })) (h : P s) : P (s.passOn p) := by
  unfold State.passOn
  split
  next c _ _ =>
    split
    · exact h
    · exact State.passN_induct c (fun t => step t c) 64 s h
  · exact h

theorem State.passOn_plate (s : State) (p : Nat) : (s.passOn p).plate = s.plate :=
  State.passOn_induct (P := fun t => t.plate = s.plate) p (fun _ _ _ _ _ _ h _ _ => h) rfl

theorem State.passOn_hal (s : State) (p : Nat) : (s.passOn p).hal = s.hal :=
  State.passOn_induct (P := fun t => t.hal = s.hal) p (fun _ _ _ _ _ _ h _ _ => h) rfl

theorem State.passOn_sidesKept {s : State} {c : Nat} {x : Stream} (p : Nat) (hx : s.stream c = some x) :
    ∃ y, (s.passOn p).stream c = some y ∧ x.rs.SidesKept y.rs := by
  refine State.passOn_induct (P := fun t => ∃ y, t.stream c = some y ∧ x.rs.SidesKept y.rs) p ?_ ⟨x, hx, .refl _⟩
  rintro t d z i pc reps ⟨y, hy, hk⟩ hz hi
  by_cases hd : c = d
  · subst hd
    obtain rfl : z = y := Option.some.inj (hz.symm.trans hy)
    exact ⟨_, State.stream_setStream_same .., hk.trans (RunState.sidesKept_apply _ i hi)⟩
  · exact ⟨y, (State.stream_setStream_other t _ hd).trans hy, hk⟩

/-- The fetch engine performs the instruction at its counter, one that the execute engine does not perform too, and passes on. -/
theorem fetchInsn_performs {s : State} {p c : Nat} {x : Stream} {i : FInsn} {is : FInsn → Bool} (hx : s.fetchStream p = some (c, x))
    (hi : s.insnAt x x.fpc = some i) (his : is i = true) (hl : (s.lane p).fetching = true) (he : x.emitting = false)
    (hq : i.executes = false) : fetchInsn p is s = (s.setStream c (x.performFetch i)).passOn p := by
  simp [fetchInsn, hx, hi, his, hl, he, hq]

/-- The stream's sides are then as the instruction leaves them, but for the swap kinds that passing on may set; memory and Halyards stand. -/
theorem fetchInsn_frame {s : State} {p c : Nat} {x : Stream} {i : FInsn} {is : FInsn → Bool} (hx : s.fetchStream p = some (c, x))
    (hi : s.insnAt x x.fpc = some i) (his : is i = true) (hl : (s.lane p).fetching = true) (he : x.emitting = false)
    (hq : i.executes = false) :
    ∃ y, (fetchInsn p is s).stream c = some y ∧ (x.rs.apply i).SidesKept y.rs ∧ (fetchInsn p is s).plate = s.plate ∧
      (fetchInsn p is s).hal = s.hal := by
  rw [fetchInsn_performs hx hi his hl he hq]
  obtain ⟨y, hy, hk⟩ := State.passOn_sidesKept p (State.stream_setStream_same s c (x.performFetch i))
  exact ⟨y, hy, hk, State.passOn_plate .., State.passOn_hal ..⟩

/-- Settles O51: the fetch engine applies `Side.loop` to the side, and what it passes on after it leaves both nests as they are. -/
theorem loopStep : Obligations.LoopStep := by
  intro s lane c x w level dim count step hs hx hi hl he hlevel hdim
  obtain ⟨y, hy, hk, hplate, hhal⟩ := fetchInsn_frame (is := fun | .loop .. => true | _ => false) hx hi rfl hl he rfl
  obtain ⟨k, hside⟩ := hk w
  obtain ⟨k', hother⟩ := hk !w
  simp only [RunState.apply, RunState.side_setSide_same] at hside
  simp only [RunState.apply, RunState.side_setSide_not] at hother
  refine ⟨_, y, running_works _ hs, hy, ?_⟩
  rw [hside, hother]
  dsimp only
  exact ⟨Side.loop_cnt_same, Side.loop_step_same, fun _ => Side.loop_step_other hdim, Side.loop_tix, fun _ => Side.loop_level_other hlevel,
    rfl, rfl, rfl, rfl, rfl, rfl, hplate, hhal⟩

end Sys2Proof.Machine
end

section
/-! SUPPORT. What placing a frame in egress can change (R271, R273, R278, R334), and so what a relayed add can (R229). -/
namespace Sys2Proof.Machine

theorem State.safeShape_withhold (s : State) (f : TxFrame) : s.SafeShape (s.withhold f) := by
  refine foldl_keeps (fun u => s.SafeShape u) _ (fun u o hu => hu.trans (u.safeShape_modStream o.sctx _)) f.owners _ ?_
  refine State.SafeShape.trans ?_ (State.safeShape_raise _ _)
  rfl

/-- Each frame that leaves is sent or withheld. -/
theorem State.safeShape_pumpN (n : Nat) : ∀ s : State, s.SafeShape (s.pumpN n) := by
  induction n with
  | zero => exact State.SafeShape.refl
  | succ n ih =>
    intro s
    unfold State.pumpN
    split
    · rfl
    next f rest _ =>
      split
      · refine State.SafeShape.trans ?_ (ih _)
        split
        · refine State.SafeShape.trans ?_ (State.safeShape_withhold _ f)
          rfl
        · rfl
      · rfl

theorem State.safeShape_closeWrite (s : State) : s.SafeShape s.closeWrite := by
  unfold State.closeWrite
  split
  · rfl
  · refine State.SafeShape.trans ?_ (State.safeShape_pumpN _ _)
    rfl

theorem State.safeShape_egress (s : State) (f : TxFrame) : s.SafeShape (s.egress f) := by
  have hclose : s.SafeShape (if f.type = 5 ∨ f.type = 2 then s.closeWrite else s) := by
    split
    · exact s.safeShape_closeWrite
    · rfl
  refine hclose.trans (State.SafeShape.trans ?_ (State.safeShape_pumpN _ _))
  rfl

theorem State.safeShape_relayAdd (s : State) (i a : Nat) : s.SafeShape (s.relayAdd i a) := by
  unfold State.relayAdd
  split
  · exact s.safeShape_egress _
  · rfl

@[simp] theorem State.relayAdd_hal (s : State) (i a : Nat) : (s.relayAdd i a).hal = s.hal := by rw [s.safeShape_relayAdd i a]

end Sys2Proof.Machine
end

section
/-! SUPPORT. The words that an add and a set of a Halyard leave (R217, R218), and a Halyard read back after one word is replaced. -/
namespace Sys2Proof.Machine

/-- In counter mode an add leaves everything but the count (R217). -/
theorem HalWord.add_counter {h : HalWord} (hb : h.barrier = false) (a : Nat) : h.add a = { h with count := h.count + BitVec.ofNat 16 a } := by
  simp [HalWord.add, hb]

/-- In counter mode a set leaves everything but the count (R217). -/
theorem HalWord.setTo_counter {h : HalWord} (hb : h.barrier = false) (c : Nat) : h.setTo c = { h with count := BitVec.ofNat 16 c } := by
  simp [HalWord.setTo, hb]

/-- The check of the storage changes no word (R242). -/
@[simp] theorem State.halCheck_words (s : State) (i : Nat) : (s.halCheck i).hal.words = s.hal.words := by
  unfold State.halCheck
  split <;> simp

/-- A single bit in error is corrected: the Halyard stays as usable as it was (R242). -/
theorem State.halDead_halCheck {s : State} {i : Nat} (hu : Tbl.get 0 s.hal.upset i ≤ 1) (k : Nat) : (s.halCheck i).halDead k = s.halDead k := by
  obtain h | h : Tbl.get 0 s.hal.upset i = 0 ∨ Tbl.get 0 s.hal.upset i = 1 := by omega
  · simp [State.halCheck, h]
  · simp [State.halCheck, h, State.halDead]

/-- An add to a usable Halyard replaces its word alone, whether or not it is relayed (R217, R218, R229). -/
theorem State.halAdd_words {s : State} {i : Nat} (hd : s.halDead i = false) (hu : Tbl.get 0 s.hal.upset i ≤ 1) (a : Nat) (fromPeer : Bool) :
    (s.halAdd i a fromPeer).hal.words = Tbl.set HalWord.zero s.hal.words i ((s.hword i).add a) := by
  have hd' : (s.halCheck i).halDead i = false := (State.halDead_halCheck hu i).trans hd
  simp only [State.halAdd, hd', Bool.false_eq_true, if_false]
  split <;> simp [State.setHword, State.hword]

/-- A set of a usable Halyard replaces its word alone (R217, R218). -/
theorem State.halSet_words {s : State} {i : Nat} (hd : s.halDead i = false) (hu : Tbl.get 0 s.hal.upset i ≤ 1) (c : Nat) :
    (s.halSet i c).hal.words = Tbl.set HalWord.zero s.hal.words i ((s.hword i).setTo c) := by
  have hd' : (s.halCheck i).halDead i = false := (State.halDead_halCheck hu i).trans hd
  simp [State.halSet, hd', State.forgetOrder, State.setHword, State.hword]

theorem State.hword_of_words_same {s t : State} {i : Nat} {h : HalWord} (ht : t.hal.words = Tbl.set HalWord.zero s.hal.words i h) :
    t.hword i = h := by
  simp [State.hword, ht]

theorem State.hword_of_words_other {s t : State} {i k : Nat} {h : HalWord} (ht : t.hal.words = Tbl.set HalWord.zero s.hal.words i h)
    (hk : k ≠ i) : t.hword k = s.hword k := by
  simp [State.hword, ht, Tbl.get_set_other _ _ _ hk]

/-- A write of 1 to 65,535 with `OP` 0 in the served window adds (R224, R225). -/
theorem exec_halyardAdd {s : State} {n : BitVec 15} {v : BitVec 30} (hs : s.live) (hw : s.halWindow n.toNat = true) (hv : v.toNat ≤ 65535)
    (h1 : 1 ≤ v.toNat) : exec (.halyardAdd n v) s = .next (s.keep (s.halAdd n.toNat v.toNat false)) := by
  have hc : s.halWindow n.toNat = true ∧ v.toNat < 65536 ∧ v.toNat ≠ 0 := ⟨hw, by omega, by omega⟩
  change execHalyardAdd n v s = _
  rw [execHalyardAdd, gated_live _ hs, if_pos hc]

/-- A write of up to 65,535 with `OP` 1 in the served window sets (R224, R225). -/
theorem exec_halyardSet {s : State} {n : BitVec 15} {v : BitVec 30} (hs : s.live) (hw : s.halWindow n.toNat = true) (hv : v.toNat ≤ 65535) :
    exec (.halyardSet n v) s = .next (s.keep (s.halSet n.toNat v.toNat)) := by
  have hc : s.halWindow n.toNat = true ∧ v.toNat < 65536 := ⟨hw, by omega⟩
  change execHalyardSet n v s = _
  rw [execHalyardSet, gated_live _ hs, if_pos hc]

/-- A step that replaces the count of one Halyard leaves that count, the rest of the word, and every other Halyard. -/
theorem State.count_replaced {s u : State} {i : Nat} {x : HalWord} {c : BitVec 16}
    (hu : u.hal.words = Tbl.set HalWord.zero s.hal.words i { x with count := c }) :
    (u.hword i).count = c ∧ u.hword i = { x with count := (u.hword i).count } ∧ ∀ k, k ≠ i → u.hword k = s.hword k := by
  have hi := State.hword_of_words_same hu
  exact ⟨by rw [hi], by rw [hi], fun _ hk => State.hword_of_words_other hu hk⟩

/-- Settles O14: both writes replace the Halyard's word by its own with another count, `count + a` in 16 bits or the value itself. -/
theorem counterMode : Obligations.CounterMode := by
  intro s n v x hs hx hb hw hd hup hv
  subst hx
  constructor
  · intro h1
    have hwords := State.halAdd_words hd hup v.toNat false
    rw [HalWord.add_counter hb] at hwords
    obtain ⟨hcount, hrest⟩ := State.count_replaced (u := s.keep (s.halAdd n.toNat v.toNat false)) hwords
    exact ⟨_, exec_halyardAdd hs hw hv h1, by rw [hcount]; simp, hrest⟩
  · have hwords := State.halSet_words hd hup v.toNat
    rw [HalWord.setTo_counter hb] at hwords
    obtain ⟨hcount, hrest⟩ := State.count_replaced (u := s.keep (s.halSet n.toNat v.toNat)) hwords
    exact ⟨_, exec_halyardSet hs hw hv, by rw [hcount]; exact Nat.mod_eq_of_lt (by omega), hrest⟩

end Sys2Proof.Machine
end

section
/-! SUPPORT. What `POWER_CAP` does to the power manager (R304, R306), and what `PWR.CAP` reads as. -/
namespace Sys2Proof.Machine

/-- The power manager under a new cap: no interval of the history keeps more than that cap allows it (R306). -/
def Pwr.withCap (w : Pwr) (mw : Nat) : Pwr :=
  { w with cap := mw, hist := w.hist.map fun x => if x ≤ (mw : Rat) / 1000 then x else (mw : Rat) / 1000 }

@[simp] theorem Pwr.withCap_cap (w : Pwr) (mw : Nat) : (w.withCap mw).cap = mw := rfl

/-- `PWR.CAP` is served at all times (R354). -/
theorem State.readReg_pwrCap (s : State) : s.readReg 0x3008 = s.build.cfg.capRange.2.1 * 65536 + s.pwr.cap % 65536 := rfl

theorem powerCapBody_inRange {s : State} {p : Nat → Nat} (hz : bits (p 0) 31 16 = 0) (hlo : s.build.cfg.capRange.1 ≤ bits (p 0) 15 0)
    (hhi : bits (p 0) 15 0 ≤ s.build.cfg.capRange.2.1) :
    powerCapBody s p = Ans.ok { s with pwr := s.pwr.withCap (bits (p 0) 15 0) } [bits (p 0) 15 0] := by
  have hin : ¬(bits (p 0) 15 0 < s.build.cfg.capRange.1 ∨ bits (p 0) 15 0 > s.build.cfg.capRange.2.1) := by omega
  simp only [powerCapBody, hz, ne_eq, not_true_eq_false, hin, if_false]
  rfl

theorem powerCapBody_outOfRange {s : State} {p : Nat → Nat} (hz : bits (p 0) 31 16 = 0)
    (hout : bits (p 0) 15 0 < s.build.cfg.capRange.1 ∨ s.build.cfg.capRange.2.1 < bits (p 0) 15 0) : powerCapBody s p = Ans.err s 3 := by
  simp [powerCapBody, hz, hout]

theorem exec_powerCap_inRange {s : State} {n m : Nat} {rest : List Nat} (h : s.hears n rest 0x81 m) (hz : bits (s.arg n 0) 31 16 = 0)
    (hlo : s.build.cfg.capRange.1 ≤ bits (s.arg n 0) 15 0) (hhi : bits (s.arg n 0) 15 0 ≤ s.build.cfg.capRange.2.1) :
    exec .powerCap s =
      .next (({ s.taken n rest with pwr := s.pwr.withCap (bits (s.arg n 0) 15 0) }).posted n m 0 [bits (s.arg n 0) 15 0]) :=
  command_posted (body := fun s p => (powerCapBody s p).verdict) h rfl
    (congrArg Ans.verdict (powerCapBody_inRange (s := s.taken n rest) hz hlo hhi)) rfl

theorem exec_powerCap_outOfRange {s : State} {n m : Nat} {rest : List Nat} (h : s.hears n rest 0x81 m) (hz : bits (s.arg n 0) 31 16 = 0)
    (hout : bits (s.arg n 0) 15 0 < s.build.cfg.capRange.1 ∨ s.build.cfg.capRange.2.1 < bits (s.arg n 0) 15 0) :
    exec .powerCap s = .next ((s.taken n rest).posted n m 3 []) :=
  command_answered (t := s.taken n rest) (body := fun s p => (powerCapBody s p).verdict) h rfl
    (congrArg Ans.verdict (powerCapBody_outOfRange (s := s.taken n rest) hz hout)) (.inr rfl) rfl rfl

/-- Settles O23: a cap inside Table POWER-5's range takes the body's last branch, one outside it the branch of `RANGE`; a cap has 16 bits, so
`PWR.CAP` reads it back whole. -/
theorem capIsSet : Obligations.CapIsSet := by
  intro s n rest m mw lo hi h hz hmw hrange
  obtain ⟨hlo, hhi⟩ : s.build.cfg.capRange.1 = lo ∧ s.build.cfg.capRange.2.1 = hi := by
    cases hc : s.build.cfg <;> simp_all [Cfg.capRange]
  subst hmw hlo hhi
  refine ⟨fun hl hh => ?inRange, exec_powerCap_outOfRange h hz, State.readReg_pwrCap⟩
  case inRange =>
    refine ⟨_, exec_powerCap_inRange h hz hl hh, rfl, ?_, rfl⟩
    have h16 : bits (s.arg n 0) 15 0 < 65536 := bits_lt (s.arg n 0) 15 0
    rw [State.readReg_pwrCap, State.posted_build, State.posted_pwr, Pwr.withCap_cap, Nat.mod_eq_of_lt h16, State.taken_build]

end Sys2Proof.Machine
end

section
/-! SUPPORT. What a command leaves of the queue, the build, the fuses and what the outside drives, by the gate it passes (R353, R370). -/
namespace Sys2Proof.Machine

/-- `t` has the queue, the build and the fuses of `s`. -/
def State.FixedKept (s t : State) : Prop := t.pending = s.pending ∧ t.build = s.build ∧ t.otp = s.otp

/-- `t` has the rail, the sampled strap, the TAP and the levels of `RST_N`, `ISO_EN` and `TEST_MODE` of `s`. -/
def State.OutsideKept (s t : State) : Prop :=
  t.life.power = s.life.power ∧ t.life.testSampled = s.life.testSampled ∧ t.tap = s.tap ∧
    t.pins.rstN = s.pins.rstN ∧ t.pins.isoEn = s.pins.isoEn ∧ t.pins.testMode = s.pins.testMode

theorem State.OutsideKept.refl (s : State) : s.OutsideKept s := ⟨rfl, rfl, rfl, rfl, rfl, rfl⟩

theorem State.OutsideKept.trans {s t u : State} (h : s.OutsideKept t) (k : t.OutsideKept u) : s.OutsideKept u := by
  obtain ⟨h1, h2, h3, h4, h5, h6⟩ := h
  obtain ⟨k1, k2, k3, k4, k5, k6⟩ := k
  exact ⟨k1.trans h1, k2.trans h2, k3.trans h3, k4.trans h4, k5.trans h5, k6.trans h6⟩

theorem State.fixedKept_keep (s t : State) : s.FixedKept (s.keep t) := ⟨rfl, rfl, rfl⟩
theorem State.outsideKept_keep (s t : State) : s.OutsideKept (s.keep t) := ⟨rfl, rfl, rfl, rfl, rfl, rfl⟩

theorem gated_next {s : State} (f : State → State) (h : s.awake = false ∨ s.defined = true) : ∃ t, gated s f = .next t := by
  cases ha : s.awake with
  | false => exact ⟨s, gated_asleep f ha⟩
  | true => exact ⟨_, gated_live f ⟨ha, h.resolve_left (by simp [ha])⟩⟩

theorem onPin_next {s : State} (l : Pins → Pins) (f : State → State) (h : s.awake = false ∨ s.defined = true) :
    ∃ t, onPin s l f = .next t := by
  cases ha : s.awake with
  | false => exact ⟨_, onPin_asleep l f ha⟩
  | true => exact ⟨_, onPin_live l f ⟨ha, h.resolve_left (by simp [ha])⟩⟩

theorem onPin_undefined {s : State} (l : Pins → Pins) (f : State → State) (h : s.awake = true) (hd : s.defined = false) :
    onPin s l f = .fault .undefinedState := by
  simp [onPin, h, hd]

/-- A command from inside the domain is a level change of a pin, or passes `gated` (R353, R370). -/
theorem exec_inside (c : Instr) (s : State) (ho : c.outside = false) :
    (∃ (l : Pins → Pins) (f : State → State), c.level = true ∧ exec c s = onPin s l f ∧
      ∀ p : Pins, (l p).rstN = p.rstN ∧ (l p).isoEn = p.isoEn ∧ (l p).testMode = p.testMode ∧ (l p).quiesced = p.quiesced ∧
        (l p).dack = p.dack ∧ (l p).evOut = p.evOut ∧ (l p).trigOut = p.trigOut) ∨
      ∃ f : State → State, c.level = false ∧ exec c s = gated s f := by
  cases hl : c.level with
  | true =>
    obtain ⟨l, f, h⟩ := exec_onPin c s hl
    exact .inl ⟨l, f, rfl, h⟩
  | false =>
    obtain ⟨f, h⟩ := exec_gated c s ho hl
    exact .inr ⟨f, rfl, h⟩

/-- A command from outside the domain completes in every state, and leaves the queue, the build and the fuses. -/
theorem exec_outside (c : Instr) (s : State) (ho : c.outside = true) : ∃ t, exec c s = .next t ∧ s.FixedKept t := by
  cases c with
  | rstNAssert => cases hp : s.life.power <;> exact ⟨_, rfl, by simp only [hp]; exact ⟨rfl, rfl, rfl⟩⟩
  | rstNRelease strap held =>
    refine ⟨_, rfl, ?_⟩
    dsimp only
    split
    · exact ⟨rfl, rfl, rfl⟩
    · split <;> exact ⟨rfl, rfl, rfl⟩
  | isoEnAssert | isoEnRelease | powerLoss => exact ⟨_, rfl, rfl, rfl, rfl⟩
  | powerOn | tapInstruction _ | testLogicReset =>
    refine ⟨_, rfl, ?_⟩
    split <;> exact ⟨rfl, rfl, rfl⟩
  | _ => cases ho

/-- What a command from inside the domain leaves. -/
theorem exec_inside_kept {c : Instr} {s t : State} (ho : c.outside = false) (h : exec c s = .next t) : s.FixedKept t ∧ s.OutsideKept t := by
  obtain ⟨l, f, _, he, hl⟩ | ⟨f, _, he⟩ := exec_inside c s ho
  · obtain ⟨h1, h2, h3, _⟩ := hl s.pins
    rw [he] at h
    obtain ⟨_, rfl⟩ | ⟨_, rfl⟩ := onPin_cases h <;> exact ⟨⟨rfl, rfl, rfl⟩, rfl, rfl, rfl, h1, h2, h3⟩
  · rw [he] at h
    obtain ⟨_, rfl⟩ | ⟨_, rfl⟩ := gated_cases h
    · exact ⟨⟨rfl, rfl, rfl⟩, .refl _⟩
    · exact ⟨s.fixedKept_keep _, s.outsideKept_keep _⟩

/-- Settles O5: a command from outside never meets a gate; every other passes `gated` or `onPin`, whose `State.keep` writes these parts back. -/
theorem outsideStands : Obligations.OutsideStands := by
  intro c s
  cases ho : c.outside with
  | true =>
    obtain ⟨t, ht, h1, h2, h3⟩ := exec_outside c s ho
    refine ⟨fun _ => ⟨t, ht⟩, fun u hu => ?_⟩
    obtain rfl : t = u := by rw [ht] at hu; cases hu; rfl
    exact ⟨h1, h2, h3, fun h => nomatch h⟩
  | false =>
    refine ⟨fun h => ?_, fun t ht => ?_⟩
    · have hs : s.awake = false ∨ s.defined = true := h.resolve_left Bool.false_ne_true
      obtain ⟨l, f, _, he, _⟩ | ⟨f, _, he⟩ := exec_inside c s ho
      · rw [he]; exact onPin_next l f hs
      · rw [he]; exact gated_next f hs
    · obtain ⟨⟨h1, h2, h3⟩, hout⟩ := exec_inside_kept ho ht
      exact ⟨h1, h2, h3, fun _ => hout⟩

/-- Settles O6: `gated` leaves a sleeping block as it is, and `onPin` moves only the pin. -/
theorem asleepIgnores : Obligations.AsleepIgnores := by
  intro c s ha ho
  obtain ⟨l, f, hl, he, _⟩ | ⟨f, _, he⟩ := exec_inside c s ho
  · exact ⟨_, he.trans (onPin_asleep l f ha), rfl, fun h => nomatch hl.symm.trans h⟩
  · exact ⟨s, he.trans (gated_asleep f ha), rfl, fun _ => rfl⟩

/-- Settles O7: both gates stop in an undefined state. -/
theorem undefinedStops : Obligations.UndefinedStops := by
  intro c s ha hd ho
  obtain ⟨l, f, _, he, _⟩ | ⟨f, _, he⟩ := exec_inside c s ho
  · rw [he, onPin_undefined l f ha hd]
  · rw [he, gated_undefined f ha hd]

/-- Settles O8: a command of an engine passes `running`, which asks for a started block. -/
theorem beforeStart : Obligations.BeforeStart := by
  intro c s hs ha he
  obtain ⟨f, hf⟩ := exec_running c s he (fun k full hc => by subst hc; cases he)
  rw [hf, running_stopped f hs ha]

/-- Settles O1: `step` takes the front of the queue. -/
theorem frontCommandRuns : Obligations.FrontCommandRuns := by
  intro s c rest h
  simp only [step, h]

/-- Settles O4: the reset state has its rail on and `RST_N` high, and its TAP holds `IDCODE`. -/
theorem resetSound : Obligations.ResetSound :=
  ⟨fun h => (nomatch h), fun _ h => (nomatch h), .inl rfl, fun h => by obtain h | h | h | h := h <;> exact absurd h (by decide)⟩

end Sys2Proof.Machine
end

section
/-! SUPPORT. What a tick of an idle block leaves of what the outside drives, and a tick of a block whose units stand at reset. -/
namespace Sys2Proof.Machine

/-- A fold keeps what the outside drives when each of its steps does. -/
theorem State.OutsideKept.foldl {α : Type} {s t : State} (h : s.OutsideKept t) {f : State → α → State}
    (hf : ∀ (u : State) (a : α), u.OutsideKept (f u a))
    (l : List α) : s.OutsideKept (l.foldl f t) :=
  foldl_keeps (fun u => s.OutsideKept u) f (fun u a hu => hu.trans (hf u a)) l t h

theorem State.outsideKept_modStream (s : State) (c : Nat) (f : Stream → Stream) : s.OutsideKept (s.modStream c f) := by
  rw [s.modStream_frame c f]; exact .refl s

theorem State.outsideKept_spoiled (s : State) (o : Owner) (gone : Bool) : s.OutsideKept (s.spoiled o gone) := by
  unfold State.spoiled
  split
  · exact s.outsideKept_modStream _ _
  · exact .refl s

theorem State.outsideKept_cutWrites (s : State) (q : Nat) : s.OutsideKept (s.cutWrites q) := by
  unfold State.cutWrites
  refine State.OutsideKept.foldl (State.OutsideKept.foldl ?_ (fun u o => u.outsideKept_spoiled o false) _)
    (fun u o => u.outsideKept_spoiled o true) _
  exact .refl s

theorem State.outsideKept_enterSafe (s : State) : s.OutsideKept s.enterSafe := by
  unfold State.enterSafe
  split
  · exact .refl s
  · refine State.OutsideKept.foldl (State.OutsideKept.foldl ?_ (fun u q => u.outsideKept_cutWrites q) _)
      (fun (u : State) p => show u.OutsideKept (u.stopLane p .safe) from .refl u) _
    exact .refl s

theorem State.outsideKept_raise (s : State) (b : Burgee) : s.OutsideKept (s.raise b) := by
  unfold State.raise
  split
  · exact State.OutsideKept.trans (t := { s with flt := (s.flt.enter b).note b }) (.refl s) (State.outsideKept_enterSafe _)
  · exact .refl s

theorem State.outsideKept_halCheck (s : State) (i : Nat) : s.OutsideKept (s.halCheck i) := by
  unfold State.halCheck
  split
  · exact .refl s
  · exact State.OutsideKept.trans (.refl s) (State.outsideKept_raise _ _)
  · exact State.OutsideKept.trans (.refl s) (State.outsideKept_raise _ _)

theorem State.outsideKept_withhold (s : State) (f : TxFrame) : s.OutsideKept (s.withhold f) := by
  unfold State.withhold
  refine State.OutsideKept.foldl (State.OutsideKept.trans ?_ (State.outsideKept_raise _ _)) (fun (u : State) (o : FrameOwner) => u.outsideKept_modStream o.sctx _) _
  exact .refl s

theorem State.outsideKept_pumpN (n : Nat) : ∀ s : State, s.OutsideKept (s.pumpN n) := by
  induction n with
  | zero => exact State.OutsideKept.refl
  | succ n ih =>
    intro s
    unfold State.pumpN
    split
    · exact .refl s
    next f rest _ =>
      split
      · refine State.OutsideKept.trans ?_ (ih _)
        split
        · exact State.OutsideKept.trans (.refl s) (State.outsideKept_withhold _ f)
        · exact .refl s
      · exact .refl s

theorem State.outsideKept_closeWrite (s : State) : s.OutsideKept s.closeWrite := by
  unfold State.closeWrite
  split
  · exact .refl s
  · exact State.OutsideKept.trans (.refl s) (State.outsideKept_pumpN _ _)

theorem State.outsideKept_egress (s : State) (f : TxFrame) : s.OutsideKept (s.egress f) := by
  have hclose : s.OutsideKept (if f.type = 5 ∨ f.type = 2 then s.closeWrite else s) := by
    split
    · exact s.outsideKept_closeWrite
    · exact .refl s
  exact hclose.trans (State.OutsideKept.trans (.refl _) (State.outsideKept_pumpN _ _))

theorem State.outsideKept_relayAdd (s : State) (i a : Nat) : s.OutsideKept (s.relayAdd i a) := by
  unfold State.relayAdd
  split
  · exact s.outsideKept_egress _
  · exact .refl s

theorem State.outsideKept_halAdd (s : State) (i a : Nat) (fromPeer : Bool) : s.OutsideKept (s.halAdd i a fromPeer) := by
  refine (s.outsideKept_halCheck i).trans ?_
  unfold State.halAdd
  dsimp only
  split
  · exact .refl _
  · split
    · exact State.OutsideKept.trans (.refl _) (State.outsideKept_relayAdd _ _ _)
    · exact .refl _

theorem State.outsideKept_evTake (s : State) (n : Nat) : s.OutsideKept (s.evTake n) := by
  refine State.OutsideKept.foldl (t := { s with hal := { s.hal with evInQ := s.hal.evInQ.drop n } }) (.refl s) (fun u k => ?_) _
  unfold State.evApply
  split
  · exact u.outsideKept_halAdd _ _ _
  · exact .refl u

theorem State.outsideKept_accrue (s : State) (d : Nat) : s.OutsideKept (s.accrue d) := by
  unfold State.accrue
  split <;> exact .refl s

/-- `t` differs from `s` at most in what the outputs of the peer-link port move: firmware's streams, the retry buffer in the Plates, the link, activity,
the counter of free values and the frames put out. -/
def State.OutShape (s t : State) : Prop :=
  t = { s with fw := t.fw, plate := t.plate, link := t.link, pwr := t.pwr, free := t.free, macOut := t.macOut, hostOut := t.hostOut }

theorem State.OutShape.refl (s : State) : s.OutShape s := rfl
theorem State.OutShape.trans {s t u : State} (h : s.OutShape t) (k : t.OutShape u) : s.OutShape u := by
  unfold State.OutShape at *; rw [k, h]

theorem State.OutShape.outsideKept {s t : State} (h : s.OutShape t) : s.OutsideKept t := by
  rw [h]; exact .refl s
theorem State.OutShape.lanes {s t : State} (h : s.OutShape t) : t.lanes = s.lanes := by rw [h]

theorem State.outShape_charge (s : State) (c id k n : Nat) : s.OutShape (s.charge c id k n) := by
  unfold State.charge
  split
  · rfl
  · rw [State.modStream_frame]; rfl

theorem State.outShape_tallyFrame (s : State) (f : Sending) : s.OutShape (s.tallyFrame f) := by
  unfold State.tallyFrame
  dsimp only
  split
  · exact State.OutShape.trans (t := s.tallyBlock _ _) rfl (State.outShape_charge _ _ _ _ _)
  · rfl

theorem State.outShape_passFrame (s : State) (f : PassFrame) (te : Nat) : s.OutShape (s.passFrame f te).1 := by
  unfold State.passFrame
  split
  · rfl
  · dsimp only; split <;> rfl

theorem State.outShape_beginSeq (s : State) (n : Nat) (again : Bool) (f : TxFrame) : s.OutShape (s.beginSeq n again f) := by
  unfold State.beginSeq
  cases again <;> dsimp only <;> split <;> rfl

theorem State.outShape_beginFrame (s : State) : s.OutShape s.beginFrame := by
  unfold State.beginFrame
  dsimp only
  split
  · rfl
  · rfl
  · exact State.OutShape.trans (t := s.stamp.2) rfl ((State.outShape_passFrame _ _ _).trans rfl)
  · split
    · rfl
    · split
      · exact State.OutShape.trans (t := { s with link := _ }) rfl (State.outShape_beginSeq _ _ _ _)
      · rfl

theorem State.outShape_macStep (s : State) : s.OutShape s.macStep := by
  unfold State.macStep
  split
  · exact (s.outShape_tallyFrame _).trans rfl
  · exact s.outShape_beginFrame

theorem State.outShape_hostStep (s : State) : s.OutShape s.hostStep := by
  unfold State.hostStep
  split
  · rfl
  · exact State.OutShape.trans (t := s.stamp.2) rfl ((State.outShape_passFrame _ _ _).trans rfl)

/-- What the outputs of an idle block can change. -/
theorem State.outShape_outputs (s : State) : s.OutShape s.outputs := by
  unfold State.outputs
  split
  · rfl
  · have hmac : s.OutShape (if Config.freeBit s.free then State.macStep { s with free := s.free + 2 } else { s with free := s.free + 2 }) := by
      split
      · exact State.OutShape.trans (t := { s with free := s.free + 2 }) rfl (State.outShape_macStep _)
      · rfl
    dsimp only
    split
    · exact hmac.trans (State.outShape_hostStep _)
    · exact hmac

theorem State.outsideKept_halRead (s : State) : s.OutsideKept s.halRead := by
  unfold State.halRead
  split
  · exact .refl s
  · dsimp only
    split
    · exact State.OutsideKept.trans (.refl s) (State.outsideKept_halCheck _ _)
    · exact .refl s

/-- A tick leaves what the outside drives. -/
theorem State.outsideKept_tick (s : State) : s.OutsideKept s.tick := by
  have htime : s.OutsideKept s.timeTick :=
    State.OutsideKept.trans (t := { s with time := s.time.tick, flt := _ }) (.refl s) (State.outsideKept_accrue _ _)
  exact (htime.trans (State.outsideKept_evTake _ 1)).trans ((State.outShape_outputs _).outsideKept.trans (State.outsideKept_halRead _))

/-! ### Parts of a tick that have nothing to do -/

theorem State.accrue_zero (s : State) : s.accrue 0 = s := by simp [State.accrue]

/-- A tick of a time unit that stands, while no time out of service is counted. -/
theorem State.timeTick_still {s : State} (ht : s.time.tick = s.time) (ha : s.fw.attached = false) : s.timeTick = s := by
  simp [State.timeTick, ht, ha, State.accrue_zero]

theorem State.evTake_empty {s : State} (h : s.hal.evInQ = []) (n : Nat) : s.evTake n = s := by
  simp only [State.evTake, h, List.take_nil, List.drop_nil, List.foldl_nil]
  rw [← h]

theorem State.outputs_idle {s : State} (hs : s.link.sending = none) (hc : s.link.choose = .none) (ht : s.link.toHost = []) : s.outputs = s := by
  simp [State.outputs, hs, hc, ht]

theorem State.halRead_clean {s : State} (h : s.hal.upset = []) : s.halRead = s := by
  simp [State.halRead, h]

/-- A block whose units stand at reset stands still: its time unit does not run, and nothing waits in it. -/
theorem State.tick_of_unitsReset {s : State} (h : s.unitsReset) : s.tick = s := by
  obtain ⟨_, _, _, _, hfw, hhal, _, _, _, hlink, htime, _⟩ := h
  have hstill : s.timeTick = s := State.timeTick_still (by rw [htime]; rfl) (by rw [hfw]; rfl)
  rw [State.tick, hstill, State.evTake_empty (by rw [hhal]), State.outputs_idle (by rw [hlink]; rfl) (by rw [hlink]; rfl) (by rw [hlink]; rfl),
    State.halRead_clean (by rw [hhal])]

end Sys2Proof.Machine
end

section
/-! SUPPORT. The sound states, the domain reset, the rail and the TAP (R351, R353, R370, R397, R398). -/
namespace Sys2Proof.Machine

/-- Every unit of the domain stands at reset after a domain reset. -/
theorem State.unitsReset_domainReset (s : State) (p : Pins) (sampled : Bool) : (s.domainReset p sampled).unitsReset :=
  ⟨rfl, rfl, rfl, rfl, rfl, rfl, rfl, rfl, rfl, rfl, rfl, rfl, rfl, rfl, rfl, rfl, rfl⟩

/-- The units of `t` are those of `s`, and so are the outputs of the ring that a reset moves. -/
def State.UnitsKept (s t : State) : Prop := ∃ (p : Pins) (l : Life) (tap : Tap),
  t = { s with pins := p, life := l, tap := tap } ∧ l.started = s.life.started ∧ l.halted = s.life.halted ∧
    p.quiesced = s.pins.quiesced ∧ p.dack = s.pins.dack ∧ p.evOut = s.pins.evOut ∧ p.trigOut = s.pins.trigOut

theorem State.UnitsKept.unitsReset {s t : State} (h : s.UnitsKept t) (hs : s.unitsReset) : t.unitsReset := by
  obtain ⟨p, l, tap, rfl, h1, h2, h3, h4, h5, h6⟩ := h
  unfold State.unitsReset at hs ⊢
  rwa [h1, h2, h3, h4, h5, h6]

/-- A sleeping block keeps its units against every command from inside the domain (R353, R370). -/
theorem exec_asleep_unitsKept {c : Instr} {s t : State} (ha : s.awake = false) (ho : c.outside = false) (h : exec c s = .next t) :
    s.UnitsKept t := by
  obtain ⟨l, f, _, he, hl⟩ | ⟨f, _, he⟩ := exec_inside c s ho
  · obtain ⟨_, _, _, h4, h5, h6, h7⟩ := hl s.pins
    rw [he, onPin_asleep l f ha] at h
    cases h
    exact ⟨_, _, _, rfl, rfl, rfl, h4, h5, h6, h7⟩
  · rw [he, gated_asleep f ha] at h
    cases h
    exact ⟨_, _, _, rfl, rfl, rfl, rfl, rfl, rfl, rfl⟩

/-- A state in which the rail is off or `RST_N` is low holds nothing (R351, R353). -/
def State.emptyWhenReset (s : State) : Prop :=
  (s.life.power = .off → s.unitsReset) ∧ (s.life.power = .up → s.pins.rstN = false → s.unitsReset)

/-- The TAP holds an instruction of its table, and a test instruction, or the mark of a test run, only in test mode (R397, R398). -/
def State.tapLegal (s : State) : Prop :=
  (s.tap.ir = 1 ∨ s.tap.ir = 8 ∨ s.tap.ir = 9 ∨ s.tap.ir = 10 ∨ s.tap.ir = 31) ∧
  ((s.tap.ir = 8 ∨ s.tap.ir = 9 ∨ s.tap.ir = 10 ∨ s.tap.destroyed = true) → s.life.testSampled = true)

theorem State.sound_iff (s : State) : s.sound ↔ s.emptyWhenReset ∧ s.tapLegal := and_assoc.symm

theorem State.awake_of_off {s : State} (h : s.life.power = .off) : s.awake = false := by simp [State.awake, h]
theorem State.awake_of_rstN {s : State} (h : s.pins.rstN = false) : s.awake = false := by simp [State.awake, h]

/-- What keeps the rail, `RST_N` and the TAP keeps a sound state sound when it keeps the units of a block without power or in reset. -/
theorem State.OutsideKept.sound {s t : State} (h : s.OutsideKept t) (hs : s.sound)
    (hu : s.life.power = .off ∨ s.pins.rstN = false → s.unitsReset → t.unitsReset) : t.sound := by
  obtain ⟨hp, ht, htap, hr, _⟩ := h
  obtain ⟨hoff, hlow, hir, hmode⟩ := hs
  refine ⟨fun h => ?_, fun h h' => ?_, by rwa [htap], by rwa [htap, ht]⟩
  · rw [hp] at h; exact hu (.inl h) (hoff h)
  · rw [hp] at h; rw [hr] at h'; exact hu (.inr h') (hlow h h')

/-- A reset TAP, whatever the units hold. -/
theorem State.tapLegal_reset {s : State} (h : s.tap = ⟨1, false⟩) : s.tapLegal := by
  unfold State.tapLegal; rw [h]
  exact ⟨.inl rfl, fun h => by obtain h | h | h | h := h <;> exact absurd h (by decide)⟩

/-- `TAP_INSTRUCTION` selects an instruction of its table, and a test instruction only in test mode. -/
theorem tapSelect_cases (test : Bool) (code : Nat) :
    tapSelect test code = 1 ∨ tapSelect test code = 31 ∨
      (test = true ∧ (tapSelect test code = 8 ∨ tapSelect test code = 9 ∨ tapSelect test code = 10)) := by
  unfold tapSelect
  split
  · exact .inl rfl
  · split
    · next h => exact .inr (.inr h)
    · exact .inr (.inl rfl)

theorem State.tapLegal_tapInstruction {s : State} (hs : s.tapLegal) (code : Nat) :
    ({ s with tap := ⟨BitVec.ofNat 5 (tapSelect s.life.testSampled code),
      s.tap.destroyed || decide (tapSelect s.life.testSampled code = 8) || decide (tapSelect s.life.testSampled code = 9)⟩ } : State).tapLegal := by
  obtain ⟨hir, hmode⟩ := hs
  obtain h | h | ⟨ht, h | h | h⟩ := tapSelect_cases s.life.testSampled code <;> unfold State.tapLegal <;> simp_all

/-- A command from outside the domain keeps the sound states: it resets the units, or leaves them and the rail, or raises `RST_N`. -/
theorem sound_exec_outside {c : Instr} {s t : State} (ho : c.outside = true) (hs : s.sound) (h : exec c s = .next t) : t.sound := by
  have ⟨hempty, htap⟩ := s.sound_iff.mp hs
  obtain ⟨hoff, hlow⟩ := hempty
  rw [State.sound_iff]
  cases c with
  | rstNAssert =>
    cases h
    cases hp : s.life.power with
    | up => exact ⟨⟨fun _ => State.unitsReset_domainReset .., fun _ _ => State.unitsReset_domainReset ..⟩, State.tapLegal_reset rfl⟩
    | off =>
      refine ⟨⟨fun _ => ?_, fun h => (nomatch hp.symm.trans h)⟩, htap⟩
      exact State.UnitsKept.unitsReset ⟨_, _, _, rfl, rfl, rfl, rfl, rfl, rfl, rfl⟩ (hoff hp)
    | undefined => exact ⟨⟨fun h => (nomatch hp.symm.trans h), fun h => (nomatch hp.symm.trans h)⟩, htap⟩
  | rstNRelease strap held =>
    cases h
    dsimp only
    split
    · refine ⟨⟨fun h => ?_, fun _ h => (nomatch h)⟩, htap⟩
      exact State.UnitsKept.unitsReset ⟨_, _, _, rfl, rfl, rfl, rfl, rfl, rfl, rfl⟩ (hoff h)
    · split
      · exact ⟨⟨fun h => (nomatch h), fun h => (nomatch h)⟩, htap⟩
      · exact ⟨⟨fun h => (nomatch h), fun _ h => (nomatch h)⟩, State.tapLegal_reset rfl⟩
  | isoEnAssert | isoEnRelease =>
    cases h
    have hk : s.unitsReset → State.unitsReset { s with pins := { s.pins with isoEn := _ } } :=
      State.UnitsKept.unitsReset ⟨_, _, _, rfl, rfl, rfl, rfl, rfl, rfl, rfl⟩
    exact ⟨⟨fun h => hk (hoff h), fun h h' => hk (hlow h h')⟩, htap⟩
  | powerLoss =>
    cases h
    exact ⟨⟨fun _ => ⟨rfl, rfl, rfl, rfl, rfl, rfl, rfl, rfl, rfl, rfl, rfl, rfl, rfl, rfl, rfl, rfl, rfl⟩, fun h => (nomatch h)⟩,
      State.tapLegal_reset rfl⟩
  | powerOn =>
    cases h
    split
    · exact ⟨⟨fun h => (nomatch h), fun h => (nomatch h)⟩, htap⟩
    · exact ⟨⟨hoff, hlow⟩, htap⟩
  | tapInstruction code =>
    cases h
    split
    · exact ⟨⟨hoff, hlow⟩, htap⟩
    · exact ⟨⟨hoff, hlow⟩, State.tapLegal_tapInstruction htap _⟩
  | testLogicReset =>
    cases h
    split
    · exact ⟨⟨hoff, hlow⟩, htap⟩
    · refine ⟨⟨hoff, hlow⟩, .inl rfl, fun h => htap.2 (.inr (.inr (.inr ?_)))⟩
      simpa using h
  | _ => cases ho

/-- A command from inside the domain keeps the sound states: a block without power or in reset is asleep. -/
theorem sound_exec_inside {c : Instr} {s t : State} (ho : c.outside = false) (hs : s.sound) (h : exec c s = .next t) : t.sound := by
  refine (exec_inside_kept ho h).2.sound hs fun hp => ?_
  exact (exec_asleep_unitsKept (hp.elim State.awake_of_off State.awake_of_rstN) ho h).unitsReset

/-- Settles O3: a command from outside the domain resets what it takes the power or `RST_N` from; every other meets a sleeping block there, and so
does a tick, for which a block in reset stands still. -/
theorem soundKept : Obligations.SoundKept := by
  intro s t hs h
  unfold step at h
  split at h
  · cases h
    refine s.outsideKept_tick.sound hs fun _ hu => ?_
    rwa [State.tick_of_unitsReset hu]
  next c rest _ =>
    have hs' : State.sound { s with pending := rest } := hs
    cases ho : c.outside with
    | true => exact sound_exec_outside ho hs' h
    | false => exact sound_exec_inside ho hs' h

/-- Settles O9: `RST_N_ASSERT` is a domain reset where the rail is up; `RST_N_RELEASE` is one where the reset was held long enough. -/
theorem resetPin : Obligations.ResetPin := by
  intro s strap held
  refine ⟨?fall, ?rise⟩
  case fall =>
    refine ⟨_, rfl, ?_⟩
    cases hp : s.life.power with
    | up =>
      exact ⟨rfl, rfl, rfl, rfl, rfl, rfl, rfl, rfl, rfl, rfl, rfl, fun _ => State.unitsReset_domainReset .., fun h => absurd rfl h⟩
    | off | undefined =>
      exact ⟨rfl, rfl, rfl, rfl, rfl, rfl, rfl, rfl, rfl, rfl, hp, (fun h => (nomatch h)), fun _ => rfl⟩
  case rise =>
    refine ⟨_, rfl, ?_⟩
    dsimp only
    by_cases hstay : s.pins.rstN = true ∨ s.life.power = .off
    · rw [if_pos (by simpa using hstay)]
      refine ⟨rfl, rfl, rfl, rfl, fun hp hr _ => ?_, fun hp hr _ => ?_, fun _ => rfl⟩ <;>
        exact absurd hstay (by simp [hp, hr])
    · rw [if_neg (by simpa using hstay)]
      cases held with
      | true => exact ⟨rfl, rfl, rfl, rfl, fun _ _ _ => ⟨State.unitsReset_domainReset .., rfl, rfl, rfl⟩, (fun _ _ h => (nomatch h)), fun h => absurd h hstay⟩
      | false => exact ⟨rfl, rfl, rfl, rfl, (fun _ _ h => (nomatch h)), fun _ _ _ => rfl, fun h => absurd h hstay⟩

theorem exec_tapInstruction {s : State} (hiso : s.pins.isoEn = false) (hp : s.life.power ≠ .off) (code : BitVec 5) :
    exec (.tapInstruction code) s = .next { s with tap := ⟨BitVec.ofNat 5 (tapSelect s.life.testSampled code.toNat), s.tap.destroyed ||
      decide (tapSelect s.life.testSampled code.toNat = 8) || decide (tapSelect s.life.testSampled code.toNat = 9)⟩ } :=
  congrArg Host.Outcome.next (if_neg (by simp [hiso, hp]))

theorem exec_testLogicReset {s : State} (hiso : s.pins.isoEn = false) (hp : s.life.power ≠ .off) :
    exec .testLogicReset s = .next { s with tap := { s.tap with ir := 1 } } :=
  congrArg Host.Outcome.next (if_neg (by simp [hiso, hp]))

/-- Settles O11: outside isolation and with power, the TAP takes the selected instruction alone. -/
theorem testPort : Obligations.TestPort := by
  intro s code hiso hp
  have hcode : ∀ n, n < 32 → (code.toNat = n ↔ code = BitVec.ofNat 5 n) := fun n hn => by
    rw [← BitVec.toNat_inj, BitVec.toNat_ofNat, Nat.mod_eq_of_lt hn]
  refine ⟨⟨_, exec_tapInstruction hiso hp code, rfl, ?_, ?_, ?_, ?_⟩, exec_testLogicReset hiso hp⟩
  · rintro rfl; simp [tapSelect]
  · rintro (rfl | rfl) ht <;> simp [tapSelect, ht]
  · rintro rfl ht; simp [tapSelect, ht]
  · intro h1 h
    have hother : tapSelect s.life.testSampled code.toNat = 31 := by
      unfold tapSelect
      rw [if_neg (by rw [hcode 1 (by decide)]; exact h1), if_neg]
      rintro ⟨ht, hc⟩
      rw [hcode 8 (by decide), hcode 9 (by decide), hcode 10 (by decide)] at hc
      obtain h | ⟨h8, h9, h10⟩ := h
      · simp [h] at ht
      · obtain hc | hc | hc := hc
        · exact h8 hc
        · exact h9 hc
        · exact h10 hc
    simp [hother]

/-- A clamped output shows its reset value. -/
theorem State.pinLevel_isolated {s : State} (h : s.pins.isoEn = true) (o : OutPin) : s.pinLevel o = some o.resetLevel := by
  simp [State.pinLevel, h]

theorem State.ringOutputs_isolated {s : State} (h : s.pins.isoEn = true) : s.ringOutputs = Ring.clamped := by
  simp [State.ringOutputs, h]

/-- The reset value of an output is high for `QUIESCED`, `FAULT_N` and the two inputs' `TAKE`, low for every other. -/
theorem OutPin.resetLevel_eq_one_or_zero (o : OutPin) :
    ((o = .quiesced ∨ o = .faultN ∨ ∃ p, o = .wcTake p ∨ o = .rbTake p) → o.resetLevel = 1) ∧
      (¬(o = .quiesced ∨ o = .faultN ∨ ∃ p, o = .wcTake p ∨ o = .rbTake p) → o.resetLevel = 0) := by
  cases o <;> simp [OutPin.resetLevel]

/-- Settles O10: each of these commands is one assignment, and an isolated ring shows what the clamps give. -/
theorem railAndIsolation : Obligations.RailAndIsolation := by
  intro s
  refine ⟨rfl, rfl, fun h => ?_, State.pinLevel_isolated, OutPin.resetLevel_eq_one_or_zero, ?loss, fun h => ?_, fun h => ?_⟩
  · rw [State.ringOutputs_isolated h]; exact ⟨rfl, rfl, rfl, rfl, rfl, rfl⟩
  case loss =>
    exact ⟨_, rfl, rfl, ⟨rfl, rfl, rfl, rfl, rfl, rfl, rfl, rfl, rfl, rfl, rfl, rfl, rfl, rfl, rfl, rfl, rfl⟩, rfl, rfl⟩
  · exact congrArg Host.Outcome.next (if_pos h)
  · exact congrArg Host.Outcome.next (if_neg h)

end Sys2Proof.Machine
end

section
/-! SUPPORT. A tick in which a relayed add of an event goes out behind a cell that fails its check in the framer (R229, R278, R334). -/
namespace Sys2Proof.Machine

/-- A lane has work, a `WRITE` frame whose cell will fail its check in the framer is open, and an event waits that is bound to a relayed Halyard. -/
def relayedEvent : State := { State.reset with
  link := { Link.reset with st := 2, flawCell := true, open_ := some ⟨0, 0, 0, 0, [[0]], 0, 0, false, []⟩ }
  hal := ⟨[(0, { HalWord.zero with relay := true })], [(0, 0)], [], [], [0], [], [], 0⟩
  lanes := [(0, { Lane.reset with queue := [⟨0, false, false, false, 0, [], 0, [], []⟩] })] }

/-- The add closes the open frame, the frame is withheld with kind 43, and the safe state stops the lane (R332, R334). -/
theorem relayedEvent_stops : (relayedEvent.timeTick.evTake 1).lanes ≠ relayedEvent.lanes ∧
    (relayedEvent.timeTick.evTake 1).hal.upset = [] := by decide

/-- Refutes O2: a tick that takes an event of a relayed Halyard can close a frame of the framer, whose failed check puts the block into the safe
state, so the lanes do not stand. -/
theorem not_idleTick : ¬ Obligations.IdleTick := by
  intro h
  obtain ⟨u, hu, _, _, hidle⟩ := h relayedEvent rfl rfl
  obtain ⟨_, hev⟩ := hidle rfl rfl rfl rfl
  obtain ⟨_, _, hlanes, _⟩ := hev 0 [] rfl
  cases hu
  obtain ⟨hstop, hclean⟩ := relayedEvent_stops
  have hout := State.outShape_outputs (relayedEvent.timeTick.evTake 1)
  refine hstop ?_
  rw [← hlanes, State.tick, State.halRead_clean (by rw [hout]; exact hclean), hout.lanes]

end Sys2Proof.Machine
end

section
/-! SUPPORT. Bits of a register set and read back, and the input pins (R135, R136, R282, R293). -/
namespace Sys2Proof

theorem getLsbD_ofNat_two_pow (w i j : Nat) : (BitVec.ofNat w (2 ^ i)).getLsbD j = (decide (j < w) && decide (i = j)) := by
  rw [BitVec.getLsbD_ofNat, Nat.testBit_two_pow]

/-- One bit of a register set or cleared. -/
theorem getLsbD_setBit {w i : Nat} (v : BitVec w) (b : Bool) (j : Nat) :
    (setBit v i b).getLsbD j = if i = j ∧ j < w then b else v.getLsbD j := by
  cases b
  · rw [setBit, if_neg Bool.false_ne_true, BitVec.getLsbD_and, BitVec.getLsbD_not, getLsbD_ofNat_two_pow]
    by_cases hw : j < w <;> by_cases hij : i = j <;> simp_all
  · rw [setBit, if_pos rfl, BitVec.getLsbD_or, getLsbD_ofNat_two_pow]
    by_cases hw : j < w <;> by_cases hij : i = j <;> simp_all

theorem getLsbD_setBit_same {w i : Nat} (v : BitVec w) (b : Bool) (h : i < w) : (setBit v i b).getLsbD i = b := by
  rw [getLsbD_setBit, if_pos ⟨rfl, h⟩]

theorem getLsbD_setBit_other {w i j : Nat} (v : BitVec w) (b : Bool) (h : j ≠ i) : (setBit v i b).getLsbD j = v.getLsbD j := by
  rw [getLsbD_setBit, if_neg fun e => h e.1.symm]

end Sys2Proof

namespace Sys2Proof.Machine

/-- Settles O12: each pin passes `onPin`; a capture edge acts when its bit of `CAPCFG` selects it. -/
theorem inputPins : Obligations.InputPins := by
  intro s u k n rising hs hu
  subst hu
  have hcap : exec (.capInEdge n rising) s = execCapInEdge n rising s := rfl
  have ha : State.alive { s with pins := { s.pins with capIn := setBit s.pins.capIn n.val rising } } = true := hs.2
  rw [hcap, execCapInEdge, onPin_live _ _ hs.1]
  dsimp only
  rw [ha]
  refine ⟨(onPin_live _ _ hs.1 : execDreqAssert k s = _), (onPin_live _ _ hs.1 : execDreqRelease k s = _),
    (onPin_live _ _ hs.1 : execPlLinkUpFall s = _), (onPin_live _ _ hs.1 : execPlLinkUpRise s = _), fun hsel => ?_, fun hsel => ⟨fun hfree => ?_, fun hfull => ?_⟩⟩
  · simp only [hsel]; rfl
  · simp only [hsel, hfree]; rfl
  · simp only [hsel, hfull]; rfl

/-- A level change of `VR_ALERT_N` before the power manager runs (Table START-14). -/
theorem exec_vrAlert {s : State} (hs : s.live) : exec .vrAlert s = .next (({ s with pins := { s.pins with vrAlertN := false } }).keep
    (if s.pwr.pmb = 0 ∨ s.alive = false then { s with pins := { s.pins with vrAlertN := false } }
      else State.vrAlert { s with pins := { s.pins with vrAlertN := false } })) := (onPin_live _ _ hs : execVrAlert s = _)

theorem exec_vrAlertRelease {s : State} (hs : s.live) : exec .vrAlertRelease s = .next (({ s with pins := { s.pins with vrAlertN := true } }).keep
    (if s.pwr.pmb = 0 ∨ s.pins.vrAlertN ∨ s.alive = false then { s with pins := { s.pins with vrAlertN := true } }
      else State.vrAlertRelease { s with pins := { s.pins with vrAlertN := true } })) :=
  (onPin_live _ _ hs : execVrAlertRelease s = _)

theorem exec_vrAlertHoldExpiry {s : State} (hs : s.works) : exec .vrAlertHoldExpiry s = .next (s.keep s.vrAlertHoldExpiry) := running_works _ hs

/-- The power manager as an alert leaves it before the status word is read (R301, R312). -/
def Pwr.alerted (w : Pwr) : Pwr :=
  { w.force0 with alertHold := false, active := setBit w.active 1 true, seen := setBit w.seen 1 true }

/-- With a bus the status read goes behind the transaction in progress, and every voltage command behind it is given up. -/
theorem State.vrAlert_bus {s : State} (h : s.pwr.pmb = 1) : s.vrAlert = { s with pwr := { s.pwr.alerted with
    tx := s.pwr.tx.take 1 ++ [⟨0x79, 1, false⟩] ++ (s.pwr.tx.drop 1).filter fun t => decide (t.code ≠ 0x21) } } := by
  cases htx : s.pwr.tx <;> simp [State.vrAlert, Pwr.alerted, Pwr.force0, Pwr.busOk, h, htx]

/-- Without one the alert is reported with a free word: kind 60 is deferred, so only the collector learns of it. -/
theorem State.vrAlert_noBus {s : State} (h : s.pwr.pmb ≠ 1) : s.vrAlert = { s with
    pwr := s.pwr.alerted
    free := s.free + 1
    flt := (s.flt.enter ⟨9, 1, 60, (Config.freeWord s.free).toNat % 65536⟩).note ⟨9, 1, 60, (Config.freeWord s.free).toNat % 65536⟩ } := by
  have hb : s.pwr.alerted.busOk = false := by simp [Pwr.busOk, Pwr.alerted, Pwr.force0, h]
  have hv : s.vrAlert = ({ s with pwr := s.pwr.alerted } : State).alertNoStatus := if_neg (by rw [← Pwr.alerted, hb]; decide)
  rw [hv, State.alertNoStatus, State.alertStatus]
  simp only [hb, Pwr.command, Pwr.commandWord, Bool.false_eq_true, if_false]
  refine State.raise_low _ _ ?_
  exact (by decide : kindSev 60 < 2)

/-- Settles O13: with a bus the alert only queues the status read; without one it is reported at once. -/
theorem regulatorAlert : Obligations.RegulatorAlert := by
  intro s hs
  rw [exec_vrAlert hs, exec_vrAlertRelease hs]
  refine ⟨fun h => by rw [if_pos h]; rfl, fun hp ha => ⟨_, rfl, ?alert⟩, fun hp ha hn => ?_, fun h => ?_, fun ha hn hh => ?_, fun ha h => ?_⟩
  case alert =>
    rw [if_neg (by simp [hp, ha])]
    by_cases hb : s.pwr.pmb = 1
    · rw [State.vrAlert_bus (s := { s with pins := { s.pins with vrAlertN := false } }) hb]
      exact ⟨rfl, rfl, rfl, rfl, getLsbD_setBit_same _ _ (by decide), getLsbD_setBit_same _ _ (by decide), rfl, rfl,
        fun _ => ⟨rfl, rfl⟩, fun h => absurd hb h⟩
    · rw [State.vrAlert_noBus (s := { s with pins := { s.pins with vrAlertN := false } }) hb]
      exact ⟨rfl, rfl, rfl, rfl, getLsbD_setBit_same _ _ (by decide), getLsbD_setBit_same _ _ (by decide), rfl, rfl,
        fun h => absurd h hb, fun _ => ⟨_, Nat.mod_lt _ (by decide), rfl, rfl, rfl⟩⟩
  · rw [if_neg (by simp [hp, ha, hn])]; rfl
  · rw [if_pos (by simpa using h)]; rfl
  · rw [exec_vrAlertHoldExpiry ⟨hs, ha⟩, State.vrAlertHoldExpiry, if_pos ⟨hn, hh⟩]; rfl
  · rw [exec_vrAlertHoldExpiry ⟨hs, ha⟩, State.vrAlertHoldExpiry, if_neg (by rintro ⟨h1, h2⟩; obtain h | h := h <;> simp_all)]; rfl

end Sys2Proof.Machine
end

section
/-! SUPPORT. What the Halyard window leaves in either mode and of an unusable Halyard (R217, R218, R224, R242). -/
namespace Sys2Proof.Machine

theorem HalWord.add_plain {h : HalWord} (hb : h.barrier = false ∨ h.target = 0) (a : Nat) :
    h.add a = { h with count := h.count + BitVec.ofNat 16 a } := by
  unfold HalWord.add
  rw [if_neg]
  rintro ⟨h1, h2⟩
  obtain h | h := hb <;> simp_all

theorem HalWord.add_barrier {h : HalWord} (hb : h.barrier = true) (ht : h.target ≠ 0) (a : Nat) :
    h.add a = { h with count := BitVec.ofNat 16 ((h.count.toNat + a) % h.target.toNat),
                       gen := h.gen + BitVec.ofNat 16 ((h.count.toNat + a) / h.target.toNat) } :=
  if_pos ⟨hb, ht⟩

/-- In barrier mode a set is an add to a count of 0 (R218). -/
theorem HalWord.setTo_barrier {h : HalWord} (hb : h.barrier = true) (c : Nat) : h.setTo c = HalWord.add { h with count := 0 } c := by
  simp [HalWord.setTo, hb]

/-- More than one bit in error makes the Halyard unusable (R242). -/
theorem State.halDead_halCheck_upset {s : State} {i : Nat} (hu : 2 ≤ Tbl.get 0 s.hal.upset i) : (s.halCheck i).halDead i = true := by
  unfold State.halCheck
  split
  · omega
  · omega
  · simp [State.halDead]

@[simp] theorem State.halCheck_discarded (s : State) (i : Nat) : (s.halCheck i).hal.discarded = s.hal.discarded := by
  unfold State.halCheck
  split <;> simp

/-- Whether an update finds Halyard `i` unusable (R242). -/
theorem State.halDead_update (s : State) (i : Nat) :
    (s.halCheck i).halDead i = (s.halDead i || decide (2 ≤ Tbl.get 0 s.hal.upset i)) := by
  by_cases hu : 2 ≤ Tbl.get 0 s.hal.upset i
  · simp [hu, State.halDead_halCheck_upset hu]
  · simp [hu, State.halDead_halCheck (s := s) (i := i) (by omega)]

/-- An add to an unusable Halyard is discarded and counted (R334). -/
theorem State.halAdd_dead {s : State} {i : Nat} (hd : (s.halCheck i).halDead i = true) (a : Nat) (fromPeer : Bool) :
    (s.halAdd i a fromPeer).hal.words = s.hal.words ∧ (s.halAdd i a fromPeer).hal.discarded = s.hal.discarded + 1 := by
  simp [State.halAdd, hd]

theorem State.halSet_dead {s : State} {i : Nat} (hd : (s.halCheck i).halDead i = true) (c : Nat) : (s.halSet i c).hal.words = s.hal.words := by
  simp [State.halSet, hd]

theorem State.hword_of_words_eq {s t : State} (h : t.hal.words = s.hal.words) (k : Nat) : t.hword k = s.hword k := by
  simp [State.hword, h]

/-- Settles O15: the word that the window leaves is `HalWord.add` or `HalWord.setTo` of the one before, unless the check of its storage finds it
unusable. -/
theorem halyardWindow : Obligations.HalyardWindow := by
  intro s n v x dead hs hx hw hv hdead
  subst hx
  rw [← State.halDead_update] at hdead
  have hset : exec (.halyardSet n v) s = .next (s.keep (s.halSet n.toNat v.toNat)) := exec_halyardSet hs hw (by omega)
  have husable : dead = false → s.halDead n.toNat = false ∧ Tbl.get 0 s.hal.upset n.toNat ≤ 1 := fun h => by
    rw [State.halDead_update, h] at hdead
    simpa [Nat.lt_succ_iff] using hdead.symm
  refine ⟨⟨_, hset, ?set⟩, fun h0 => ?zero, fun h0 => ?add⟩
  case set =>
    cases hd : dead with
    | true =>
      have hk : ∀ k, (s.keep (s.halSet n.toNat v.toNat)).hword k = s.hword k :=
        State.hword_of_words_eq (State.halSet_dead (by rw [← hdead, hd]) _)
      exact ⟨fun k _ => hk k, fun _ => hk _, (fun h => nomatch h), (fun h => nomatch h), (fun h => nomatch h)⟩
    | false =>
      obtain ⟨hlive, hup⟩ := husable hd
      have hwords : (s.keep (s.halSet n.toNat v.toNat)).hal.words = _ := State.halSet_words hlive hup v.toNat
      have hword := State.hword_of_words_same hwords
      refine ⟨fun k hk => State.hword_of_words_other hwords hk, (fun h => nomatch h), fun _ hb => ?_, fun _ hb ht => ?_, fun _ hb ht => ?_⟩
      · rw [hword, HalWord.setTo_counter hb]
      · rw [hword, HalWord.setTo_barrier hb, HalWord.add_plain (h := { s.hword n.toNat with count := 0 }) (.inr ht)]; simp
      · rw [hword, HalWord.setTo_barrier hb, HalWord.add_barrier (h := { s.hword n.toNat with count := 0 }) hb ht]; simp
  case zero =>
    have he : exec (.halyardAdd n v) s = execHalyardAdd n v s := rfl
    rw [he, execHalyardAdd, gated_live _ hs, if_neg (by simp [h0])]; rfl
  case add =>
    have h1 : 1 ≤ v.toNat := by
      have : v.toNat ≠ 0 := fun h => h0 (BitVec.eq_of_toNat_eq h)
      omega
    refine ⟨_, exec_halyardAdd hs hw (by omega) h1, ?_⟩
    cases hd : dead with
    | true =>
      obtain ⟨hwords, hcount⟩ := State.halAdd_dead (s := s) (i := n.toNat) (by rw [← hdead, hd]) v.toNat false
      have hk : ∀ k, (s.keep (s.halAdd n.toNat v.toNat false)).hword k = s.hword k := State.hword_of_words_eq hwords
      exact ⟨fun k _ => hk k, fun _ => ⟨hk _, hcount⟩, (fun h => nomatch h), (fun h => nomatch h)⟩
    | false =>
      obtain ⟨hlive, hup⟩ := husable hd
      have hwords : (s.keep (s.halAdd n.toNat v.toNat false)).hal.words = _ := State.halAdd_words hlive hup v.toNat false
      have hword := State.hword_of_words_same hwords
      refine ⟨fun k hk => State.hword_of_words_other hwords hk, (fun h => nomatch h), fun _ hb => ?_, fun _ hb ht => ?_⟩
      · rw [hword, HalWord.add_plain hb]
      · rw [hword, HalWord.add_barrier hb ht]

end Sys2Proof.Machine
end

section
/-! SUPPORT. The event-in crossing and the event-out logic (R227, R228, R390). -/
namespace Sys2Proof.Machine

theorem State.evTake_zero (s : State) : s.evTake 0 = s := rfl

theorem State.evEnter_none (s : State) : s.evEnter 0 = s := by
  simp [State.evEnter]

/-- The lines of an event word that holds one line. -/
theorem lines_single {events : BitVec 64} {k : Nat} (hk : k < 64) (h : ∀ j, events.getLsbD j = decide (j = k)) :
    ((List.range 64).filter fun j => events.getLsbD j) = [k] := by
  have hf : ((List.range 64).filter fun j => events.getLsbD j) = (List.range 64).filter fun j => j == k :=
    List.filter_congr fun j _ => by rw [h j]; rfl
  rw [hf, List.filter_beq, List.count_eq_one_of_mem List.nodup_range (List.mem_range.mpr hk)]; rfl

/-- The rising edge of one line. -/
theorem rising_single {old : BitVec 64} {k : Nat} (hk : k < 64) (h : old.getLsbD k = false) (j : Nat) :
    (setBit old k true &&& ~~~old).getLsbD j = decide (j = k) := by
  rw [BitVec.getLsbD_and, BitVec.getLsbD_not, getLsbD_setBit]
  by_cases hj : j = k
  · subst hj; rw [h]; simp [hk]
  · have hkj : ¬k = j := fun e => hj e.symm
    cases ho : old.getLsbD j <;> simp [hj, hkj]

/-- One event: it enters the crossing, or sets the line's overflow bit. -/
theorem State.evEnter_single {s : State} {events : BitVec 64} {k : Nat} (h : ((List.range 64).filter fun j => events.getLsbD j) = [k]) :
    s.evEnter events = if s.hal.evInQ.length < 32 then { s with hal := { s.hal with evInQ := s.hal.evInQ ++ [k] } }
      else { s with time := { s.time with evOvf := setBit s.time.evOvf k true } } := by
  rw [State.evEnter, h]; rfl

/-- The only entry of the crossing is taken. -/
theorem State.evTake_single {s : State} {k : Nat} (h : s.hal.evInQ = [k]) :
    s.evTake 1 = State.evApply { s with hal := { s.hal with evInQ := [] } } k := by
  simp [State.evTake, h]

theorem State.evApply_unbound {s : State} {k : Nat} (h : Tbl.find s.hal.evBind k = none) : s.evApply k = s := by
  simp [State.evApply, h]

/-- A usable Halyard without an upset and without relay takes the event's add; the skew timers it may start are firmware's (R238). -/
theorem State.evApply_bound {s : State} {k i : Nat} (h : Tbl.find s.hal.evBind k = some i) (hd : s.halDead i = false)
    (hu : Tbl.get 0 s.hal.upset i = 0) (hr : (s.hword i).relay = false) : s.evApply k = (s.setHword i ((s.hword i).add 1)).armSkew := by
  simp [State.evApply, h, State.halAdd, State.halCheck, hu, hd, hr]

theorem exec_evIn {s : State} (hs : s.works) (lines : BitVec 64) (left : Fin 33) {u v : State} (hu : u = { s with pins := { s.pins with evIn := lines } })
    (hv : u.evEnter (lines &&& ~~~s.pins.evIn) = v) :
    exec (.evIn lines left) s = .next (u.keep (v.evTake (v.hal.evInQ.length - left.val))) := by
  subst hu hv
  have he : exec (.evIn lines left) s = execEvIn lines left s := rfl
  have ha : State.alive { s with pins := { s.pins with evIn := lines } } = true := hs.2
  rw [he, execEvIn, onPin_live _ _ hs.1]
  dsimp only
  rw [ha]; rfl

/-- Settles O16: one rising line is one entry of the crossing, and an entry taken is one add; the event-out logic is its four branches. -/
theorem eventLines : Obligations.EventLines := by
  intro s u k lines left hs hu
  have hq : u.hal = s.hal := by rw [hu]
  have hout : exec .evOutPulse s = execEvOutPulse s := rfl
  rw [hout, execEvOutPulse, running_works _ hs]
  refine ⟨fun hnone hroom => ?none, fun hl hk => ?single, fun h => ?_, fun l rest h => ⟨fun hb => ?_, fun hb => ?_⟩⟩
  case none =>
    rw [exec_evIn hs lines left hu rfl, hnone, State.evEnter_none, hq, Nat.sub_eq_zero_of_le hroom, hu]; rfl
  case single =>
    have hone := lines_single k.isLt (rising_single k.isLt hk)
    rw [← hl] at hone
    have henter := State.evEnter_single (s := u) hone
    rw [hq] at henter
    refine ⟨fun hfull hleft => ?_, fun hleft => ?_, fun hemp hleft hbind => ?_, fun i hemp hleft hbind hd hup hr => ?_⟩
    · rw [if_neg (by omega)] at henter
      rw [exec_evIn hs lines left hu henter]
      simp only [hq, hfull, hleft, State.evTake_zero, hu]; rfl
    · rw [if_pos (by omega)] at henter
      rw [exec_evIn hs lines left hu henter]
      simp only [List.length_append, List.length_singleton, hleft, Nat.sub_self, State.evTake_zero, hu]; rfl
    · rw [if_pos (by simp [hemp]), hemp] at henter
      rw [exec_evIn hs lines left hu henter]
      have hstep := State.evTake_single (s := { u with hal := { s.hal with evInQ := [] ++ [k.val] } }) rfl
      have hun := State.evApply_unbound (s := { u with hal := { s.hal with evInQ := [] } }) hbind
      simp only [List.nil_append, List.length_singleton, hleft, Fin.val_zero, Nat.sub_zero] at hstep ⊢
      rw [hstep, hun, hu, ← hemp]; rfl
    · rw [if_pos (by simp [hemp]), hemp] at henter
      refine ⟨_, exec_evIn hs lines left hu henter, ?_⟩
      have hstep := State.evTake_single (s := { u with hal := { s.hal with evInQ := [] ++ [k.val] } }) rfl
      have hadd := State.evApply_bound (s := { u with hal := { s.hal with evInQ := [] } }) hbind hd hup hr
      simp only [List.nil_append, List.length_singleton, hleft, Fin.val_zero, Nat.sub_zero] at hstep ⊢
      rw [hstep, hadd, hu, ← hemp]; rfl
  · rw [h]; rfl
  · rw [h]; dsimp only; rw [if_pos hb]; rfl
  · rw [h]; dsimp only; rw [hb]; rfl

end Sys2Proof.Machine
end

section
/-! SUPPORT. The registers of the time unit that act, and triggers (R285-R287, R291, R292). -/
namespace Sys2Proof.Machine

/-- Settles O17: each register is one assignment of the time unit. -/
theorem timeRegisters : Obligations.TimeRegisters := by
  intro s w hs
  have hofs : exec (.ofsApply w) s = .next (s.keep (s.ofsApply w)) := (running_works _ hs : execOfsApply w s = _)
  rw [hofs]
  refine ⟨(running_works _ hs : execIncFracWrite w s = _), fun hw hr => ?_, fun h => ?_, (running_works _ hs : execNsLoRead s = _)⟩
  · rw [State.ofsApply, if_pos ⟨hw, hr⟩]; rfl
  · rw [State.ofsApply, if_neg]
    · rfl
    · rintro ⟨hw, hr⟩
      obtain h | h := h
      · exact Bool.false_ne_true (h.symm.trans hw)
      · omega

/-- After its last firing a trigger is gone (R292). -/
theorem Trig.after_last {g : Trig} (h : g.period = 0 ∨ g.left = some 0) : g.after = none := by
  unfold Trig.after
  obtain h | h := h <;> simp [h]

/-- After any other firing it fires again one period later (R292). -/
theorem Trig.after_next {g : Trig} (hp : g.period ≠ 0) (hl : g.left ≠ some 0) :
    g.after = some { g with next := g.next + BitVec.ofNat 64 g.period, left := g.left.map (· - 1), late := false } := by
  unfold Trig.after
  rw [if_neg hp]
  split
  · next h => simp [h]
  · next h => exact absurd h hl
  · next h => simp [h]

/-- The pulse moves nothing of the time unit but the count of running pulses, and of the pins only the trigger lines. -/
theorem State.trigPulse_frame (s : State) (out : Nat) : s.trigPulse out =
    { s with time := { s.time with pulse := (s.trigPulse out).time.pulse }, pins := { s.pins with trigOut := (s.trigPulse out).pins.trigOut } } := by
  unfold State.trigPulse
  split <;> rfl

theorem State.trigPulse_trigOut {s : State} {out : Nat} (h : out ≠ 0) (hs : s.flt.safe = false) :
    (s.trigPulse out).pins.trigOut = setBit s.pins.trigOut (out - 1) true := by
  simp [State.trigPulse, h, hs]

theorem exec_triggerFiring {s : State} (hs : s.works) {k : Fin 32} {g : Trig} (hg : Tbl.find s.time.trig k.val = some g) :
    exec (.triggerFiring k) s = .next (s.keep (if reached64 s.now g.next.toNat then s.fireTrigger k.val g else s)) := by
  have he : exec (.triggerFiring k) s = execTriggerFiring k s := rfl
  rw [he, execTriggerFiring, running_works _ hs, hg]

/-- Settles O18: a firing replaces the trigger by `Trig.after` and starts the pulse. -/
theorem triggersFire : Obligations.TriggersFire := by
  intro s k g line hs hg
  rw [exec_triggerFiring hs hg]
  refine ⟨fun h => by rw [if_neg (by simp [h])]; rfl, fun h => ⟨_, rfl, ?fires⟩, (running_works _ hs : execTrigOutPulseEnd line s = _)⟩
  case fires =>
    rw [if_pos h, State.fireTrigger, State.trigPulse_frame]
    refine ⟨fun j hj => ?_, fun hl => ?_, fun hp hl => ?_, fun hl => ?_, fun hl => ?_, fun ho hsafe => ?_, fun ho => ?_, rfl, rfl, rfl⟩
    · cases hga : g.after with
      | none => exact Tbl.find_drop_other _ hj
      | some g' => exact Tbl.find_put_other _ _ hj
    · simp only [State.keep, Trig.after_last hl, Tbl.find_drop_same]
    · simp only [State.keep, Trig.after_next hp hl, Tbl.find_put_same]
    · exact if_pos hl
    · exact if_neg (by simp [hl])
    · exact State.trigPulse_trigOut ho hsafe
    · simp only [State.keep, ho, State.trigPulse, if_true]

end Sys2Proof.Machine
end

section
/-! SUPPORT. Writes to plain registers of the control window (R9, R15, R246). -/
namespace Sys2Proof

theorem bitOn_toNat {n : Nat} (w : BitVec n) (i : Nat) : bitOn w.toNat i = w.getLsbD i := by
  rw [bitOn, BitVec.getLsbD, Nat.testBit, Nat.and_comm, Nat.and_one_is_mod]
  cases h : w.toNat >>> i % 2 with
  | zero => rfl
  | succ k => obtain rfl : k = 0 := by omega
              rfl

end Sys2Proof

namespace Sys2Proof.Machine

theorem exec_registerWrite {s : State} (hs : s.works) (off : BitVec 18) (w : Word) : exec (.registerWrite off w) s =
    .next (s.keep (if s.serves (off.toNat / 4 * 4) then s.writeReg (off.toNat / 4 * 4) w else s)) :=
  (gated_live _ hs.1 : execRegisterWrite off w s = _)

/-- The words of the command mailboxes are plain registers of the mailboxes alone (Table CTRL-1). -/
theorem State.store_mail (s : State) {off : Nat} (h1 : 0x1000 ≤ off) (h2 : off < 0x1200) (w : Nat) :
    s.store off w = { s with ctl := { s.ctl with cmd := Tbl.set 0 s.ctl.cmd ((off - 0x1000) / 4) (BitVec.ofNat 32 w) } } := by
  have hctl : s.ctl.store off w = { s.ctl with cmd := Tbl.set 0 s.ctl.cmd ((off - 0x1000) / 4) (BitVec.ofNat 32 w) } := if_pos ⟨h1, h2⟩
  have htime : s.time.store off w = s.time := by rw [Time.store] <;> omega
  have hboot : s.boot.store off w = s.boot := by rw [Boot.store] <;> omega
  have hpwr : s.pwr.store off w = s.pwr := by rw [Pwr.store] <;> omega
  have hflt : s.flt.store off w = s.flt := by rw [Flt.store, if_neg] <;> omega
  rw [State.store, hctl, htime, hboot, hpwr, hflt]

/-- A write to a word of a command mailbox is held unless firmware owns the mailbox (R246). -/
theorem State.writeReg_mail (s : State) {n k : Nat} (hn : n < 8) (hk : k < 16) (w : Word) :
    s.writeReg (0x1000 + 64 * n + 4 * k) w = if s.ctl.cmdOwn.getLsbD n then s
      else { s with ctl := { s.ctl with cmd := Tbl.set 0 s.ctl.cmd (16 * n + k) w } } := by
  have hlow : 0x1000 ≤ 0x1000 + 64 * n + 4 * k ∧ 0x1000 + 64 * n + 4 * k < 0x1200 := by omega
  have hlock : s.locked (0x1000 + 64 * n + 4 * k) = s.ctl.cmdOwn.getLsbD n := by
    rw [State.locked, if_pos hlow, show (0x1000 + 64 * n + 4 * k - 0x1000) / 64 = n by omega]
  have hplain : s.writeReg (0x1000 + 64 * n + 4 * k) w =
      if s.locked (0x1000 + 64 * n + 4 * k) then s else s.store (0x1000 + 64 * n + 4 * k) w.toNat := by
    unfold State.writeReg
    simp only [show ∀ c, 0x1200 ≤ c → (0x1000 + 64 * n + 4 * k = c) = False from fun c hc => eq_false (by omega), Nat.reduceLeDiff, if_false]
    rw [if_neg (by omega), if_neg (by omega)]
  rw [hplain, hlock, State.store_mail s hlow.1 hlow.2, show (0x1000 + 64 * n + 4 * k - 0x1000) / 4 = 16 * n + k by omega, BitVec.ofNat_toNat,
    BitVec.setWidth_eq]

/-! ### Registers that hold what is written -/

theorem State.writeReg_rplEn (s : State) (w : Word) : s.writeReg 0x1404 w = { s with ctl := { s.ctl with rplEn := w.setWidth 8 } } := by
  simp [State.writeReg, State.locked, State.store, Ctl.store, Time.store, Boot.store, Pwr.store, Flt.store, BitVec.ofNat_toNat]

theorem State.writeReg_fltPin (s : State) (w : Word) :
    s.writeReg 0x2004 w = { s with flt := { s.flt with hold := w.getLsbD 0, auto := w.getLsbD 1 } } := by
  simp [State.writeReg, State.locked, State.store, Ctl.store, Time.store, Boot.store, Pwr.store, Flt.store, bitOn_toNat]

theorem State.writeReg_capcfg (s : State) (w : Word) : s.writeReg 0x4040 w = { s with time := { s.time with capcfg := w.setWidth 16 } } := by
  simp [State.writeReg, State.locked, State.store, Ctl.store, Time.store, Boot.store, Pwr.store, Flt.store, BitVec.ofNat_toNat]

theorem State.writeReg_trigLate (s : State) (w : Word) :
    s.writeReg 0x404C w = { s with time := { s.time with trigLate := s.time.trigLate &&& ~~~ w } } := by
  simp [State.writeReg, State.locked, State.store, Ctl.store, Time.store, Boot.store, Pwr.store, Flt.store, w1c]

/-- `BOOT.JOURNAL_BASE` is locked from `READY` on (R15). -/
theorem State.writeReg_journalBase (s : State) (w : Word) :
    s.writeReg 0x5020 w = if s.boot.done then s else { s with boot := { s.boot with journalBase := w } } := by
  simp [State.writeReg, State.locked, State.store, Ctl.store, Time.store, Boot.store, Pwr.store, Flt.store]

theorem State.writeReg_unassigned (s : State) (w : Word) : s.writeReg 0x0800 w = s := by
  simp [State.writeReg, State.locked, State.store, Ctl.store, Time.store, Boot.store, Pwr.store, Flt.store]

/-- Settles O19: the clears and the mailbox words have equations of their own, every other offset evaluates. -/
theorem registerWrites : Obligations.RegisterWrites := by
  intro s w hs
  have hserves : ∀ n, n < 0xF000 → s.serves n = true := fun n h => by
    unfold State.serves
    split
    · rfl
    · simp [hs.2]; omega
  have hto : ∀ (off : BitVec 18) (n : Nat) {t : State}, off.toNat / 4 * 4 = n → n < 0xF000 → s.writeReg n w = t →
      exec (.registerWrite off w) s = .next (s.keep t) := fun off n t hn hlt h => by
    rw [exec_registerWrite hs, hn, if_pos (hserves n hlt), h]
  have hmail : ∀ n k, n < 8 → k < 16 → exec (.registerWrite (BitVec.ofNat 18 (0x1000 + 64 * n + 4 * k)) w) s = .next (s.keep
      (if s.ctl.cmdOwn.getLsbD n then s else { s with ctl := { s.ctl with cmd := Tbl.set 0 s.ctl.cmd (16 * n + k) w } })) := fun n k hn hk => by
    have hoff : (BitVec.ofNat 18 (0x1000 + 64 * n + 4 * k)).toNat / 4 * 4 = 0x1000 + 64 * n + 4 * k := by
      rw [BitVec.toNat_ofNat]; omega
    exact hto _ _ hoff (by omega) (s.writeReg_mail hn hk w)
  have hlk : exec (.lkClear w) s = .next (s.keep (s.lkClear w)) := (running_works _ hs : execLkClear w s = _)
  have hdur : exec (.durClear w) s = .next (s.keep (s.durClear w)) := (gated_live _ hs.1 : execDurClear w s = _)
  have hcnt : exec (.cntClear w) s = .next (s.keep (s.cntClear w)) := (running_works _ hs : execCntClear w s = _)
  refine ⟨?_, ?_, ?_, fun n k hn hk => ⟨fun h => ?_, fun h => ?_⟩, ?_, ?_, ?_, ?_, fun h => ?_, fun h => ?_, ?_⟩
  · rw [hlk, State.lkClear]; split <;> rfl
  · rw [hdur, State.durClear]; split <;> rfl
  · rw [hcnt, State.cntClear]; split <;> rfl
  · rw [hmail n k hn hk, if_neg (by simp [h])]; rfl
  · rw [hmail n k hn hk, if_pos h]; rfl
  · exact hto 0x1404 0x1404 rfl (by decide) (s.writeReg_rplEn w)
  · exact hto 0x2004 0x2004 rfl (by decide) (s.writeReg_fltPin w)
  · exact hto 0x4040 0x4040 rfl (by decide) (s.writeReg_capcfg w)
  · exact hto 0x404C 0x404C rfl (by decide) (s.writeReg_trigLate w)
  · exact hto 0x5020 0x5020 rfl (by decide) ((s.writeReg_journalBase w).trans (if_pos h))
  · exact hto 0x5020 0x5020 rfl (by decide) ((s.writeReg_journalBase w).trans (if_neg (by simp [h])))
  · exact hto 0x0800 0x0800 rfl (by decide) (s.writeReg_unassigned w)

end Sys2Proof.Machine
end

section
/-! SUPPORT. Messages that fail a check, HELLO and FAULT_ACK (R2, R250, R258, Table CTRL-11, Table CTRL-13). -/
namespace Sys2Proof.Machine

/-- A mailbox command other than `DETACH` passes `command` with its opcode (Table CTRL-13). -/
theorem exec_command {c : Instr} {op : Nat} {mine : Nat → Bool} (h : c.message = some (op, mine)) (hd : ∀ v, c ≠ .detach v) (s : State) :
    ∃ body : Body, exec c s = command op mine body s := by
  cases c
  case detach v => exact absurd rfl (hd v)
  all_goals cases h
  all_goals exact ⟨_, rfl⟩

/-- A message that fails a check of Table CTRL-11 is answered before the body runs. -/
theorem serve_failed {s : State} {n : Nat} {rest : List Nat} {op m : Nat} {mine : Nat → Bool} (body : Body) (h1 : s.ctl.fwReady = true)
    (h2 : s.ctl.hand = none) (h3 : s.ctl.submitted = n :: rest) (h4 : bits (s.ctl.cmdWord n 0) 15 0 = op) (hm : mine (s.arg n 0) = true)
    (h6 : s.ctl.freeReply = some m) (h5 : s.messageStatus n ≠ 0) :
    serve op mine body s = (s.taken n rest).posted n m (s.messageStatus n) [] := by
  have ht : takesRow op mine (bits (s.ctl.cmdWord n 0) 15 0) (s.ctl.cmdWord n 2) = true := by
    have hm' : mine (s.ctl.cmdWord n 2) = true := hm
    simp [takesRow, h4, hm']
  have hserve : serve op mine body s = (s.taken n rest).answer (BitVec.ofNat 16 (bits (s.ctl.cmdWord n 0) 31 16))
      (BitVec.ofNat 16 (bits (s.ctl.cmdWord n 0) 15 0)) (s.messageStatus n) [] := by
    simp only [serve, h1, h2, h3, ht, h5, Bool.not_true, Option.isSome_none, Bool.or_self, Bool.false_eq_true, ne_eq, not_false_eq_true, if_true,
      if_false]
    rfl
  have hword : ∀ hi lo, hi + 1 - lo = 16 → (BitVec.ofNat 16 (bits (s.ctl.cmdWord n 0) hi lo)).toNat = bits (s.ctl.cmdWord n 0) hi lo :=
    fun hi lo h => by
      have hlt := bits_lt (s.ctl.cmdWord n 0) hi lo
      rw [h] at hlt
      rw [BitVec.toNat_ofNat, Nat.mod_eq_of_lt hlt]
  rw [hserve, answer_free (t := s.taken n rest) _ _ _ _ h6, hword 31 16 rfl, hword 15 0 rfl, if_neg h5]
  rfl

/-- Settles O21: `serve` answers the status before it calls the body, whichever command the row is. -/
theorem failedChecks : Obligations.FailedChecks := by
  intro c op mine s n rest m hc hs h1 h2 h3 h4 hm h6 h5
  have hserve : ∀ body, serve op mine body s = (s.taken n rest).posted n m (s.messageStatus n) [] := fun body =>
    serve_failed body h1 h2 h3 h4 hm h6 h5
  by_cases hd : ∃ v, c = .detach v
  · obtain ⟨v, rfl⟩ := hd
    cases hc
    rw [show exec (.detach v) s = execDetach v s from rfl, execDetach, running_works _ hs]
    rw [show anyVariant = fun _ => true from rfl, hserve]
    rfl
  · obtain ⟨body, he⟩ := exec_command hc (fun v h => hd ⟨v, h⟩) s
    rw [he, command_works op mine body hs, hserve]
    rfl

/-- No `FAULT` reply finds a free place while all 16 are taken (R258). -/
theorem Ctl.promote_full {c : Ctl} (h : 16 ≤ c.unacked.length) (n : Nat) : c.promote n = c := by
  cases n with
  | zero => rfl
  | succ n =>
    unfold Ctl.promote
    split
    · rfl
    · rw [if_neg (by omega)]

/-- With one place free the oldest waiting `FAULT` reply takes it. -/
theorem Ctl.promote_one {c : Ctl} {f : FaultMsg} {fs : List FaultMsg} (h : c.faultWait = f :: fs) (hl : c.unacked.length = 15) (n : Nat) :
    c.promote (n + 1) = { c with
      faultWait := fs, fseq := c.fseq + 1, unacked := c.unacked ++ [c.fseq], async := c.async ++ [⟨.fault, f.payload c.fseq.toNat⟩] } := by
  rw [Ctl.promote]
  simp only [h, hl]
  exact Ctl.promote_full (by simp [hl]) n

theorem faultAckBody_found {s : State} {p : Nat → Nat} (hz : bits (p 0) 31 16 = 0) (hq : BitVec.ofNat 16 (bits (p 0) 15 0) ∈ s.ctl.unacked) :
    faultAckBody s p = Ans.ok { s with ctl := (Ctl.promote s.ctl.faultWait.length
      { s.ctl with unacked := s.ctl.unacked.erase (BitVec.ofNat 16 (bits (p 0) 15 0)) }) } [] := by
  simp [faultAckBody, hz, hq]

theorem faultAckBody_missing {s : State} {p : Nat → Nat} (hz : bits (p 0) 31 16 = 0) (hq : BitVec.ofNat 16 (bits (p 0) 15 0) ∉ s.ctl.unacked) :
    faultAckBody s p = Ans.err s 7 := by
  simp [faultAckBody, hz, hq]

/-- `FAULT_ACK` of a number that firmware holds, by what promoting then leaves. -/
theorem exec_faultAck_found {s : State} {n m : Nat} {rest : List Nat} {q : BitVec 16} {c : Ctl} (h : s.hears n rest 0x90 m)
    (hz : bits (s.arg n 0) 31 16 = 0) (hq : q = BitVec.ofNat 16 (bits (s.arg n 0) 15 0)) (hm : q ∈ s.ctl.unacked)
    (hc : Ctl.promote s.ctl.faultWait.length { (s.taken n rest).ctl with unacked := s.ctl.unacked.erase q } = c)
    (hw : c.cmdWord n 0 = s.ctl.cmdWord n 0) (hf : c.rplFull = s.ctl.rplFull) :
    exec .faultAck s = .next (s.keep (({ s.taken n rest with ctl := c }).posted n m 0 [])) := by
  subst hq hc
  exact command_answered (t := { s.taken n rest with ctl := _ }) (body := fun s p => (faultAckBody s p).verdict) h rfl
    (congrArg Ans.verdict (faultAckBody_found (s := s.taken n rest) hz hm)) (.inl rfl) hw hf

/-- Settles O20: `HELLO` changes nothing; an acknowledgement takes the number away, and with 16 places taken before, one reply takes the place. -/
theorem firmwareAnswers : Obligations.FirmwareAnswers := by
  intro s n rest m q hq
  refine ⟨fun h => ?hello, fun h hz => ⟨fun hm => ?_, fun hm hw => ?_, fun f fs hm hw hl => ?_⟩⟩
  case hello =>
    exact command_posted (t := s.taken n rest) (body := fun s p => (helloBody s p).verdict) h rfl rfl rfl
  · rw [hq] at hm
    exact command_answered (t := s.taken n rest) (body := fun s p => (faultAckBody s p).verdict) h rfl
      (congrArg Ans.verdict (faultAckBody_missing (s := s.taken n rest) hz hm)) (.inr rfl) rfl rfl
  · have hc : Ctl.promote s.ctl.faultWait.length { (s.taken n rest).ctl with unacked := s.ctl.unacked.erase q } =
        { (s.taken n rest).ctl with unacked := s.ctl.unacked.erase q } := by rw [hw]; rfl
    exact exec_faultAck_found h hz hq hm hc rfl rfl
  · have hc := Ctl.promote_one (c := { (s.taken n rest).ctl with unacked := s.ctl.unacked.erase q }) hw
      (by simp [List.length_erase_of_mem hm, hl]) fs.length
    rw [← List.length_cons (a := f), ← hw] at hc
    exact exec_faultAck_found h hz hq hm hc rfl rfl

end Sys2Proof.Machine
end

section
/-! SUPPORT. `TRIGGER_SET` and `TRIGGER_CANCEL` (Table LINK-13, R292). -/
namespace Sys2Proof.Machine

theorem armTrigger_fields (now time period nrep out : Nat) : (armTrigger now time period nrep out).period = period ∧
    (armTrigger now time period nrep out).out = out ∧ (armTrigger now time period nrep out).late = reached64 now time :=
  ⟨rfl, rfl, rfl⟩

/-- A trigger set for a time to come keeps that time and all its repeats. -/
theorem armTrigger_future {now time : Nat} (h : reached64 now time = false) (period nrep out : Nat) :
    (armTrigger now time period nrep out).next = BitVec.ofNat 64 time ∧
      (armTrigger now time period nrep out).left = if period ≠ 0 ∧ nrep = 0 then none else some nrep := by
  simp [armTrigger, h, and_comm]

/-- Settles O25: both forms pass the checks of `triggerSetBody`, and put or drop one entry. -/
theorem triggerCommands : Obligations.TriggerCommands := by
  intro s n rest m k out time period nrep h hk hout htime hperiod hnrep hz1 hz2 hz3 hz4
  subst hk hout htime hperiod hnrep
  refine ⟨fun hc ho hr hp => ⟨armTrigger s.now (s.arg n 1 + s.arg n 2 * 2 ^ 32) (s.arg n 3) (bits (s.arg n 4) 15 0) (bits (s.arg n 0) 12 8), ?set,
    rfl, rfl, rfl, fun hf => armTrigger_future hf _ _ _⟩, fun hc ho ht hp hr hsome => ?cancel⟩
  case set =>
    have hbody : triggerSetBody (s.taken n rest) (s.arg n) = Ans.ok { s.taken n rest with time := { s.time with
        trig := Tbl.put (bits (s.arg n 0) 4 0) (armTrigger s.now (s.arg n 1 + s.arg n 2 * 2 ^ 32) (s.arg n 3) (bits (s.arg n 4) 15 0)
          (bits (s.arg n 0) 12 8)) s.time.trig } } [] := by
      unfold triggerSetBody
      dsimp only
      rw [if_neg, if_neg, hc]
      · rfl
      · omega
      · simp only [hz1, hz2, hz3, hz4, hc]; simp; omega
    exact command_posted (body := fun s p => (triggerSetBody s p).verdict) h (by simp [hc]) (congrArg Ans.verdict hbody) rfl
  case cancel =>
    have hbody : triggerSetBody (s.taken n rest) (s.arg n) = Ans.ok { s.taken n rest with time := { s.time with
        trig := Tbl.drop (bits (s.arg n 0) 4 0) s.time.trig } } [] := by
      unfold triggerSetBody
      dsimp only
      rw [if_neg, if_neg, if_pos hc, if_neg]
      · rfl
      · simpa [Option.isSome_iff_ne_none] using hsome
      · omega
      · simp only [hz1, hz2, hz3, hz4, ho, ht, hp, hr]; simp
    exact command_posted (body := fun s p => (triggerSetBody s p).verdict) h hc (congrArg Ans.verdict hbody) rfl

end Sys2Proof.Machine
end

section
/-! SUPPORT. `MBX.GO`, `MBX.RELEASE` and the placement of replies (R246, R247, R252, R263). -/
namespace Sys2Proof.Machine

/-- Setting the bits of a list: each bit of it is set, every other stands. -/
theorem getLsbD_foldl_setBit {w : Nat} (l : List Nat) : ∀ (v : BitVec w) (j : Nat), j < w →
    (l.foldl (fun o n => setBit o n true) v).getLsbD j = (v.getLsbD j || decide (j ∈ l)) := by
  induction l with
  | nil => simp
  | cons a l ih =>
    intro v j hj
    rw [List.foldl_cons, ih _ j hj, getLsbD_setBit]
    by_cases hja : a = j
    · simp [hja, hj]
    · have hja' : ¬j = a := fun e => hja e.symm
      simp [hja, hja']

/-- A reply mailbox that firmware finds free is one of the eight. -/
theorem Ctl.freeReply_lt {c : Ctl} {m : Nat} (h : c.freeReply = some m) : m < 8 :=
  List.mem_range.mp (List.mem_of_find?_eq_some h)

/-- A placed reply marks its mailbox full. -/
theorem Ctl.getLsbD_rplFull_putReply {c : Ctl} {m : Nat} (h : m < 8) (ws : List Word) : (c.putReply m ws).rplFull.getLsbD m = true :=
  getLsbD_setBit_same _ _ h

theorem Ctl.reply_free {c : Ctl} {m : Nat} (h : c.freeReply = some m) (r : Reply) :
    c.reply r = { c.putReply m (messageWords r.token.toNat r.code.toNat r.status r.payload) with hand := none } := by
  simp [Ctl.reply, h]

theorem Ctl.placeAsync_free {c : Ctl} {m : Nat} {a : Async} {rest : List Async} (h : c.freeReply = some m) (ha : c.async = a :: rest) :
    c.placeAsync = { c.putReply m (messageWords 0xFFFF a.kind.code 0 a.payload) with async := rest } := by
  simp [Ctl.placeAsync, h, ha]

/-- With a reply in hand, that one is placed. -/
theorem exec_replyPlacement_hand {s : State} (hs : s.works) (hf : s.ctl.fwReady = true) {r : Reply} (hr : s.ctl.hand = some (.reply r)) :
    exec .replyPlacement s = .next (s.keep (s.placeHand r)) := by
  rw [show exec .replyPlacement s = execReplyPlacement s from rfl, execReplyPlacement, running_works _ hs, if_neg (by simp [hf]), hr]

/-- With none in hand, the oldest asynchronous reply is placed. -/
theorem exec_replyPlacement_async {s : State} (hs : s.works) (hf : s.ctl.fwReady = true) (hr : ∀ r, s.ctl.hand ≠ some (.reply r)) :
    exec .replyPlacement s = .next (s.keep { s with ctl := s.ctl.placeAsync }) := by
  rw [show exec .replyPlacement s = execReplyPlacement s from rfl, execReplyPlacement, running_works _ hs, if_neg (by simp [hf])]
  split
  · next r h => exact absurd h (hr r)
  · rfl

/-- The reply of a `DETACH` is placed once the ports are quiet, and ends the detach (R365). -/
theorem State.placeHand_detach {s : State} {r : Reply} {m : Nat} (hc : r.code = 0x11) (hst : r.status = 0) (hq : s.quiet = true)
    (hm : s.ctl.freeReply = some m) : s.placeHand r = State.quiesce { s with
      ctl := { s.ctl.putReply m (messageWords r.token.toNat r.code.toNat r.status r.payload) with hand := none } } := by
  rw [State.placeHand, if_pos ⟨hc, hst⟩, if_pos hq, Ctl.reply_free hm]
  rfl

/-- Settles O42: the two registers set and clear their bits; a placement takes the reply in hand, and an asynchronous one only when there is none. -/
theorem mailboxPort : Obligations.MailboxPort := by
  intro s w hs
  have hgo : exec (.mbxGo w) s = .next (s.keep (s.mbxGo w)) := (gated_live _ hs.1 : execMbxGo w s = _)
  have hrel : exec (.mbxRelease w) s = .next (s.keep (s.mbxRelease w)) := (gated_live _ hs.1 : execMbxRelease w s = _)
  rw [hgo, hrel]
  refine ⟨fun hf => ?_, fun hf => ?go, ⟨_, rfl, rfl, fun n hn => ?_⟩, fun m hf hm => ⟨fun r hr hd => ?_, fun r hr hc hst => ⟨fun hq => ?_, fun hq => ?_⟩,
    fun a rest hn ha => ?_⟩⟩
  · rw [State.mbxGo, if_pos (by simp [hf])]; rfl
  case go =>
    rw [State.mbxGo, if_neg (by simp [hf])]
    refine ⟨_, rfl, rfl, rfl, fun n hn => ?_⟩
    rw [getLsbD_foldl_setBit _ _ _ hn]
    simp only [List.mem_filter, List.mem_range, hn, true_and]
    cases s.ctl.cmdOwn.getLsbD n <;> cases w.getLsbD n <;> rfl
  · simp only [State.mbxRelease, BitVec.getLsbD_and, BitVec.getLsbD_not, BitVec.getLsbD_setWidth, hn, decide_true, Bool.true_and]
  · rw [exec_replyPlacement_hand hs hf hr, State.placeHand, if_neg, Ctl.reply_free hm]
    · rfl
    · rintro ⟨h1, h2⟩
      exact hd.elim (fun h => h h1) (fun h => h h2)
  · rw [exec_replyPlacement_hand hs hf hr, State.placeHand, if_pos ⟨hc, hst⟩, if_neg (by simp [hq]), ← hr]; rfl
  · rw [exec_replyPlacement_hand hs hf hr, State.placeHand_detach hc hst hq hm]
    have hfull := Ctl.getLsbD_rplFull_putReply (c := s.ctl) (Ctl.freeReply_lt hm) (messageWords r.token.toNat r.code.toNat r.status r.payload)
    exact ⟨_, rfl, rfl, rfl, rfl, rfl, hfull⟩
  · rw [exec_replyPlacement_async hs hf hn, Ctl.placeAsync_free hm ha]; rfl

end Sys2Proof.Machine
end

section
/-! SUPPORT. What firmware reads of host memory depends on the build and the translation root alone; creating and destroying tensors (R49, R55, R58,
R80, R130, R151). -/
namespace Sys2Proof.Machine

/-- A body that ends with `OK` has its reply placed. -/
theorem command_ok {body : State → (Nat → Nat) → Ans} {s t : State} {n : Nat} {rest : List Nat} {op m : Nat} {payload : List Nat}
    {mine : Nat → Bool} (h : s.hears n rest op m) (hm : mine (s.arg n 0) = true) (hb : body (s.taken n rest) (s.arg n) = Ans.ok t payload)
    (hc : t.ctl = (s.taken n rest).ctl) :
    command op mine (fun s p => (body s p).verdict) s = .next (s.keep (t.posted n m 0 payload)) :=
  command_posted h hm (congrArg Ans.verdict hb) hc

/-- A body that ends with `OK` and leaves the shell alone gives its state with the reply placed. -/
theorem command_ok_kept {body : State → (Nat → Nat) → Ans} {s t : State} {n : Nat} {rest : List Nat} {op m : Nat} {payload : List Nat}
    {mine : Nat → Bool} (h : s.hears n rest op m) (hm : mine (s.arg n 0) = true) (hb : body (s.taken n rest) (s.arg n) = Ans.ok t payload)
    (hc : t.ctl = (s.taken n rest).ctl) (hk : s.keep t = t) :
    command op mine (fun s p => (body s p).verdict) s = .next (t.posted n m 0 payload) := by
  rw [command_ok h hm hb hc, show s.keep (t.posted n m 0 payload) = (s.keep t).posted n m 0 payload from rfl, hk]

theorem fwTranslate_congr {s t : State} (hb : t.build = s.build) (hr : t.fw.root = s.fw.root) (h : HostView) (va : Nat) :
    fwTranslate t h va = fwTranslate s h va := by
  unfold fwTranslate
  rw [hb, hr]

theorem fwReadN_congr {s t : State} (hb : t.build = s.build) (hr : t.fw.root = s.fw.root) (h : HostView) :
    ∀ k a n, fwReadN t h k a n = fwReadN s h k a n
  | 0, a, n => by cases n <;> rfl
  | k + 1, a, 0 => rfl
  | k + 1, a, n + 1 => by
    unfold fwReadN
    simp only [fwTranslate_congr hb hr, hb, fwReadN_congr hb hr h k]

/-- A read by firmware depends on the build and the translation root alone. -/
theorem fwRead_congr {s t : State} (hb : t.build = s.build) (hr : t.fw.root = s.fw.root) (h : HostView) (a n : Nat) :
    fwRead t h a n = fwRead s h a n := fwReadN_congr hb hr h _ a n

theorem fwRead_taken (s : State) (n : Nat) (rest : List Nat) (h : HostView) (a k : Nat) : fwRead (s.taken n rest) h a k = fwRead s h a k :=
  fwRead_congr (s := s) (t := s.taken n rest) rfl rfl h a k

/-- The owner table of a split tensor that is created is made of owners (R58). -/
theorem owners_valid {o : List Byte} (h : ∀ x ∈ o, x = 0x00 ∨ x = 0x01 ∨ x = 0xFF) :
    (o.any fun x => decide (x ≠ 0x00) && decide (x ≠ 0x01) && decide (x ≠ 0xFF)) = false := by
  rw [List.any_eq_false]
  intro x hx
  obtain rfl | rfl | rfl := h x hx <;> decide

/-- A tensor in one place is created under the handle that firmware issues. -/
theorem tensorCreateBody_whole {h : HostView} {pick place : Nat} {s : State} {p : Nat → Nat} {b : List Byte} {d : Desc} {k : Nat}
    (hz : bits (p 1) 31 20 = 0) (ha : p 0 % 64 = 0) (hb : fwRead s h (addr52 (p 0) (p 1)) 64 = some b) (hd : s.checkDesc b = .inr d)
    (hlive : s.liveHandles < 4095) (hk : s.newHandle pick = some k) (hloc : d.loc ≠ 2)
    (hfree : d.loc = 1 → meetsAny (s.fw.held ++ s.reservations) d.allocBase (d.allocLen * 64) = false) :
    tensorCreateBody h pick place s p = Ans.ok { s with fw := { s.fw with tensors := Tbl.put k ⟨d, [], none⟩ s.fw.tensors } } [k] := by
  have hmeet : ¬(d.loc = 1 ∧ meetsAny (s.fw.held ++ s.reservations) d.allocBase (d.allocLen * 64) = true) := by
    rintro ⟨h1, h2⟩; rw [hfree h1] at h2; cases h2
  unfold tensorCreateBody
  simp only [hz, ha, hb, hd, hloc, hk, hmeet, show ¬s.liveHandles ≥ 4095 by omega, ne_eq, not_true_eq_false, if_false, List.any_nil, false_and,
    Bool.false_eq_true]

/-- A split tensor is created with its owner table in a place that firmware holds. -/
theorem tensorCreateBody_split {h : HostView} {pick place : Nat} {s : State} {p : Nat → Nat} {b o : List Byte} {d : Desc} {k a : Nat}
    (hz : bits (p 1) 31 20 = 0) (ha : p 0 % 64 = 0) (hb : fwRead s h (addr52 (p 0) (p 1)) 64 = some b) (hd : s.checkDesc b = .inr d)
    (hlive : s.liveHandles < 4095) (hk : s.newHandle pick = some k) (hloc : d.loc = 2)
    (ho : fwRead s h (d.allocBase + d.ownerOff) d.nst = some o) (hown : ∀ x ∈ o, x = 0x00 ∨ x = 0x01 ∨ x = 0xFF)
    (htag : s.tagHeld d.peerTag = false) (hplace : s.holdPlace place o.length = some a) :
    tensorCreateBody h pick place s p = Ans.ok { (s.hold a o.length).plateFill a o with fw := { (s.hold a o.length).fw with
      tensors := Tbl.put k ⟨d, o, some (a, o.length)⟩ s.fw.tensors } } [k] := by
  unfold tensorCreateBody
  simp only [hz, ha, hb, hd, hloc, ho, owners_valid hown, htag, hk, hplace, show ¬s.liveHandles ≥ 4095 by omega, ne_eq, not_true_eq_false, if_false,
    if_true, and_false, Bool.false_eq_true, show ¬(2 = 1) by decide, false_and]
  rfl

/-- Filling a range of the pool writes those bytes (R25). -/
theorem State.plateFill_bytes (s : State) (a : Nat) (data : List Byte) :
    (s.plateFill a data).plate.bytes = Tbl.setRun 0 s.plate.bytes a data := by
  have hwhole : ∀ (l : List Nat) (p : Plate), (l.foldl (fun (p : Plate) i => if a % 8 = 0 then { p with
      poison := Tbl.set false p.poison (wordKey a + i) false, upset := Tbl.drop (wordKey a + i) p.upset } else p) p).bytes = p.bytes := fun l p =>
    foldl_keeps (fun q : Plate => q.bytes = p.bytes) _ (fun q i hq => by split <;> exact hq) l p rfl
  exact congrArg (fun t => Tbl.setRun 0 t a data) (hwhole _ _)

/-! ### Unloading models -/

/-- `t` differs from `s` at most in the loaded models and the lanes. -/
def State.ModelShape (s t : State) : Prop := t = { s with fw := { s.fw with models := t.fw.models }, lanes := t.lanes }

theorem State.ModelShape.trans {s t u : State} (h : s.ModelShape t) (k : t.ModelShape u) : s.ModelShape u := by
  unfold State.ModelShape at *; rw [k, h]

/-- Lanes forget a model, and nothing else changes. -/
theorem State.forgetModel_frame (s : State) (m : Nat) : s.forgetModel m = { s with lanes := (s.forgetModel m).lanes } := by
  unfold State.forgetModel
  refine foldl_keeps (fun u : State => u = { s with lanes := u.lanes }) _ (fun u p hu => ?_) _ _ rfl
  rw [hu]; rfl

theorem State.unloadModel_models (s : State) (m : Nat) : (s.unloadModel m).fw.models = Tbl.drop m s.fw.models := by
  rw [State.unloadModel, State.forgetModel_frame]

theorem State.modelShape_unloadModel (s : State) (m : Nat) : s.ModelShape (s.unloadModel m) := by
  unfold State.ModelShape
  conv_lhs => rw [State.unloadModel, State.forgetModel_frame]
  rw [State.unloadModel_models, State.unloadModel]

theorem State.modelShape_unloadModels (l : List Nat) (s : State) : s.ModelShape (l.foldl State.unloadModel s) :=
  foldl_keeps (fun u => s.ModelShape u) _ (fun u m hu => hu.trans (u.modelShape_unloadModel m)) l s rfl

/-- An unloaded model stays unloaded, and each of the list is. -/
theorem State.find_models_unloadModels {k : Nat} (l : List Nat) : ∀ s : State, k ∈ l ∨ Tbl.find s.fw.models k = none →
    Tbl.find (l.foldl State.unloadModel s).fw.models k = none := by
  induction l with
  | nil => simp
  | cons m l ih =>
    intro s h
    refine ih _ ?_
    rw [State.unloadModel_models]
    by_cases hkm : k = m
    · subst hkm; exact .inr (Tbl.find_drop_same _ _)
    · rw [Tbl.find_drop_other _ hkm]
      exact h.imp (fun h => (List.mem_cons.mp h).resolve_left hkm) id

theorem State.mem_modelsIn {s : State} {h : Nat} {e : Nat × Model} (he : e ∈ s.fw.models) (hh : e.2.handle = h) : e.1 ∈ s.modelsIn h :=
  List.mem_map.mpr ⟨e, List.mem_filter.mpr ⟨he, by simpa using hh⟩, rfl⟩

/-- A destroyed tensor: its models are unloaded, its held space is released, its handle is dropped. -/
theorem tensorDestroyBody_unused {s : State} {p : Nat → Nat} {t : Tensor} (hz : bits (p 0) 31 16 = 0)
    (hbun : Tbl.find s.fw.buntings (bits (p 0) 15 0) = none) (ht : s.tensor (bits (p 0) 15 0) = some t)
    (h1 : s.programNames (bits (p 0) 15 0) = false) (h2 : s.streamNames (bits (p 0) 15 0) = false) (h3 : s.memberNamed (bits (p 0) 15 0) = false)
    (h4 : s.storeInUse (bits (p 0) 15 0) = false) :
    ∃ (models : Tbl Model) (lanes : Tbl Lane),
      (∀ e ∈ s.fw.models, e.2.handle = bits (p 0) 15 0 → Tbl.find models e.1 = none) ∧
      tensorDestroyBody s p = Ans.ok { s with
        fw := { s.fw with
          models := models
          held := match t.heldAt with | some r => s.fw.held.erase r | none => s.fw.held
          tensors := Tbl.drop (bits (p 0) 15 0) s.fw.tensors }
        lanes := lanes } [] := by
  have hshape := State.modelShape_unloadModels (s.modelsIn (bits (p 0) 15 0)) s
  refine ⟨_, ((s.modelsIn (bits (p 0) 15 0)).foldl State.unloadModel s).lanes,
    fun e he hh => State.find_models_unloadModels _ s (.inl (State.mem_modelsIn he hh)), ?_⟩
  unfold tensorDestroyBody
  simp only [hz, hbun, ht, h1, h2, h3, h4, ne_eq, not_true_eq_false, if_false, Option.isSome_none, Bool.false_eq_true, Bool.or_self]
  cases t.heldAt <;> dsimp only <;> rw [hshape] <;> rfl

/-- Settles O26: the two forms of a create put one entry; a destroy drops it with the models that lie in it. -/
theorem tensorCommands : Obligations.TensorCommands := by
  refine ⟨fun h pick place s n rest m b d k hh hz ha hb hd hlive hk => ⟨fun hloc hfree => ?whole, fun o a hloc ho hown htag hplace => ?split⟩,
    fun s n rest m h t hh hhandle hz hbun ht h1 h2 h3 h4 => ?destroy⟩
  case whole =>
    have hb' : fwRead (s.taken n rest) h (addr52 (s.arg n 0) (s.arg n 1)) 64 = some b := (fwRead_taken s n rest h _ _).trans hb
    exact command_ok (body := tensorCreateBody h pick.toNat place) hh rfl
      (tensorCreateBody_whole (s := s.taken n rest) hz ha hb' hd hlive hk hloc hfree) rfl
  case split =>
    have hb' : fwRead (s.taken n rest) h (addr52 (s.arg n 0) (s.arg n 1)) 64 = some b := (fwRead_taken s n rest h _ _).trans hb
    have ho' : fwRead (s.taken n rest) h (d.allocBase + d.ownerOff) d.nst = some o := (fwRead_taken s n rest h _ _).trans ho
    have hbody := tensorCreateBody_split (s := s.taken n rest) hz ha hb' hd hlive hk hloc ho' hown htag hplace
    exact ⟨_, command_ok_kept (mine := anyVariant) (body := tensorCreateBody h pick.toNat place) hh rfl hbody rfl rfl, rfl, rfl, State.plateFill_bytes ((s.taken n rest).hold a o.length) a o⟩
  case destroy =>
    subst hhandle
    obtain ⟨models, lanes, hmodels, hbody⟩ := tensorDestroyBody_unused (s := s.taken n rest) hz hbun ht h1 h2 h3 h4
    exact ⟨_, command_ok_kept (mine := anyVariant) (body := tensorDestroyBody) hh rfl hbody rfl rfl,
      Tbl.find_drop_same _ _, fun k hk => Tbl.find_drop_other _ hk, hmodels, rfl, rfl, rfl, rfl, rfl⟩

end Sys2Proof.Machine
end

section
/-! SUPPORT. Programs, codebooks and models that firmware loads (R78, R79, R151, R197, R406). -/
namespace Sys2Proof.Machine

/-- A count of 0 removes a stored program. -/
theorem programLoadBody_removes {h : HostView} {place : Nat} {s : State} {p : Nat → Nat} (hz1 : bits (p 0) 31 30 = 0) (hz2 : bits (p 0) 15 14 = 0)
    (hz3 : bits (p 0) 7 4 = 0) (hz4 : bits (p 2) 31 20 = 0) (hlane : bits (p 0) 3 0 < s.nLanes) (hdown : s.laneDown (bits (p 0) 3 0) = false)
    (hcompat : s.fw.compat.getLsbD (bits (p 0) 3 0) = false) (hcount : bits (p 0) 29 16 = 0)
    (hsome : (Tbl.find s.fw.programs (progKey (bits (p 0) 3 0) (bits (p 0) 13 8))).isSome = true)
    (hbusy : s.progBusy (bits (p 0) 3 0) (bits (p 0) 13 8) = false) :
    programLoadBody h place s p = Ans.ok { s with fw := { s.fw with
      programs := Tbl.drop (progKey (bits (p 0) 3 0) (bits (p 0) 13 8)) s.fw.programs } } [] := by
  have hnone : (Tbl.find s.fw.programs (progKey (bits (p 0) 3 0) (bits (p 0) 13 8))).isNone = false := by
    rw [Option.isNone_eq_false_iff]; exact hsome
  simp only [programLoadBody, hz1, hz2, hz3, hz4, hdown, hcompat, hcount, hbusy, hnone, show ¬bits (p 0) 3 0 ≥ s.nLanes by omega, ne_eq,
    not_true_eq_false, or_self, if_false, if_true, and_false, Bool.false_eq_true]

/-- An image that passes every check is stored. -/
theorem programLoadBody_stores {h : HostView} {place : Nat} {s : State} {p : Nat → Nat} {b : List Byte} {area : Nat} (hz1 : bits (p 0) 31 30 = 0)
    (hz2 : bits (p 0) 15 14 = 0) (hz3 : bits (p 0) 7 4 = 0) (hz4 : bits (p 2) 31 20 = 0) (hlane : bits (p 0) 3 0 < s.nLanes)
    (hdown : s.laneDown (bits (p 0) 3 0) = false) (hcompat : s.fw.compat.getLsbD (bits (p 0) 3 0) = false) (hcount : bits (p 0) 29 16 ≠ 0)
    (hbusy : (Tbl.find s.fw.programs (progKey (bits (p 0) 3 0) (bits (p 0) 13 8))).isSome = true →
      s.progBusy (bits (p 0) 3 0) (bits (p 0) 13 8) = false) (ha : p 1 % 64 = 0)
    (hb : fwRead s h (addr52 (p 1) (p 2)) (8 * bits (p 0) 29 16) = some b) (hcrc : crc32c b = p 3)
    (harea : s.storePlace (bits (p 0) 3 0) (bits (p 0) 13 8) place (bits (p 0) 29 16) = some area)
    (hst : s.programStatus (insnsOf (bits (p 0) 29 16) b) true = 0) :
    programLoadBody h place s p = Ans.ok { s with fw := { s.fw with
      programs := Tbl.put (progKey (bits (p 0) 3 0) (bits (p 0) 13 8)) ⟨insnsOf (bits (p 0) 29 16) b, area, addr52 (p 1) (p 2),
        s.remoteCode ((decodeAll (insnsOf (bits (p 0) 29 16) b)).getD []), []⟩ s.fw.programs } } [] := by
  have hbusy' : ¬((Tbl.find s.fw.programs (progKey (bits (p 0) 3 0) (bits (p 0) 13 8))).isSome = true ∧
      s.progBusy (bits (p 0) 3 0) (bits (p 0) 13 8) = true) := by
    rintro ⟨h1, h2⟩; rw [hbusy h1] at h2; cases h2
  simp only [programLoadBody, hz1, hz2, hz3, hz4, hdown, hcompat, hcount, hbusy', ha, hb, hcrc, harea, hst, Option.isSome_some, Option.getD_some,
    show ¬bits (p 0) 3 0 ≥ s.nLanes by omega, ne_eq, not_true_eq_false, or_self, if_false, Bool.false_eq_true]

/-- Settles O27: the two ends of `programLoadBody`. -/
theorem programLoaded : Obligations.ProgramLoaded := by
  intro h place s n rest m count pid lane hh hcount hpid hl hz1 hz2 hz3 hz4 hlane hdown hcompat hbusy
  subst hcount hpid hl
  refine ⟨fun hc hsome => ?_, fun b area hc ha hb hcrc harea hst => ?_⟩
  · exact command_ok (body := programLoadBody h place) hh rfl
      (programLoadBody_removes (s := s.taken n rest) hz1 hz2 hz3 hz4 hlane hdown hcompat hc hsome (hbusy hsome)) rfl
  · have hrun := command_ok (mine := anyVariant) (body := programLoadBody h place) hh rfl (programLoadBody_stores (s := s.taken n rest) hz1 hz2 hz3
      hz4 hlane hdown hcompat hc hbusy ha ((fwRead_taken s n rest h _ _).trans hb) hcrc harea hst) rfl
    exact ⟨_, rfl, rfl, rfl, rfl, hrun⟩

/-! ### Codebooks and models -/

/-- A codebook that no coded tensor uses, with its last 8 bytes 0, stands under its number. -/
theorem codebookLoadBody_stores {h : HostView} {s : State} {p : Nat → Nat} {b : List Byte} (hz1 : bits (p 0) 31 4 = 0) (hz2 : bits (p 2) 31 20 = 0)
    (ha : p 1 % 64 = 0) (hb : fwRead s h (addr52 (p 1) (p 2)) 8192 = some b) (hcrc : crc32c b = p 3) (hpad : ∀ x ∈ b.drop 8184, x = 0)
    (hfree : ∀ e ∈ s.fw.tensors, e.2.d.coded = true → e.2.d.cbook ≠ bits (p 0) 3 0) :
    codebookLoadBody h s p = Ans.ok { s with fw := { s.fw with books := Tbl.put (bits (p 0) 3 0) (addr52 (p 1) (p 2), b) s.fw.books } } [] := by
  have h1 : ((b.drop 8184).any fun x => decide (x ≠ 0)) = false := by
    rw [List.any_eq_false]; intro x hx; simp [hpad x hx]
  have h2 : (s.fw.tensors.any fun e => e.2.d.coded && decide (e.2.d.cbook = bits (p 0) 3 0)) = false := by
    rw [List.any_eq_false]; intro e he; simpa using hfree e he
  simp only [codebookLoadBody, hz1, hz2, ha, hb, hcrc, h1, h2, ne_eq, not_true_eq_false, or_self, if_false, Bool.false_eq_true]

/-- A model's image is written at its first block, and the lanes forget what they held of that number. -/
theorem modelLoadBody_stores {h : HostView} {s : State} {p : Nat → Nat} {b : List Byte} {f : Fmt} {t : Tensor} (hz1 : bits (p 0) 31 24 = 0)
    (hz2 : bits (p 3) 31 20 = 0) (ha : p 2 % 64 = 0) (hf : Fmt.ofCode (bits (p 0) 15 10) = some f) (hmap : (mapShape f).isSome = true)
    (ht : s.tensor (bits (p 1) 15 0) = some t) (hloc : t.d.loc = 1)
    (hfit : (bits (p 1) 31 16 + (bits (p 0) 23 16 + 1)) * blockBytes f ≤ t.d.span) (hfix : s.liveBind (WBind.fixes (bits (p 0) 9 0)) = false)
    (hlist : s.liveBind (WBind.lists (bits (p 0) 9 0)) = false)
    (hb : fwRead s h (addr52 (p 2) (p 3)) ((bits (p 0) 23 16 + 1) * blockBytes f) = some b) (hcrc : crc32c b = p 4) :
    modelLoadBody h s p = Ans.ok { s with
      plate := (s.plateFill (t.d.base + bits (p 1) 31 16 * blockBytes f) b).plate
      lanes := ((s.plateFill (t.d.base + bits (p 1) 31 16 * blockBytes f) b).forgetModel (bits (p 0) 9 0)).lanes
      fw := { s.fw with models := Tbl.put (bits (p 0) 9 0) ⟨bits (p 0) 15 10, bits (p 0) 23 16 + 1, bits (p 1) 15 0, bits (p 1) 31 16⟩ s.fw.models } }
      [] := by
  obtain ⟨sh, hsh⟩ := Option.isSome_iff_exists.mp hmap
  have hsize : ((Fmt.ofCode (bits (p 0) 15 10)).bind fun f => (mapShape f).map fun _ => blockBytes f) = some (blockBytes f) := by
    rw [hf, Option.bind_some, hsh]; rfl
  simp only [modelLoadBody, hz1, hz2, hsize, ha, ht, hloc, hfix, hlist, hb, hcrc, Nat.not_lt.mpr hfit, gt_iff_lt, ne_eq, not_true_eq_false, or_self,
    false_and, if_false, Bool.false_eq_true]
  rw [State.forgetModel_frame]
  rfl

/-- Settles O28: the last step of each of the two bodies. -/
theorem imagesLoaded : Obligations.ImagesLoaded := by
  intro h s n rest m b
  refine ⟨fun id a hh hid ha hz1 hz2 hal hb hcrc hpad hfree => ?book,
    fun nb wfmt mid first handle f size t hh hnb hw hmid hfirst hhandle hz1 hz2 hal hf hmap hsize ht hloc hfit hfix hlist hb hcrc => ?model⟩
  case book =>
    subst hid ha
    exact command_ok (body := codebookLoadBody h) hh rfl (codebookLoadBody_stores (s := s.taken n rest) hz1 hz2 hal
      ((fwRead_taken s n rest h _ _).trans hb) hcrc hpad hfree) rfl
  case model =>
    subst hnb hw hmid hfirst hhandle hsize
    exact ⟨_, command_ok_kept (mine := anyVariant) (body := modelLoadBody h) hh rfl (modelLoadBody_stores (s := s.taken n rest) hz1 hz2 hal hf hmap ht
      hloc hfit hfix hlist ((fwRead_taken s n rest h _ _).trans hb) hcrc) rfl rfl, rfl, rfl, State.plateFill_bytes (s.taken n rest) _ b⟩

end Sys2Proof.Machine
end

section
/-! SUPPORT. The members of a stream (R171, R259), and what is independent of the mailboxes. -/
namespace Sys2Proof.Machine

/-! ### The members of a stream -/

theorem State.group_of_stream {s : State} {c : Nat} {x : Stream} (h : s.stream c = some x) :
    s.group c = c :: (List.range (x.g - 1)).map (c + 1 + ·) := by
  rw [State.group, h]

/-- No member of a stream is named twice. -/
theorem State.group_nodup (s : State) (c : Nat) : (s.group c).Nodup := by
  unfold State.group
  split
  · refine List.nodup_cons.mpr ⟨by simp; omega, List.Nodup.map (fun a b hab => by simpa using hab) List.nodup_range⟩
  · exact List.nodup_nil

theorem State.mem_group_self {s : State} {c : Nat} {x : Stream} (h : s.stream c = some x) : c ∈ s.group c := by
  rw [State.group_of_stream h]; exact List.mem_cons_self

/-- What a fold over stream contexts gives each of them, when each step changes its own context alone. -/
theorem State.stream_foldl_modStream {l : List Nat} (hl : l.Nodup) (f : Stream → Stream) (d : Nat) : ∀ s : State,
    (l.foldl (fun s d => s.modStream d f) s).stream d = if d ∈ l then (s.stream d).map f else s.stream d := by
  induction l with
  | nil => intro s; rfl
  | cons a l ih =>
    intro s
    obtain ⟨ha, hl⟩ := List.nodup_cons.mp hl
    rw [List.foldl_cons, ih hl]
    by_cases hd : d = a
    · subst hd
      rw [if_neg ha, if_pos List.mem_cons_self, State.stream_modStream_same]
    · rw [State.stream_modStream_other _ _ hd]
      simp [hd]

/-- A member of the stream takes the change, any other stream stands. -/
theorem State.stream_modGroup (s : State) (c : Nat) (f : Stream → Stream) (d : Nat) :
    (s.modGroup c f).stream d = if d ∈ s.group c then (s.stream d).map f else s.stream d :=
  State.stream_foldl_modStream (s.group_nodup c) f d s

theorem State.stream_modGroup_self {s : State} {c : Nat} {x : Stream} (h : s.stream c = some x) (f : Stream → Stream) :
    (s.modGroup c f).stream c = some (f x) := by
  rw [State.stream_modGroup, if_pos (State.mem_group_self h), h, Option.map_some]

/-- A change of the members changes the table of streams alone. -/
theorem State.modGroup_frame (s : State) (c : Nat) (f : Stream → Stream) :
    s.modGroup c f = { s with fw := { s.fw with streams := (s.modGroup c f).fw.streams } } := by
  unfold State.modGroup
  refine foldl_keeps (fun u : State => u = { s with fw := { s.fw with streams := u.fw.streams } }) _ (fun u d hu => ?_) _ _ rfl
  rw [State.modStream_frame, hu]

/-! ### Reads of the Plate pool do not depend on the mailboxes -/

/-- The state with other mailboxes. -/
def State.withCtl (s : State) (c : Ctl) : State := { s with ctl := c }

theorem State.withCtl_foldl {α : Type} (c : Ctl) (f : State → α → State) (hf : ∀ s a, f (s.withCtl c) a = (f s a).withCtl c) (l : List α) (s : State) :
    l.foldl f (s.withCtl c) = (l.foldl f s).withCtl c :=
  List.foldl_hom (fun s : State => s.withCtl c) (fun s a => hf s a)

theorem State.withCtl_modStream (s : State) (c : Ctl) (d : Nat) (f : Stream → Stream) :
    (s.withCtl c).modStream d f = (s.modStream d f).withCtl c := by
  unfold State.modStream
  rw [show (s.withCtl c).stream d = s.stream d from rfl]
  cases s.stream d <;> rfl

theorem State.withCtl_spoiled (s : State) (c : Ctl) (o : Owner) (gone : Bool) : (s.withCtl c).spoiled o gone = (s.spoiled o gone).withCtl c := by
  cases o
  case store => exact State.withCtl_modStream s c _ _
  all_goals rfl

theorem State.withCtl_cutWrites (s : State) (c : Ctl) (q : Nat) : (s.withCtl c).cutWrites q = (s.cutWrites q).withCtl c := by
  unfold State.cutWrites
  dsimp only
  rw [← State.withCtl_foldl c _ (fun s o => State.withCtl_spoiled s c o true), ← State.withCtl_foldl c _ (fun s o => State.withCtl_spoiled s c o false)]
  rfl

theorem State.withCtl_enterSafe (s : State) (c : Ctl) : (s.withCtl c).enterSafe = s.enterSafe.withCtl c := by
  unfold State.enterSafe
  rw [show (s.withCtl c).flt.safe = s.flt.safe from rfl]
  split
  · rfl
  · have hcut := State.withCtl_foldl c State.cutWrites (fun s q => State.withCtl_cutWrites s c q) (List.range s.build.cfg.ports)
      { s with flt := { s.flt with safe := true, hold := s.flt.hold || s.flt.auto }, pins := { s.pins with evOut := 0, trigOut := 0 }
               link := s.link.cutFrame }
    exact (congrArg (fun u : State => u.busyLanes.foldl (fun s p => s.stopLane p .safe) u) hcut).trans
      (State.withCtl_foldl c (fun (s : State) p => s.stopLane p .safe) (fun s p => rfl) _ _)

theorem State.withCtl_raise (s : State) (c : Ctl) (b : Burgee) : (s.withCtl c).raise b = (s.raise b).withCtl c := by
  unfold State.raise
  dsimp only
  split
  · exact State.withCtl_enterSafe { s with flt := (s.flt.enter b).note b } c
  · rfl

theorem State.withCtl_plateCheck (s : State) (c : Ctl) (a kCe kUe : Nat) :
    (s.withCtl c).plateCheck a kCe kUe = (s.plateCheck a kCe kUe).withCtl c := by
  unfold State.plateCheck
  refine State.withCtl_foldl c _ (fun s i => ?_) _ s
  dsimp only
  rw [show (s.withCtl c).plate = s.plate from rfl]
  split
  · rfl
  · exact State.withCtl_raise { s with plate := { s.plate with upset := Tbl.drop (wordKey a + i) s.plate.upset } } c _
  · exact State.withCtl_raise { s with plate := s.plate.poisonCell (a / 64 * 64) } c _

theorem State.withCtl_plateRead (s : State) (c : Ctl) (a : Nat) :
    (s.withCtl c).plateRead a = ((s.plateRead a).1.withCtl c, (s.plateRead a).2) := by
  unfold State.plateRead
  rw [State.withCtl_plateCheck]
  generalize s.plateCheck a 17 18 = t
  dsimp only
  rw [show (t.withCtl c).plate = t.plate from rfl]
  split <;> rfl

theorem State.withCtl_readTensorCells (h : HostView) (loc : Nat) (c : Ctl) : ∀ (l : List Nat) (s : State),
    State.readTensorCells h loc l (s.withCtl c) = ((State.readTensorCells h loc l s).1.withCtl c, (State.readTensorCells h loc l s).2)
  | [], s => rfl
  | a :: l, s => by
    unfold State.readTensorCells
    rw [State.withCtl_plateRead, fwRead_congr (s := s) (t := s.withCtl c) rfl rfl]
    by_cases hloc : loc = 1
    · simp only [hloc, if_true]
      obtain ⟨s1, r, b, k⟩ := s.plateRead a
      cases r
      case ok =>
        dsimp only
        rw [State.withCtl_readTensorCells h 1 c l s1]
        obtain ⟨s2, _ | b2⟩ := State.readTensorCells h 1 l s1 <;> rfl
      all_goals rfl
    · simp only [hloc, if_false]
      cases fwRead s h a 64 with
      | none => rfl
      | some b =>
        dsimp only
        rw [State.withCtl_readTensorCells h loc c l s]
        obtain ⟨s2, _ | b2⟩ := State.readTensorCells h loc l s <;> rfl

/-- Reading a model table leaves the mailboxes alone and does not depend on them. -/
theorem State.withCtl_readTable (s : State) (c : Ctl) (hv : HostView) (k : Nat) :
    (s.withCtl c).readTable hv k = ((s.readTable hv k).1.withCtl c, (s.readTable hv k).2) := by
  unfold State.readTable
  rw [show (s.withCtl c).tableStatus k = s.tableStatus k from rfl, show (s.withCtl c).tensor k = s.tensor k from rfl]
  dsimp only
  split
  · rfl
  · cases s.tensor k with
    | none => rfl
    | some t =>
      dsimp only
      rw [State.withCtl_readTensorCells]
      obtain ⟨s2, _ | b⟩ := State.readTensorCells hv t.d.loc (tableCells t.d) s <;> rfl

/-! ### `MODEL_SELECT` (R152) -/

/-- No status of a list is a failure when each is 0. -/
theorem firstNonZero_zero {l : List Nat} (h : ∀ n ∈ l, n = 0) : firstNonZero l = 0 := by
  have hnone : l.find? (fun n => decide (n ≠ 0)) = none := List.find?_eq_none.mpr fun n hn => by simp [h n hn]
  rw [firstNonZero, hnone]
  rfl

/-- A new binding changes the table of streams and the held space alone; the named stream takes it. -/
theorem State.setBind_effect {s : State} {c : Nat} {x : Stream} (hx : s.stream c = some x) (k : Nat) (b : WBind) (relay : Bool)
    (held : Option (Nat × Nat)) : ∃ (l : List (Nat × Nat)) (streams : Tbl Stream) (t : Tbl (Nat × Nat)),
      s.setBind c k b relay held = { s with fw := { s.fw with held := l, streams := streams } } ∧
      (s.setBind c k b relay held).stream c = some { x with wbind := x.wbind.set k b, relay := setBit x.relay k relay, tblHeld := t } := by
  obtain ⟨l, hl⟩ : ∃ l, (match (s.stream c).bind fun x => Tbl.find x.tblHeld k with
      | some r => s.unhold r.1 r.2
      | none => s) = { s with fw := { s.fw with held := l } } := by
    cases (s.stream c).bind fun x => Tbl.find x.tblHeld k with
    | none => exact ⟨_, rfl⟩
    | some r => exact ⟨_, rfl⟩
  have hset : s.setBind c k b relay held = (State.modGroup { s with fw := { s.fw with held := l } } c fun x =>
      { x with wbind := setNth x.wbind k b, relay := setBit x.relay k relay }).modStream c fun x =>
        { x with tblHeld := match held with | some r => Tbl.put k r x.tblHeld | none => Tbl.drop k x.tblHeld } := by
    rw [← hl]; rfl
  refine ⟨l, (s.setBind c k b relay held).fw.streams, held.elim (Tbl.drop k x.tblHeld) fun r => Tbl.put k r x.tblHeld, ?_, ?_⟩
  · rw [hset, State.modStream_frame, State.modGroup_frame]
  · rw [hset, State.stream_modStream_same, State.stream_modGroup_self (s := { s with fw := { s.fw with held := l } }) (x := x) hx]
    cases held <;> rfl

theorem modelSelectBody_unbound {h : HostView} {place : Nat} {s : State} {p : Nat → Nat} {x : Stream} (hz1 : bits (p 0) 31 21 = 0)
    (hz2 : bits (p 1) 31 16 = 0) (hx : s.stream (bits (p 0) 15 0) = some x) (hi : x.idx = 0) (hst : x.st = .bound ∨ x.st = .parked)
    (hk : bits (p 0) 19 18 = 0) :
    modelSelectBody h place s p = Ans.ok (s.setBind (bits (p 0) 15 0) (bits (p 0) 17 16) .unbound (bitOn (p 0) 20) none) [] := by
  have hst' : ¬(x.st ≠ .bound ∧ x.st ≠ .parked) := by tauto
  simp only [modelSelectBody, hz1, hz2, hk, hx, hi, hst', ne_eq, not_true_eq_false, or_self, if_false, OfNat.zero_ne_ofNat]

theorem modelSelectBody_fixed {h : HostView} {place : Nat} {s : State} {p : Nat → Nat} {x : Stream} (hz1 : bits (p 0) 31 21 = 0)
    (hz2 : bits (p 1) 31 16 = 0) (hx : s.stream (bits (p 0) 15 0) = some x) (hi : x.idx = 0) (hst : x.st = .bound ∨ x.st = .parked)
    (hk : bits (p 0) 19 18 = 1) (hid : bits (p 1) 15 0 ≤ 1023)
    (hfit : ∀ r ∈ slotEmits (s.emitsOfStream x) (bits (p 0) 17 16), s.bindStatus r (.fixed (bits (p 1) 15 0)) = 0) :
    modelSelectBody h place s p =
      Ans.ok (s.setBind (bits (p 0) 15 0) (bits (p 0) 17 16) (.fixed (bits (p 1) 15 0)) (bitOn (p 0) 20) none) [] := by
  have hst' : ¬(x.st ≠ .bound ∧ x.st ≠ .parked) := by tauto
  have hzero : firstNonZero ((slotEmits (s.emitsOfStream x) (bits (p 0) 17 16)).map fun r => s.bindStatus r (.fixed (bits (p 1) 15 0))) = 0 :=
    firstNonZero_zero fun n hn => by obtain ⟨r, hr, rfl⟩ := List.mem_map.mp hn; exact hfit r hr
  simp only [modelSelectBody, hz1, hz2, hk, hx, hi, hst', hzero, Nat.not_lt.mpr hid, gt_iff_lt, ne_eq, not_true_eq_false, or_self, if_false,
    OfNat.one_ne_ofNat]

theorem modelSelectBody_table {h : HostView} {place : Nat} {s : State} {p : Nat → Nat} {x : Stream} {es : List Nat} {a : Nat}
    (hz1 : bits (p 0) 31 21 = 0) (hz2 : bits (p 1) 31 16 = 0) (hx : s.stream (bits (p 0) 15 0) = some x) (hi : x.idx = 0)
    (hst : x.st = .bound ∨ x.st = .parked) (hk : bits (p 0) 19 18 = 2) (hread : s.readTable h (bits (p 1) 15 0) = (s, .inr es))
    (hes : s.entriesStatus es = 0)
    (hfit : ∀ r ∈ slotEmits (s.emitsOfStream x) (bits (p 0) 17 16), s.bindStatus r (.table (bits (p 1) 15 0) es) = 0)
    (hplace : s.holdPlace place (2 * es.length) = some a) :
    modelSelectBody h place s p = Ans.ok (((s.hold a (2 * es.length)).putSnapshot a es).setBind (bits (p 0) 15 0) (bits (p 0) 17 16)
      (.table (bits (p 1) 15 0) es) (bitOn (p 0) 20) (some (a, 2 * es.length))) [] := by
  have hst' : ¬(x.st ≠ .bound ∧ x.st ≠ .parked) := by tauto
  have hzero : firstNonZero (s.entriesStatus es :: (slotEmits (s.emitsOfStream x) (bits (p 0) 17 16)).map fun r =>
      s.bindStatus r (.table (bits (p 1) 15 0) es)) = 0 := firstNonZero_zero fun n hn => by
    obtain rfl | hn := List.mem_cons.mp hn
    · exact hes
    · obtain ⟨r, hr, rfl⟩ := List.mem_map.mp hn; exact hfit r hr
  simp only [modelSelectBody, hz1, hz2, hk, hx, hi, hst', hread, hzero, hplace, ne_eq, not_true_eq_false, or_self, if_false, Nat.reduceEqDiff]

/-- Settles O29: each kind of binding ends in `setBind`, on the state in which the snapshot, if any, is held. -/
theorem modelSelected : Obligations.ModelSelected := by
  intro h place s n rest m c k id x hh hc hk hid hz1 hz2 hx hi hst b held w hkind
  subst hc hk hid
  have hbody : modelSelectBody h place (s.taken n rest) (s.arg n) =
      Ans.ok (w.setBind (bits (s.arg n 0) 15 0) (bits (s.arg n 0) 17 16) b (bitOn (s.arg n 0) 20) held) [] ∧
      w = { s.taken n rest with fw := { s.fw with held := w.fw.held }, plate := w.plate } := by
    obtain ⟨hk0, rfl, rfl, rfl⟩ | ⟨hk1, rfl, rfl, rfl, hle, hfit⟩ | ⟨hk2, es, a, rfl, hread, hes, hfit, hplace, rfl, rfl⟩ := hkind
    · exact ⟨modelSelectBody_unbound (s := s.taken n rest) hz1 hz2 hx hi hst hk0, rfl⟩
    · exact ⟨modelSelectBody_fixed (s := s.taken n rest) hz1 hz2 hx hi hst hk1 hle hfit, rfl⟩
    · have hread' : (s.taken n rest).readTable h (bits (s.arg n 1) 15 0) = (s.taken n rest, .inr es) := by
        rw [show s.taken n rest = s.withCtl (s.ctl.accept n rest) from rfl, State.withCtl_readTable, hread]
      exact ⟨modelSelectBody_table (s := s.taken n rest) hz1 hz2 hx hi hst hk2 hread' hes hfit hplace, rfl⟩
  obtain ⟨hbody, hw⟩ := hbody
  have hxw : w.stream (bits (s.arg n 0) 15 0) = some x := by rw [hw]; exact hx
  obtain ⟨l, streams, t, hset, hstream⟩ := State.setBind_effect hxw (bits (s.arg n 0) 17 16) b (bitOn (s.arg n 0) 20) held
  have hctl : (w.setBind (bits (s.arg n 0) 15 0) (bits (s.arg n 0) 17 16) b (bitOn (s.arg n 0) 20) held).ctl = (s.taken n rest).ctl := by
    rw [hset, hw]
  have hkeep : s.keep (w.setBind (bits (s.arg n 0) 15 0) (bits (s.arg n 0) 17 16) b (bitOn (s.arg n 0) 20) held) =
      w.setBind (bits (s.arg n 0) 15 0) (bits (s.arg n 0) 17 16) b (bitOn (s.arg n 0) 20) held := by
    rw [hset, hw]; rfl
  refine ⟨_, _, command_ok_kept (mine := anyVariant) (body := modelSelectBody h place) hh rfl hbody hctl hkeep, rfl, hstream, rfl, rfl, rfl, rfl, rfl,
    ?_, ?_, ?_, ?_, ?_⟩ <;> rw [hset, hw] <;> rfl

end Sys2Proof.Machine
end

section
/-! SUPPORT. Raising a Burgee changes, of firmware's objects, the transfers of streams alone (R332); what rests on it. -/
namespace Sys2Proof.Machine

/-- Of firmware's objects, `t` differs from `s` at most in the transfers of streams. -/
def State.OnlyXfers (s t : State) : Prop :=
  t.fw = { s.fw with streams := t.fw.streams } ∧ ∀ c, ∃ g : Stream → List Transfer, t.stream c = (s.stream c).map fun x => { x with xfers := g x }

theorem State.OnlyXfers.of_fw {s t : State} (h : t.fw = s.fw) : s.OnlyXfers t := by
  refine ⟨by rw [h], fun c => ⟨Stream.xfers, ?_⟩⟩
  rw [State.stream, State.stream, h]
  exact (Option.map_id' (x := Tbl.find s.fw.streams c)).symm

theorem State.OnlyXfers.trans {s t u : State} (h : s.OnlyXfers t) (k : t.OnlyXfers u) : s.OnlyXfers u := by
  obtain ⟨h1, h2⟩ := h
  obtain ⟨k1, k2⟩ := k
  refine ⟨by rw [k1, h1], fun c => ?_⟩
  obtain ⟨g, hg⟩ := h2 c
  obtain ⟨g', hg'⟩ := k2 c
  exact ⟨fun x => g' { x with xfers := g x }, by rw [hg', hg, Option.map_map]; rfl⟩

theorem State.onlyXfers_modXfer (s : State) (c id : Nat) (f : Transfer → Transfer) : s.OnlyXfers (s.modXfer c id f) := by
  have hframe := State.modStream_frame s c fun x => x.modXfer id f
  refine ⟨congrArg State.fw hframe, fun d => ?_⟩
  by_cases hd : d = c
  · subst hd
    exact ⟨fun x => (x.modXfer id f).xfers, State.stream_modStream_same s d _⟩
  · obtain ⟨_, h⟩ := State.OnlyXfers.of_fw (s := s) (t := s) rfl
    obtain ⟨g, hg⟩ := h d
    exact ⟨g, (State.stream_modStream_other s _ hd).trans hg⟩

theorem State.onlyXfers_spoiled (s : State) (o : Owner) (gone : Bool) : s.OnlyXfers (s.spoiled o gone) := by
  cases o
  case store => exact s.onlyXfers_modXfer _ _ _
  all_goals exact .of_fw rfl

theorem State.onlyXfers_cutWrites (s : State) (q : Nat) : s.OnlyXfers (s.cutWrites q) := by
  have step : ∀ (b : Bool) (l : List Owner) (t : State), s.OnlyXfers t → s.OnlyXfers (l.foldl (fun s o => s.spoiled o b) t) := fun b l t h =>
    foldl_keeps (fun u => s.OnlyXfers u) _ (fun u o hu => hu.trans (u.onlyXfers_spoiled o b)) l t h
  exact step _ _ _ (step _ _ _ (.of_fw rfl))

theorem State.onlyXfers_enterSafe (s : State) : s.OnlyXfers s.enterSafe := by
  unfold State.enterSafe
  split
  · exact .of_fw rfl
  · refine foldl_keeps (fun u => s.OnlyXfers u) _ (fun u p hu => hu.trans (.of_fw (s := u) (t := u.stopLane p .safe) rfl)) _ _ ?_
    exact foldl_keeps (fun u => s.OnlyXfers u) _ (fun u q hu => hu.trans (u.onlyXfers_cutWrites q)) _ _ (.of_fw rfl)

theorem State.onlyXfers_raise (s : State) (b : Burgee) : s.OnlyXfers (s.raise b) := by
  unfold State.raise
  dsimp only
  split
  · exact State.OnlyXfers.trans (t := { s with flt := (s.flt.enter b).note b }) (.of_fw rfl) (State.onlyXfers_enterSafe _)
  · exact .of_fw rfl

theorem State.onlyXfers_halCheck (s : State) (i : Nat) : s.OnlyXfers (s.halCheck i) := by
  unfold State.halCheck
  split
  · exact .of_fw rfl
  · exact State.OnlyXfers.trans (t := { s with hal := { s.hal with upset := Tbl.drop i s.hal.upset } }) (.of_fw rfl) (State.onlyXfers_raise _ _)
  · exact State.OnlyXfers.trans (t := { s with hal := { s.hal with upset := Tbl.drop i s.hal.upset, unusable := Tbl.put i true s.hal.unusable } })
      (.of_fw rfl) (State.onlyXfers_raise _ _)

@[simp] theorem State.halCheck_ctl (s : State) (i : Nat) : (s.halCheck i).ctl = s.ctl := by
  unfold State.halCheck
  split <;> simp

/-- A check that finds at most one bit in error changes the Halyards' storage and the collector alone. -/
theorem State.halCheck_corrects {s : State} {i : Nat} (h : Tbl.get 0 s.hal.upset i ≤ 1) :
    s.halCheck i = { s with hal := { s.hal with upset := (s.halCheck i).hal.upset }, flt := (s.halCheck i).flt } ∧
      ∀ k, Tbl.get 0 (s.halCheck i).hal.upset k ≤ Tbl.get 0 s.hal.upset k := by
  unfold State.halCheck
  obtain h0 | h1 : Tbl.get 0 s.hal.upset i = 0 ∨ Tbl.get 0 s.hal.upset i = 1 := by omega
  · simp only [h0, le_refl, implies_true, and_self]
  · simp only [h1]
    rw [State.raise_low _ _ (show kindSev 47 < 2 by decide)]
    refine ⟨rfl, fun k => ?_⟩
    by_cases hk : k = i
    · subst hk; simp
    · exact (Tbl.get_drop_other 0 _ hk).le

/-! ### The shell of a command -/

/-- What the shell of a command puts back stands in `t` already. -/
def State.ShellKept (s t : State) : Prop := s.keep t = t

theorem State.ShellKept.trans {s t u : State} (h : s.ShellKept t) (k : t.ShellKept u) : s.ShellKept u := by
  have hk : t.keep u = s.keep u := by
    conv_lhs => rw [← h]
    rfl
  exact hk.symm.trans k

theorem State.ShellKept.of_kept {s t : State} (hf : s.FixedKept t) (ho : s.OutsideKept t) : s.ShellKept t := by
  obtain ⟨h1, h2, h3⟩ := hf
  obtain ⟨k1, k2, k3, k4, k5, k6⟩ := ho
  unfold State.ShellKept State.keep
  rw [← h1, ← h2, ← h3, ← k1, ← k2, ← k3, ← k4, ← k5, ← k6]

theorem State.shellKept_enterSafe (s : State) : s.ShellKept s.enterSafe :=
  .of_kept ⟨State.enterSafe_pending s, State.enterSafe_build s, State.enterSafe_otp s⟩ (State.outsideKept_enterSafe s)

theorem State.shellKept_raise (s : State) (b : Burgee) : s.ShellKept (s.raise b) :=
  .of_kept ⟨State.raise_pending s b, State.raise_build s b, State.raise_otp s b⟩ (State.outsideKept_raise s b)

theorem State.shellKept_halCheck (s : State) (i : Nat) : s.ShellKept (s.halCheck i) := by
  unfold State.halCheck
  split
  · rfl
  · exact State.ShellKept.trans (t := { s with hal := { s.hal with upset := Tbl.drop i s.hal.upset } }) rfl (State.shellKept_raise _ _)
  · exact State.ShellKept.trans (t := { s with hal := { s.hal with upset := Tbl.drop i s.hal.upset, unusable := Tbl.put i true s.hal.unusable } })
      rfl (State.shellKept_raise _ _)

end Sys2Proof.Machine
end

section
/-! SUPPORT. A readmit whose check of the credit Halyard puts the block into the safe state, with a table of streams that is not in the order of its
keys (R241, R242, R332). -/
namespace Sys2Proof.Machine

/-- A native stream on lane 0 in its first state. -/
def quietStream (c : Nat) : Stream := BindArgs.stream ⟨[0], 1, false, 2, 0, 10, 0, none⟩ 0 0 c 0 0

/-- A stream with one transfer that is ready to write to Bunting 9 and waits for its grants. -/
def waitingStream : Stream := { quietStream 3 with
  xfers := [{ Transfer.begin 0 { RunState.start with wr := { Side.start with handle := 9 } } (quietStream 3).snapshot 0 0 with party := some [0] }] }

/-- The readmit of member 0 of Bunting 9. -/
def readmitWords : List Word :=
  let w := toWords ([7 * 65536 + 0x60, 5 * 2 ^ 24 + 48, 2 ^ 30 + 9 * 65536] ++ List.replicate 11 0)
  w ++ [BitVec.ofNat 32 (crc32c (bytesOfWords w))]

/-- Member 0 of Bunting 9 was evicted, its credit Halyard has two bits in error, and a write of stream 3 waits for a tag; context 3 stands behind
context 5 in the table of streams. -/
def crowdedReadmit : State := { State.reset with
  life := { State.reset.life with started := true }
  boot := { Boot.reset with done := true }
  ctl := { Ctl.reset with fwReady := true, cmd := Tbl.setRun 0 [] 0 readmitWords, cmdOwn := 1, submitted := [0] }
  fw := { State.reset.fw with
    attached := true, buntings := [(9, ⟨500, [⟨1, 0, 2, 0, 0, true⟩], 3⟩)], streams := [(5, quietStream 5), (3, waitingStream)] }
  hal := { State.reset.hal with upset := [(0, 2)] }
  ports := [(0, { Port.reset with waitW := [⟨.store 0 3 0, 0, [], 0, false, 0⟩] })] }

theorem crowdedReadmit_hears : crowdedReadmit.hears 0 [] 0x60 0 := by
  unfold State.hears State.works State.live; decide +kernel

/-- The write that the safe state takes back puts context 3 into the table once more, so its transfer is counted twice. -/
theorem crowdedReadmit_reply : crowdedReadmit.readyXfers 9 = 1 ∧ (buntingReadmitBody (crowdedReadmit.taken 0 []) (crowdedReadmit.arg 0)).2 = (0, [9, 5]) ∧
    (buntingReadmitBody (crowdedReadmit.taken 0 []) (crowdedReadmit.arg 0)).1.ctl = (crowdedReadmit.taken 0 []).ctl := by decide +kernel

/-- An answer by its status and payload. -/
theorem Ans.eq_ok {a : Ans} {payload : List Nat} (h : a.2 = (0, payload)) : a = Ans.ok a.1 payload := by
  obtain ⟨t, r⟩ := a
  cases h
  rfl

/-- The second word of a payload stands in the fourth word of the reply mailbox. -/
theorem State.posted_word (t : State) (n m status a b : Nat) :
    Tbl.get 0 (t.posted n m status [a, b]).ctl.rpl (16 * m + 3) = BitVec.ofNat 32 b :=
  Tbl.get_setRun_inside _ t.ctl.rpl (16 * m) 3 (by simp [messageWords, toWords])

theorem exec_buntingReadmit (s : State) : exec .buntingReadmit s =
    command 0x60 (fun p0 => decide (bits p0 31 30 = 1)) (fun s p => (buntingReadmitBody s p).verdict) s := rfl

/-- Refutes O30: where the table of streams is not in the order of its keys, the check of the credit Halyard can change the count of transfers that
go ahead of a readmitted member, and the reply gives the count after it. -/
theorem not_buntingCommands : ¬ Obligations.BuntingCommands := by
  intro h
  obtain ⟨hcount, hbody, hctl⟩ := crowdedReadmit_reply
  obtain ⟨t, hrun⟩ : ∃ t : State, exec .buntingReadmit crowdedReadmit = .next (crowdedReadmit.keep (t.posted 0 0 0 [9, 5])) := by
    rw [exec_buntingReadmit]
    exact ⟨_, command_ok (body := buntingReadmitBody) crowdedReadmit_hears (by decide +kernel) (Ans.eq_ok hbody) hctl⟩
  obtain ⟨_, hreadmit, _⟩ := h 0 crowdedReadmit 0 [] 0 9 crowdedReadmit_hears (by decide +kernel)
  obtain ⟨u, hu, _⟩ := hreadmit ⟨500, [⟨1, 0, 2, 0, 0, true⟩], 3⟩ ⟨1, 0, 2, 0, 0, true⟩ (by decide +kernel) (by decide +kernel) rfl (by decide +kernel) rfl
    (by decide +kernel)
  rw [hcount, hrun, show 3 + 1 = 4 from rfl] at hu
  have hstate : crowdedReadmit.keep (t.posted 0 0 0 [9, 5]) = u.posted 0 0 0 [9, 4] := Host.Outcome.next.inj hu
  have hctl : (t.posted 0 0 0 [9, 5]).ctl = (u.posted 0 0 0 [9, 4]).ctl := by rw [← hstate]; rfl
  have hword : BitVec.ofNat 32 5 = BitVec.ofNat 32 4 :=
    (t.posted_word 0 0 0 9 5).symm.trans ((congrArg (fun c : Ctl => Tbl.get 0 c.rpl (16 * 0 + 3)) hctl).trans (u.posted_word 0 0 0 9 4))
  exact absurd hword (by decide)

end Sys2Proof.Machine
end

section
/-! SUPPORT. `STREAM_BIND` (R257, Table CTRL-17). -/
namespace Sys2Proof.Machine

/-- Setting streams one after another changes the table of streams alone. -/
theorem State.foldl_setStream_frame (k : Nat × Nat → Nat) (g : State → Nat × Nat → Stream) (l : List (Nat × Nat)) (s : State) :
    l.foldl (fun s e => s.setStream (k e) (g s e)) s =
      { s with fw := { s.fw with streams := (l.foldl (fun s e => s.setStream (k e) (g s e)) s).fw.streams } } := by
  refine foldl_keeps (fun u : State => u = { s with fw := { s.fw with streams := u.fw.streams } }) _ (fun u e hu => ?_) l s rfl
  rw [hu]; rfl

/-- The context of no entry keeps its stream. -/
theorem State.foldl_setStream_other (k : Nat × Nat → Nat) (g : State → Nat × Nat → Stream) {d : Nat} (l : List (Nat × Nat)) (h : ∀ e ∈ l, d ≠ k e) :
    ∀ s : State, (l.foldl (fun s e => s.setStream (k e) (g s e)) s).stream d = s.stream d := by
  induction l with
  | nil => intro s; rfl
  | cons e l ih =>
    intro s
    rw [List.foldl_cons, ih (fun e he => h e (List.mem_cons_of_mem _ he)), State.stream_setStream_other _ _ (h e List.mem_cons_self)]

/-- Each of several contexts holds what is set there, when that depends on nothing set before. -/
theorem State.foldl_setStream_mem (k : Nat × Nat → Nat) (g : State → Nat × Nat → Stream) (hg : ∀ (s : State) c x e, g (s.setStream c x) e = g s e)
    {e : Nat × Nat} (l : List (Nat × Nat)) (he : e ∈ l) (hl : (l.map k).Nodup) :
    ∀ s : State, (l.foldl (fun s e => s.setStream (k e) (g s e)) s).stream (k e) = some (g s e) := by
  induction l with
  | nil => simp at he
  | cons a l ih =>
    intro s
    obtain ⟨ha, hl⟩ := List.nodup_cons.mp hl
    rw [List.foldl_cons]
    obtain rfl | he := List.mem_cons.mp he
    · rw [State.foldl_setStream_other k g l (fun b hb h => ha (by rw [h]; exact List.mem_map_of_mem hb)), State.stream_setStream_same]
    · rw [ih he hl, hg]

/-- The pairs of a list's indices and entries have different indices. -/
theorem nodup_mapIdx_index (c : Nat) (l : List Nat) : ((l.mapIdx fun i n => (i, n)).map fun e => c + e.1).Nodup := by
  have hlist : ((l.mapIdx fun i n => (i, n)).map fun e => c + e.1) = (List.range l.length).map (c + ·) := by
    refine List.ext_getElem (by simp) fun i h1 h2 => by simp
  rw [hlist]
  exact List.Nodup.map (fun a b h => by simpa using h) List.nodup_range

/-- A bind sets the contexts from `c` on, one for each lane. -/
theorem State.bindAll_effect (s : State) (b : BindArgs) (c : Nat) : ∃ streams : Tbl Stream,
    s.bindAll b c = { s with plate := { s.plate with clock := s.plate.clock + 1 }, fw := { s.fw with streams := streams } } ∧
    (∀ i l, b.lanes[i]? = some l → Tbl.find streams (c + i) = some (b.stream s.now (s.plate.clock + 1) c i l)) ∧
    (∀ d, d < c ∨ c + b.lanes.length ≤ d → Tbl.find streams d = s.stream d) := by
  refine ⟨(s.bindAll b c).fw.streams, State.foldl_setStream_frame (fun e => c + e.1)
    (fun t e => b.stream t.now (s.plate.clock + 1) c e.1 e.2) (b.lanes.mapIdx fun i n => (i, n))
    { s with plate := { s.plate with clock := s.plate.clock + 1 } }, fun i l hi => ?_, fun d hd => ?_⟩
  · exact State.foldl_setStream_mem (e := (i, l)) (fun e => c + e.1) (fun t e => b.stream t.now (s.plate.clock + 1) c e.1 e.2) (fun _ _ _ _ => rfl)
      (b.lanes.mapIdx fun i n => (i, n)) (by
        obtain ⟨hlt, hget⟩ := List.getElem?_eq_some_iff.mp hi
        exact List.mem_mapIdx.mpr ⟨i, hlt, by rw [hget]⟩) (nodup_mapIdx_index c b.lanes) _
  · refine State.foldl_setStream_other (fun e => c + e.1) (fun t e => b.stream t.now (s.plate.clock + 1) c e.1 e.2)
      (b.lanes.mapIdx fun i n => (i, n)) (fun e he => ?_) { s with plate := { s.plate with clock := s.plate.clock + 1 } }
    obtain ⟨i, hi, rfl⟩ := List.mem_mapIdx.mp he
    dsimp only
    omega

/-- With room for the contexts and for the buffers, the stream is bound. -/
theorem State.bindPlace_binds {s : State} {b : BindArgs} {pick c : Nat} (hc : s.newContexts b.g pick = some c)
    (hroom : b.g * b.depth ≤ s.openPositions.length) : s.bindPlace b pick = Ans.ok (s.bindAll b c) [c] := by
  simp only [State.bindPlace, hc, Nat.not_lt.mpr hroom, if_false]

/-- A bind that passes the rows of Table CTRL-17 ends at the last ones. -/
theorem streamBindBody_passes {h : HostView} {pick : Nat} {s : State} {p : Nat → Nat} {tl : Bool} {array : Option (Nat × List (List Word))}
    {lanes : List Nat} (hl : lanes = onBits 8 (bits (p 0) 31 24)) (htl : tl = bitOn (p 0) 21) (hz1 : bits (p 0) 23 22 = 0) (hz2 : bits (p 2) 31 20 = 0)
    (hlo : 2 ≤ bits (p 0) 19 16) (hhi : bits (p 0) 19 16 ≤ 8) (hg : lanes.length = 2 ^ bits (p 0) 15 14)
    (h64 : tl = true → 2 ^ bits (p 0) 15 14 = 1 ∧ bits (p 0) 13 8 = 0)
    (hlanes : ∀ l ∈ lanes, l < s.nLanes ∧ s.laneDown l = false ∧ s.fw.compat.getLsbD l = tl) (ha : p 1 % 64 = 0)
    (harray : tl = true → p 3 % 64 = 0 ∧ ∃ ds, array = some (p 3 + bits (p 4) 19 0 * 2 ^ 32, ds) ∧
      s.tlRows h (p 3 + bits (p 4) 19 0 * 2 ^ 32) (bits (p 4) 31 20 + 1) = .inr ds)
    (hnative : tl = false → array = none ∧ s.nativeRows lanes (bits (p 0) 13 8) = 0) :
    streamBindBody h pick s p = s.bindPlace ⟨lanes, 2 ^ bits (p 0) 15 14, bitOn (p 0) 20, bits (p 0) 19 16, bits (p 0) 13 8,
      if bits (p 0) 7 0 = 0 then 10 else bits (p 0) 7 0, addr52 (p 1) (p 2), array⟩ pick := by
  have h1 : (lanes.any fun n => decide (n ≥ s.nLanes)) = false := by
    rw [List.any_eq_false]; intro l hl; have := (hlanes l hl).1; simpa using this
  have h2 : lanes.any s.laneDown = false := by
    rw [List.any_eq_false]; intro l hl; simp [(hlanes l hl).2.1]
  have h3 : (lanes.any fun n => s.fw.compat.getLsbD n != tl) = false := by
    rw [List.any_eq_false]; intro l hl; simp [(hlanes l hl).2.2]
  have h4 : ¬(tl = true ∧ (2 ^ bits (p 0) 15 14 > 1 ∨ bits (p 0) 13 8 ≠ 0)) := by
    rintro ⟨ht, h⟩; obtain ⟨hg1, hp⟩ := h64 ht; omega
  have h5 : ¬(tl = true ∧ p 3 % 64 ≠ 0) := by
    rintro ⟨ht, h⟩; exact h (harray ht).1
  simp only [streamBindBody, ← hl, ← htl, hz1, hz2, hg, h1, h2, h3, h4, ha, h5, Nat.not_lt.mpr hlo, Nat.not_lt.mpr hhi, gt_iff_lt, ne_eq,
    not_true_eq_false, or_self, if_false, Bool.false_eq_true]
  cases tl with
  | true =>
    obtain ⟨_, ds, rfl, hrows⟩ := harray rfl
    simp only [hrows, if_true]
  | false =>
    obtain ⟨rfl, hrows⟩ := hnative rfl
    simp only [hrows, not_true_eq_false, if_false, Bool.false_eq_true]

/-- Settles O31: the rows pass, and `bindAll` sets one context for each lane. -/
theorem streamBound : Obligations.StreamBound := by
  intro h pick s n rest m c depth g pid q lanes tl array hh hlanes htl hdepth hg hpid hq hz1 hz2 hlo hhi hlen h64 hl ha harray hnative hc hroom
  subst hdepth hpid hq
  have hbody : streamBindBody h pick.toNat (s.taken n rest) (s.arg n) = Ans.ok ((s.taken n rest).bindAll
      ⟨lanes, g, bitOn (s.arg n 0) 20, bits (s.arg n 0) 19 16, bits (s.arg n 0) 13 8, if bits (s.arg n 0) 7 0 = 0 then 10 else bits (s.arg n 0) 7 0,
        addr52 (s.arg n 1) (s.arg n 2), array⟩ c) [c] := by
    subst hg
    refine (streamBindBody_passes (s := s.taken n rest) hlanes htl hz1 hz2 hlo hhi hlen h64 hl ha (fun ht => ?_) hnative).trans ?_
    · obtain ⟨h3, ds, harr, hrows⟩ := harray ht
      refine ⟨h3, ds, harr, ?_⟩
      rw [← hrows, State.tlRows, State.tlRows, fwRead_taken]
      rfl
    · exact State.bindPlace_binds (s := s.taken n rest) hc hroom
  obtain ⟨streams, hbind, hmem, hother⟩ := State.bindAll_effect (s.taken n rest) ⟨lanes, g, bitOn (s.arg n 0) 20, bits (s.arg n 0) 19 16,
    bits (s.arg n 0) 13 8, if bits (s.arg n 0) 7 0 = 0 then 10 else bits (s.arg n 0) 7 0, addr52 (s.arg n 1) (s.arg n 2), array⟩ c
  rw [hbind] at hbody
  exact ⟨streams, command_ok (body := streamBindBody h pick.toNat) hh rfl hbody rfl, hmem, hother⟩

end Sys2Proof.Machine
end

section
/-! SUPPORT. `STREAM_REARM` (R102, R103, R152, Table FYUSH-10). -/
namespace Sys2Proof.Machine

/-! ### Reading model tables changes the transfers of streams alone -/

theorem State.onlyXfers_plateCheck (s : State) (a kCe kUe : Nat) : s.OnlyXfers (s.plateCheck a kCe kUe) := by
  refine foldl_keeps (fun u => s.OnlyXfers u) _ (fun u i hu => hu.trans ?_) _ _ (.of_fw rfl)
  dsimp only
  split
  · exact .of_fw rfl
  · exact State.OnlyXfers.trans (t := { u with plate := { u.plate with upset := Tbl.drop (wordKey a + i) u.plate.upset } }) (.of_fw rfl)
      (State.onlyXfers_raise _ _)
  · exact State.OnlyXfers.trans (t := { u with plate := u.plate.poisonCell (a / 64 * 64) }) (.of_fw rfl) (State.onlyXfers_raise _ _)

theorem State.onlyXfers_plateRead (s : State) (a : Nat) : s.OnlyXfers (s.plateRead a).1 := by
  have h := s.onlyXfers_plateCheck a 17 18
  unfold State.plateRead
  generalize s.plateCheck a 17 18 = t at h ⊢
  dsimp only
  split <;> exact h

theorem State.onlyXfers_readTensorCells (h : HostView) (loc : Nat) : ∀ (l : List Nat) (s : State), s.OnlyXfers (State.readTensorCells h loc l s).1
  | [], s => .of_fw rfl
  | a :: l, s => by
    have hrest := State.onlyXfers_readTensorCells h loc l
    have hread := s.onlyXfers_plateRead a
    unfold State.readTensorCells
    generalize State.readTensorCells h loc l = f at hrest ⊢
    generalize s.plateRead a = r at hread ⊢
    by_cases hloc : loc = 1
    · obtain ⟨s1, r, b, k⟩ := r
      rw [if_pos hloc]
      cases r
      case ok =>
        have h2 := hrest s1
        dsimp only at hread ⊢
        generalize f s1 = q at h2 ⊢
        obtain ⟨s2, _ | b2⟩ := q <;> exact hread.trans h2
      all_goals exact hread
    · rw [if_neg hloc]
      cases fwRead s h a 64 with
      | none => exact .of_fw rfl
      | some b =>
        have h2 := hrest s
        dsimp only
        generalize f s = q at h2 ⊢
        obtain ⟨s2, _ | b2⟩ := q <;> exact h2

theorem State.onlyXfers_readTable (s : State) (hv : HostView) (k : Nat) : s.OnlyXfers (s.readTable hv k).1 := by
  unfold State.readTable
  dsimp only
  split
  · exact .of_fw rfl
  · cases s.tensor k with
    | none => exact .of_fw rfl
    | some t =>
      have h1 := State.onlyXfers_readTensorCells hv t.d.loc (tableCells t.d) s
      dsimp only
      generalize State.readTensorCells hv t.d.loc (tableCells t.d) s = q at h1 ⊢
      obtain ⟨s2, _ | b⟩ := q <;> exact h1

theorem State.onlyXfers_rereadTables (hv : HostView) : ∀ (l : List WBind) (s : State), s.OnlyXfers (State.rereadTables hv l s).1
  | [], s => .of_fw rfl
  | b :: l, s => by
    have hrest := State.onlyXfers_rereadTables hv l
    unfold State.rereadTables
    generalize State.rereadTables hv l = f at hrest ⊢
    cases b
    case table k es =>
      have h1 := s.onlyXfers_readTable hv k
      dsimp only
      generalize s.readTable hv k = r at h1 ⊢
      obtain ⟨s1, st | es'⟩ := r
      · exact h1
      · dsimp only at h1 ⊢
        by_cases hes : s1.entriesStatus es' ≠ 0
        · rw [if_pos hes]; exact h1
        · have h2 := hrest s1
          rw [if_neg hes]
          dsimp only
          generalize f s1 = q at h2 ⊢
          obtain ⟨s2, st | bs⟩ := q <;> exact h1.trans h2
    all_goals
      have h2 := hrest s
      dsimp only
      generalize f s = q at h2 ⊢
      obtain ⟨s2, st | bs⟩ := q <;> exact h2

/-! ### Run lists and queues -/

/-- `t` differs from `s` at most in the run lists and the lanes. -/
def State.QueueShape (s t : State) : Prop := t = { s with fw := { s.fw with runlist := t.fw.runlist }, lanes := t.lanes }

theorem State.QueueShape.refl (s : State) : s.QueueShape s := rfl

theorem State.QueueShape.trans {s t u : State} (h : s.QueueShape t) (k : t.QueueShape u) : s.QueueShape u := by
  unfold State.QueueShape at *; rw [k, h]

theorem State.QueueShape.streams {s t : State} (h : s.QueueShape t) : t.fw.streams = s.fw.streams := by rw [h]

theorem State.queueShape_enlist (s : State) (c : Nat) : s.QueueShape (s.enlist c) := by
  unfold State.enlist
  split
  · split <;> rfl
  · rfl

theorem State.queueShape_delist (s : State) (c : Nat) : s.QueueShape (s.delist c) := by
  unfold State.delist
  split <;> rfl

theorem State.queueShape_refill (s : State) (n : Nat) : s.QueueShape (s.refill n) := by
  unfold State.refill
  split
  · rfl
  · split <;> rfl

theorem State.queueShape_makeRunnable (s : State) (c : Nat) : s.QueueShape (s.makeRunnable c) := by
  unfold State.makeRunnable
  split
  · exact (s.queueShape_enlist c).trans (State.queueShape_refill _ _)
  · rfl

/-- A fold of steps that change run lists and lanes alone. -/
theorem State.queueShape_foldl {α : Type} {f : State → α → State} (hf : ∀ (s : State) a, s.QueueShape (f s a)) (l : List α) (s : State) :
    s.QueueShape (l.foldl f s) :=
  foldl_keeps (fun u => s.QueueShape u) f (fun u a hu => hu.trans (hf u a)) l s (.refl s)

/-! ### The new run -/

/-- The snapshots of model tables lie in the Plate pool. -/
theorem State.putSnapshots_frame (s : State) (x : Stream) (bs : List WBind) : s.putSnapshots x bs = { s with plate := (s.putSnapshots x bs).plate } := by
  refine foldl_keeps (fun u : State => u = { s with plate := u.plate }) _ (fun u k hu => ?_) _ _ rfl
  split
  · rw [hu]; rfl
  · exact hu

/-- The named stream after a re-arm. -/
theorem State.stream_rearmAll {s : State} {c : Nat} {y : Stream} (hy : s.stream c = some y) (x : Stream) (subst : Tbl Nat) (remote : Bool)
    (wb : List WBind) : (s.rearmAll c x subst remote wb).stream c = some { y.rearm subst remote wb with mail := s.ctl.mail } := by
  have hsnap := s.putSnapshots_frame x wb
  have hy' : (s.putSnapshots x wb).stream c = some y := by rw [hsnap]; exact hy
  have hshape : ((s.putSnapshots x wb).modGroup c fun y => { y.rearm subst remote wb with mail := s.ctl.mail }).QueueShape
      (s.rearmAll c x subst remote wb) := by
    refine State.queueShape_foldl (fun s d => ?_) _ _
    split
    · split
      · exact s.queueShape_makeRunnable d
      · exact .refl s
    · exact .refl s
  rw [State.stream, hshape.streams]
  exact State.stream_modGroup_self hy' _

theorem streamRearmBody_rearms {h : HostView} {s w : State} {p : Nat → Nat} {x : Stream} {g : Prog} {subst : Tbl Nat} {wb : List WBind}
    (hz : bits (p 0) 31 24 = 0) (hslots : ∀ k < 8, bitOn (bits (p 0) 23 16) k = false → rearmHandle p k = 0) (hx : s.stream (bits (p 0) 15 0) = some x)
    (hi : x.idx = 0) (hg : s.progOf x = some g) (hend : g.insns.getLast? = some (.endRun true)) (hdeny : s.linkDenies x = false) (hst : x.st = .parked)
    (hsubst : subst = (onBits 8 (bits (p 0) 23 16)).foldl (fun t k => Tbl.put k (rearmHandle p k) t) x.subst)
    (hok : s.substStatus g.insns x.subst subst (bits (p 0) 23 16) = 0)
    (hup : s.remoteCode (substCode subst g.insns) = true → s.link.up = true)
    (hread : State.rereadTables h x.wbind s = (w, .inr wb)) (hbind : w.bindingsStatus wb (runEmits (substCode subst g.insns)) = 0) :
    streamRearmBody h s p = Ans.ok (w.rearmAll (bits (p 0) 15 0) x subst (s.remoteCode (substCode subst g.insns)) wb) [(x.epoch + 1).toNat] := by
  have hany : ((List.range 8).any fun k => !bitOn (bits (p 0) 23 16) k && decide (rearmHandle p k ≠ 0)) = false := by
    rw [List.any_eq_false]
    intro k hk
    cases hb : bitOn (bits (p 0) 23 16) k with
    | true => simp
    | false => simp [hslots k (List.mem_range.mp hk) hb]
  have hnamed : s.named (bits (p 0) 15 0) = .inr x := by simp [State.named, hx, hi]
  have hup' : ¬(s.remoteCode (substCode subst g.insns) = true ∧ (!s.link.up) = true) := by
    rintro ⟨h1, h2⟩; simp [hup h1] at h2
  simp only [streamRearmBody, hz, hany, hnamed, hg, hend, hdeny, rearmState, hst, ← hsubst, hok, hup', hread, hbind, ne_eq, not_true_eq_false, or_self,
    if_false, Bool.false_eq_true]

/-- Settles O33: reading the tables again changes transfers alone, and the new run begins on what is left. -/
theorem streamRearmed : Obligations.StreamRearmed := by
  intro h s w n rest m c mask x p subst wb hh hc hmask hz hslots hx hi hg hend hdeny hst hsubst hok hup hread hbind
  subst hc hmask
  have hbody := streamRearmBody_rearms (s := s.taken n rest) hz hslots hx hi hg hend hdeny hst hsubst hok hup hread hbind
  obtain ⟨_, hxfers⟩ := State.onlyXfers_rereadTables h x.wbind (s.taken n rest)
  obtain ⟨f, hf⟩ := hxfers (bits (s.arg n 0) 15 0)
  have hy : w.stream (bits (s.arg n 0) 15 0) = some { x with xfers := f x } := by
    rw [hread] at hf
    exact hf.trans (congrArg (Option.map _) hx)
  refine ⟨_, _, rfl, State.stream_rearmAll hy x subst _ wb, rfl, rfl, rfl, rfl, ?_⟩
  exact (command_works 0x33 anyVariant _ hh.1).trans (congrArg (fun t => Host.Outcome.next (s.keep t))
    (serve_done (body := fun s p => (streamRearmBody h s p).verdict) hh rfl (congrArg Ans.verdict hbody)))

end Sys2Proof.Machine
end

section
/-! SUPPORT. What firmware's work on streams can change: records, run lists, queues, the end of phase occurrences (R128, R260, R262, R302). -/
namespace Sys2Proof.Machine

/-- `t` differs from `s` at most in the asynchronous replies, firmware's objects, the lanes, the power manager and the writes to host memory. -/
def State.FwShape (s t : State) : Prop :=
  t = { s with ctl := t.ctl, fw := t.fw, lanes := t.lanes, pwr := t.pwr, fwWrites := t.fwWrites } ∧
    t.ctl = { s.ctl with faultWait := t.ctl.faultWait, fseq := t.ctl.fseq, unacked := t.ctl.unacked, async := t.ctl.async }

theorem State.FwShape.refl (s : State) : s.FwShape s := ⟨rfl, rfl⟩

theorem State.FwShape.trans {s t u : State} (h : s.FwShape t) (k : t.FwShape u) : s.FwShape u := by
  obtain ⟨h1, h2⟩ := h
  obtain ⟨k1, k2⟩ := k
  refine ⟨?_, ?_⟩
  · rw [k1, h1]
  · rw [k2, h2]

theorem State.FwShape.cmdWord {s t : State} (h : s.FwShape t) (n k : Nat) : t.ctl.cmdWord n k = s.ctl.cmdWord n k := by
  obtain ⟨_, h2⟩ := h
  rw [h2]
  rfl

theorem State.FwShape.rplFull {s t : State} (h : s.FwShape t) : t.ctl.rplFull = s.ctl.rplFull := by
  obtain ⟨_, h2⟩ := h
  rw [h2]

theorem State.FwShape.plate {s t : State} (h : s.FwShape t) : t.plate = s.plate := by rw [h.1]
theorem State.FwShape.hal {s t : State} (h : s.FwShape t) : t.hal = s.hal := by rw [h.1]

theorem State.FwShape.of_queueShape {s t : State} (h : s.QueueShape t) : s.FwShape t := by
  refine ⟨?_, ?_⟩ <;> rw [h]

theorem State.FwShape.foldl {α : Type} {f : State → α → State} (hf : ∀ (s : State) a, s.FwShape (f s a)) (l : List α) (s : State) :
    s.FwShape (l.foldl f s) :=
  foldl_keeps (fun u => s.FwShape u) f (fun u a hu => hu.trans (hf u a)) l s (.refl s)

theorem State.fwShape_modStream (s : State) (c : Nat) (f : Stream → Stream) : s.FwShape (s.modStream c f) := by
  unfold State.modStream
  cases s.stream c <;> exact ⟨rfl, rfl⟩

theorem State.fwShape_modGroup (s : State) (c : Nat) (f : Stream → Stream) : s.FwShape (s.modGroup c f) :=
  .foldl (fun s d => s.fwShape_modStream d f) _ s

theorem Ctl.promote_frame (n : Nat) : ∀ c : Ctl, c.promote n =
    { c with faultWait := (c.promote n).faultWait, fseq := (c.promote n).fseq, unacked := (c.promote n).unacked, async := (c.promote n).async } := by
  induction n with
  | zero => exact fun _ => rfl
  | succ n ih =>
    intro c
    unfold Ctl.promote
    split
    · rfl
    · split
      · exact ih _
      · rfl

theorem State.faultReply_frame (s : State) (f : FaultMsg) : s.faultReply f = { s with ctl := (s.faultReply f).ctl } := rfl

theorem State.fwShape_faultReply (s : State) (f : FaultMsg) : s.FwShape (s.faultReply f) :=
  ⟨rfl, Ctl.promote_frame _ _⟩

/-! ### Records (R262) -/

/-- What a record changes of the block: its streams, the write or the `FAULT` reply. -/
theorem State.putRecord_shape (s : State) (h : HostView) (c : Nat) (st : Option Nat) (pos : Stream → List Nat) :
    s.FwShape (s.putRecord h c st pos) ∧ (s.putRecord h c st pos).lanes = s.lanes ∧ (s.putRecord h c st pos).pwr = s.pwr ∧
      (s.putRecord h c st pos).fw = { s.fw with streams := (s.putRecord h c st pos).fw.streams } := by
  unfold State.putRecord
  cases s.stream c with
  | none => exact ⟨.refl s, rfl, rfl, rfl⟩
  | some x =>
    have hmod := s.modGroup_frame c fun y => { y with statsSent := y.stats }
    have hshape : s.FwShape ((s.modGroup c fun y => { y with statsSent := y.stats }).setStream c
        { x with savedPos := pos x, statsSent := x.stats, owed := false }) := by
      rw [hmod]; exact ⟨rfl, rfl⟩
    dsimp only
    split
    · refine ⟨hshape.trans (State.fwShape_faultReply _ _), ?_, ?_, ?_⟩ <;> rw [State.faultReply_frame, hmod] <;> rfl
    · refine ⟨hshape.trans ⟨rfl, rfl⟩, ?_, ?_, ?_⟩ <;> rw [State.fwWrite, hmod] <;> rfl

/-- The stream after its record. -/
theorem State.stream_putRecord {s : State} {c : Nat} {x : Stream} (hx : s.stream c = some x) (h : HostView) (st : Option Nat) (pos : Stream → List Nat) :
    (s.putRecord h c st pos).stream c = some { x with savedPos := pos x, statsSent := x.stats, owed := false } := by
  unfold State.putRecord
  rw [hx]
  dsimp only
  split <;> exact State.stream_setStream_same _ _ _

/-! ### Phase occurrences and queues (R302, R128) -/

/-- The end of phase occurrences changes the streams' occurrences and the power manager. -/
theorem State.closeOccs_shape (s : State) (c : Nat) (out : OpenOcc → Bool) : s.FwShape (s.closeOccs c out) ∧
    (s.closeOccs c out).lanes = s.lanes ∧ (s.closeOccs c out).fw = { s.fw with streams := (s.closeOccs c out).fw.streams } := by
  unfold State.closeOccs
  split
  · exact ⟨.refl s, rfl, rfl⟩
  · rw [State.modStream_frame]
    exact ⟨⟨rfl, rfl⟩, rfl, rfl⟩

theorem State.stream_closeOccs (s : State) (c : Nat) (out : OpenOcc → Bool) (d : Nat) :
    (s.closeOccs c out).stream d = (s.stream d).map fun x => if d = c then { x with occs := x.occs.filter fun o => !out o } else x := by
  unfold State.closeOccs
  cases hc : s.stream c with
  | none =>
    by_cases hd : d = c
    · subst hd; simp [hc]
    · simp [hd]
  | some x =>
    dsimp only
    by_cases hd : d = c
    · subst hd
      rw [State.stream_modStream_same]
      simp only [if_true]
      rfl
    · rw [State.stream_modStream_other _ _ hd]
      simp only [hd, if_false, Option.map_id']
      rfl

/-- Taking a stream off a lane: its occurrences end, its descriptors and its place in the run list go. -/
theorem State.takeOff_shape (s : State) (p c : Nat) : s.FwShape (s.takeOff p c) ∧
    (s.takeOff p c).fw = { s.fw with streams := (s.closeOccs c fun _ => true).fw.streams, runlist := (s.takeOff p c).fw.runlist } := by
  have h1 := s.closeOccs_shape c fun _ => true
  have h2 := State.queueShape_delist ((s.closeOccs c fun _ => true).modLane p fun l => { l with queue := l.queue.filter fun e => decide (e.sctx ≠ c) }) c
  obtain ⟨hs, _, hf⟩ := h1
  refine ⟨hs.trans ((State.FwShape.trans (t := (s.closeOccs c fun _ => true).modLane p fun l =>
    { l with queue := l.queue.filter fun e => decide (e.sctx ≠ c) }) ⟨rfl, rfl⟩ (.of_queueShape h2))), ?_⟩
  rw [State.takeOff, h2]
  generalize (State.delist _ c).fw.runlist = l
  exact congrArg (fun f : Fw => { f with runlist := l }) hf

theorem State.stream_takeOff (s : State) (p c d : Nat) :
    (s.takeOff p c).stream d = (s.stream d).map fun x => if d = c then { x with occs := x.occs.filter fun _ => false } else x := by
  have hfw : (s.takeOff p c).fw.streams = (s.closeOccs c fun _ => true).fw.streams := by rw [(s.takeOff_shape p c).2]
  rw [State.stream, hfw]
  exact s.stream_closeOccs c (fun _ => true) d

/-! ### Run lists -/

theorem State.runlistOf_delist (s : State) (c n : Nat) : ∃ f : Nat → Bool, (s.delist c).runlistOf n = (s.runlistOf n).filter f ∧
    (∀ x, s.stream c = some x → x.lane = n → f c = false) := by
  unfold State.delist
  cases hc : s.stream c with
  | none => exact ⟨fun _ => true, by simp, fun x h => nomatch h⟩
  | some x =>
    dsimp only
    by_cases hn : n = x.lane
    · subst hn
      exact ⟨fun d => decide (d ≠ c), Tbl.get_set_same _ _ _ _, fun y hy _ => by simp⟩
    · refine ⟨fun _ => true, ?_, fun y hy hl => ?_⟩
      · rw [List.filter_true]; exact Tbl.get_set_other _ _ _ hn
      · cases hy; exact absurd hl.symm hn

/-- A stream that is off a run list stays off it while others are taken off. -/
theorem State.notMem_delist {s : State} {n a : Nat} (h : a ∉ s.runlistOf n) (c : Nat) : a ∉ (s.delist c).runlistOf n := by
  obtain ⟨f, hf, _⟩ := s.runlistOf_delist c n
  rw [hf]
  exact fun hm => h (List.mem_of_mem_filter hm)

theorem State.notMem_delist_self {s : State} {c : Nat} {x : Stream} (hx : s.stream c = some x) : c ∉ (s.delist c).runlistOf x.lane := by
  obtain ⟨f, hf, hc⟩ := s.runlistOf_delist c x.lane
  rw [hf, List.mem_filter, hc x hx rfl]
  simp

/-! ### Stops -/

theorem Lane.mem_stop (l : Lane) (x : Stop) : x ∈ (l.stop x).stops := by
  unfold Lane.stop
  split
  · next h => simpa using h
  · simp

theorem Lane.stop_stops_mono {l : Lane} {y : Stop} (h : y ∈ l.stops) (x : Stop) : y ∈ (l.stop x).stops := by
  unfold Lane.stop
  split
  · exact h
  · exact List.mem_append_left _ h

theorem State.lane_stopLane_same (s : State) (p : Nat) (x : Stop) : (s.stopLane p x).lane p = (s.lane p).stop x :=
  State.lane_modLane_same s p _

theorem State.lane_stopLane_other (s : State) {p q : Nat} (x : Stop) (h : q ≠ p) : (s.stopLane p x).lane q = s.lane q :=
  State.lane_modLane_other s _ h

/-- Every lane of a list that is stopped has the stop. -/
theorem State.mem_stops_stopLanes {x : Stop} {p : Nat} (l : List Nat) : ∀ s : State, p ∈ l ∨ x ∈ (s.lane p).stops →
    x ∈ ((l.foldl (fun s q => s.stopLane q x) s).lane p).stops := by
  induction l with
  | nil => simp
  | cons q l ih =>
    intro s h
    refine ih _ ?_
    by_cases hpq : p = q
    · subst hpq
      right
      rw [State.lane_stopLane_same]
      exact Lane.mem_stop _ _
    · refine (h.imp (fun h => (List.mem_cons.mp h).resolve_left hpq) fun h => ?_)
      rwa [State.lane_stopLane_other _ _ hpq]

/-- Stopping lanes changes the lanes alone. -/
theorem State.stopLanes_frame (l : List Nat) (x : Stop) (s : State) :
    l.foldl (fun s q => s.stopLane q x) s = { s with lanes := (l.foldl (fun s q => s.stopLane q x) s).lanes } :=
  foldl_keeps (fun u : State => u = { s with lanes := u.lanes }) _ (fun u q hu => by rw [hu]; rfl) l s rfl

theorem State.stopLanes_fw (l : List Nat) (x : Stop) (s : State) : (l.foldl (fun s q => s.stopLane q x) s).fw = s.fw := by
  rw [State.stopLanes_frame]

/-! ### Commands that end with `OK`, and commands that wait -/

/-- A body that ends with `OK` after work of firmware's gives its state with the reply placed. -/
theorem command_fw {s t : State} {n : Nat} {rest : List Nat} {op m : Nat} {payload : List Nat} {mine : Nat → Bool} {body : Body}
    (h : s.hears n rest op m) (hm : mine (s.arg n 0) = true) (hb : body (s.taken n rest) (s.arg n) = (t, .done 0 payload))
    (hs : (s.taken n rest).FwShape t) : command op mine body s = .next (t.posted n m 0 payload) := by
  obtain ⟨h1, h2⟩ := hs
  rw [command_answered h hm hb (.inl rfl) (by rw [h2]; rfl) (by rw [h2]; rfl)]
  have hk : s.keep t = t := by rw [h1]; rfl
  exact congrArg (fun t => Host.Outcome.next (State.posted t n m 0 payload)) hk

/-- The same of a body that answers. -/
theorem command_fw_ok {body : State → (Nat → Nat) → Ans} {s t : State} {n : Nat} {rest : List Nat} {op m : Nat} {payload : List Nat}
    {mine : Nat → Bool} (h : s.hears n rest op m) (hm : mine (s.arg n 0) = true) (hb : body (s.taken n rest) (s.arg n) = Ans.ok t payload)
    (hs : (s.taken n rest).FwShape t) : command op mine (fun s p => (body s p).verdict) s = .next (t.posted n m 0 payload) :=
  command_fw h hm (congrArg Ans.verdict hb) hs

/-- A body that waits leaves the command in hand. -/
theorem serve_waits {s t : State} {n : Nat} {rest : List Nat} {op m : Nat} {w : Waiting} {mine : Nat → Bool} {body : Body}
    (h : s.hears n rest op m) (hm : mine (s.arg n 0) = true) (hb : body (s.taken n rest) (s.arg n) = (t, .wait w)) :
    serve op mine body s = { t with ctl := { t.ctl with
      hand := some (.waiting (BitVec.ofNat 16 (bits (s.ctl.cmdWord n 0) 31 16)) (BitVec.ofNat 16 op) w) } } := by
  obtain ⟨_, h1, h2, h3, h4, h5, h6⟩ := h
  have e : (fun k => s.ctl.cmdWord n (2 + k)) = s.arg n := rfl
  have hm' : mine (s.ctl.cmdWord n 2) = true := hm
  have ht : takesRow op mine op (s.ctl.cmdWord n 2) = true := by simp [takesRow, hm']
  have hb' : body { s with ctl := s.ctl.accept n rest } (s.arg n) = (t, .wait w) := hb
  simp only [serve, h1, h2, h3, h4, h5, ht, e, hb']
  simp

theorem command_waits {s t : State} {n : Nat} {rest : List Nat} {op m : Nat} {w : Waiting} {mine : Nat → Bool} {body : Body}
    (h : s.hears n rest op m) (hm : mine (s.arg n 0) = true) (hb : body (s.taken n rest) (s.arg n) = (t, .wait w)) :
    command op mine body s = .next (s.keep { t with ctl := { t.ctl with
      hand := some (.waiting (BitVec.ofNat 16 (bits (s.ctl.cmdWord n 0) 31 16)) (BitVec.ofNat 16 op) w) } }) := by
  rw [command_works op mine body h.1, serve_waits h hm hb]

end Sys2Proof.Machine
end

section
/-! SUPPORT. `STREAM_PAUSE` and `STREAM_ABANDON` (R128, R260, Table CTRL-20). -/
namespace Sys2Proof.Machine

theorem State.named_member {s : State} {c : Nat} {x : Stream} (hx : s.stream c = some x) (hi : x.idx = 0) : s.named c = .inr x := by
  simp [State.named, hx, hi]

/-- A change that keeps the number of members keeps the members. -/
theorem State.group_modGroup {s : State} {c : Nat} {x : Stream} (hx : s.stream c = some x) {f : Stream → Stream} (hf : (f x).g = x.g) :
    (s.modGroup c f).group c = s.group c := by
  rw [State.group_of_stream (State.stream_modGroup_self hx f), State.group_of_stream hx, hf]

theorem State.fwShape_leaveHeld (s : State) (c : Nat) (all : Bool) : s.FwShape (s.leaveHeld c all) := by
  refine State.FwShape.foldl (fun s d => ?_) _ s
  split
  · split
    · exact (s.takeOff_shape _ d).1
    · exact .refl s
  · exact .refl s

/-- The stream is `x` up to its occurrences, and stands in no run list of its lane. -/
def State.Delisted (s : State) (c : Nat) (x : Stream) : Prop := (∃ o, s.stream c = some { x with occs := o }) ∧ c ∉ s.runlistOf x.lane

theorem State.Delisted.takeOff {s : State} {c : Nat} {x : Stream} (h : s.Delisted c x) (p d : Nat) : (s.takeOff p d).Delisted c x := by
  obtain ⟨⟨o, ho⟩, hn⟩ := h
  refine ⟨?_, ?_⟩
  · rw [State.stream_takeOff, ho, Option.map_some]
    split
    · exact ⟨_, rfl⟩
    · exact ⟨o, rfl⟩
  · refine State.notMem_delist ?_ d
    have hrun : ∀ l, ((s.closeOccs d fun _ => true).modLane p l).runlistOf x.lane = s.runlistOf x.lane := fun l => by
      have hfw := congrArg (fun f : Fw => Tbl.get [] f.runlist x.lane) (s.closeOccs_shape d fun _ => true).2.2
      exact hfw
    rw [hrun]
    exact hn

theorem State.Delisted.leaveHeld {s : State} {c : Nat} {x : Stream} (h : s.Delisted c x) (all : Bool) : (s.leaveHeld c all).Delisted c x := by
  refine foldl_keeps (fun u : State => u.Delisted c x) _ (fun u d hu => ?_) _ s h
  split
  · split
    · exact hu.takeOff _ d
    · exact hu
  · exact hu

/-- Members taken off the run lists. -/
theorem State.delisted_group {s : State} {c : Nat} {x : Stream} (hx : s.stream c = some x) (l : List Nat) :
    ((c :: l).foldl State.delist s).Delisted c x := by
  have hstream : ∀ (l : List Nat) (t : State), (l.foldl State.delist t).stream c = t.stream c := fun l t =>
    congrArg (fun t => Tbl.find t c) (State.queueShape_foldl State.queueShape_delist l t).streams
  refine ⟨⟨x.occs, ?_⟩, ?_⟩
  · rw [hstream, hx]
  · exact foldl_keeps (fun u : State => c ∉ u.runlistOf x.lane) _ (fun u d hu => State.notMem_delist hu d) l _ (State.notMem_delist_self hx)

theorem State.fwShape_delists (l : List Nat) (s : State) : s.FwShape (l.foldl State.delist s) :=
  .of_queueShape (State.queueShape_foldl State.queueShape_delist l s)

/-- The state in which a paused stream's members have left the run lists and the lanes that hold. -/
def State.pausing (s : State) (c : Nat) : State :=
  ((s.group c).foldl State.delist (s.modGroup c fun y => { y with paused := true })).leaveHeld c false

theorem State.fwShape_pausing (s : State) (c : Nat) : s.FwShape (s.pausing c) :=
  ((s.fwShape_modGroup c _).trans (State.fwShape_delists _ _)).trans (State.fwShape_leaveHeld _ c false)

theorem State.delisted_pausing {s : State} {c : Nat} {x : Stream} (hx : s.stream c = some x) :
    (s.pausing c).Delisted c { x with paused := true } := by
  unfold State.pausing
  rw [State.group_of_stream hx]
  exact (State.delisted_group (State.stream_modGroup_self hx _) _).leaveHeld false

theorem streamPauseBody_paused {h : HostView} {s : State} {p : Nat → Nat} {x : Stream} (hz : bits (p 0) 31 16 = 0)
    (hx : s.stream (bits (p 0) 15 0) = some x) (hi : x.idx = 0) (hp : x.paused = true) : streamPauseBody h s p = (s, .done 0 []) := by
  simp only [streamPauseBody, hz, State.named_member hx hi, hp, ne_eq, not_true_eq_false, if_false, if_true]

theorem streamPauseBody_running {h : HostView} {s : State} {p : Nat → Nat} {x : Stream} (hz : bits (p 0) 31 16 = 0)
    (hx : s.stream (bits (p 0) 15 0) = some x) (hi : x.idx = 0) (hp : x.paused = false) {w : State} (hw : w = s.pausing (bits (p 0) 15 0)) :
    (w.toDrain (bits (p 0) 15 0) = [] → streamPauseBody h s p = (w.record h (bits (p 0) 15 0), .done 0 [])) ∧
      (w.toDrain (bits (p 0) 15 0) ≠ [] → streamPauseBody h s p =
        ((w.toDrain (bits (p 0) 15 0)).foldl (fun s p => s.stopLane p .fwPause) w, .wait (.pause (bits (p 0) 15 0)))) := by
  have hgroup := State.group_modGroup hx (f := fun y => { y with paused := true }) rfl
  have hw' : (((s.modGroup (bits (p 0) 15 0) fun y => { y with paused := true }).group (bits (p 0) 15 0)).foldl State.delist
      (s.modGroup (bits (p 0) 15 0) fun y => { y with paused := true })).leaveHeld (bits (p 0) 15 0) false = w := by
    rw [hw, hgroup]; rfl
  simp only [streamPauseBody, hz, State.named_member hx hi, hp, hw', ne_eq, not_true_eq_false, if_false, Bool.false_eq_true]
  cases w.toDrain (bits (p 0) 15 0) with
  | nil => exact ⟨fun _ => rfl, fun h => absurd rfl h⟩
  | cons q qs => exact ⟨(fun h => nomatch h), fun _ => rfl⟩

/-- Settles O34: the state `w` is what `streamPauseBody` reaches before it looks for lanes to drain. -/
theorem streamPaused : Obligations.StreamPaused := by
  intro h s w n rest m c x hh hc hz hx hi hw
  subst hc
  have hw' : w = (s.taken n rest).pausing (bits (s.arg n 0) 15 0) := hw
  have hshape : (s.taken n rest).FwShape w := hw' ▸ State.fwShape_pausing _ _
  obtain ⟨⟨o, ho⟩, hn⟩ : w.Delisted (bits (s.arg n 0) 15 0) { x with paused := true } := hw' ▸ State.delisted_pausing hx
  obtain ⟨hrec, _, _, hfw⟩ := w.putRecord_shape h (bits (s.arg n 0) 15 0) none Stream.positionWords
  have hkept := hshape.trans hrec
  have hdone : x.paused = false → w.toDrain (bits (s.arg n 0) 15 0) = [] →
      exec (.streamPause h) s = .next (s.keep ((w.record h (bits (s.arg n 0) 15 0)).posted n m 0 [])) := fun hp hd =>
    command_answered (body := streamPauseBody h) hh rfl ((streamPauseBody_running (s := s.taken n rest) hz hx hi hp hw').1 hd) (.inl rfl)
      (hkept.cmdWord n 0) hkept.rplFull
  have hstop := State.stopLanes_fw (w.toDrain (bits (s.arg n 0) 15 0)) .fwPause w
  have hwait : x.paused = false → w.toDrain (bits (s.arg n 0) 15 0) ≠ [] → exec (.streamPause h) s = _ := fun hp hd =>
    command_waits (body := streamPauseBody h) hh rfl ((streamPauseBody_running (s := s.taken n rest) hz hx hi hp hw').2 hd)
  refine ⟨fun hp => ?_, hdone, fun hp hd => ⟨_, hwait hp hd, rfl, ?_, fun p hp => ?_⟩, fun hp => ?_⟩
  · exact command_posted (body := streamPauseBody h) hh rfl (streamPauseBody_paused (s := s.taken n rest) hz hx hi hp) rfl
  · exact hstop
  · exact State.mem_stops_stopLanes _ w (.inl hp)
  · by_cases hd : w.toDrain (bits (s.arg n 0) 15 0) = []
    · refine ⟨_, _, hdone hp hd, State.stream_putRecord ho h none Stream.positionWords, rfl, ?_, fun _ => ⟨rfl, rfl⟩⟩
      have hlist : (w.record h (bits (s.arg n 0) 15 0)).runlistOf x.lane = w.runlistOf x.lane := by
        rw [State.runlistOf, State.record, hfw]; rfl
      exact fun hm => hn (Eq.mp (congrArg (_ ∈ ·) hlist) hm)
    · have hstream := congrArg (fun f : Fw => Tbl.find f.streams (bits (s.arg n 0) 15 0)) hstop
      have hlist := congrArg (fun f : Fw => Tbl.get [] f.runlist x.lane) hstop
      exact ⟨_, _, hwait hp hd, hstream.trans ho, rfl, fun hm => hn (Eq.mp (congrArg (_ ∈ ·) hlist) hm), fun h => absurd h hd⟩

end Sys2Proof.Machine
end

section
/-! SUPPORT. Leaving a hold, and the end of a stream (R120, R134, R260). -/
namespace Sys2Proof.Machine

/-! ### What leaving a stop changes -/

theorem State.queueShape_modLane (s : State) (p : Nat) (f : Lane → Lane) : s.QueueShape (s.modLane p f) := rfl

theorem State.queueShape_unstop (s : State) (p : Nat) (x : Stop) : s.QueueShape (s.unstop p x) := by
  have hxst : s.QueueShape (if (s.lane p).holding && !((s.modLane p fun l => l.unstop x).lane p).holding then
      (s.modLane p fun l => l.unstop x).modLane p fun l => { l with xst := (s.modLane p fun l => l.unstop x).leaveXst p }
    else s.modLane p fun l => l.unstop x) := by
    split <;> rfl
  unfold State.unstop
  dsimp only
  split
  · exact hxst.trans (State.queueShape_refill _ _)
  · exact hxst

theorem State.queueShape_unstops (p : Nat) (l : List Stop) (s : State) : s.QueueShape (l.foldl (fun s x => s.unstop p x) s) :=
  State.queueShape_foldl (fun s x => s.queueShape_unstop p x) l s

theorem State.queueShape_settle (s : State) (p : Nat) : s.QueueShape (s.settle p) := by
  unfold State.settle
  dsimp only
  split
  · exact .refl s
  · split
    · exact .refl s
    · exact (s.queueShape_modLane p _).trans (State.queueShape_unstops p _ _)

theorem State.queueShape_settleGroup (s : State) (ps : List Nat) : s.QueueShape (s.settleGroup ps) :=
  State.queueShape_foldl State.queueShape_settle ps s

theorem State.fwShape_recordOf (s : State) (h : HostView) (c : Nat) : s.FwShape (s.recordOf h c) ∧ (s.recordOf h c).lanes = s.lanes := by
  unfold State.recordOf
  split
  · exact ⟨(s.putRecord_shape h _ none _).1, (s.putRecord_shape h _ none _).2.1⟩
  · exact ⟨.refl s, rfl⟩

theorem State.fwShape_dropStream (s : State) (c : Nat) : s.FwShape (s.dropStream c) :=
  .trans (.of_queueShape (s.queueShape_delist c)) ⟨rfl, rfl⟩

/-! ### A context without a stream stays without one -/

theorem State.modStream_none {s : State} {c : Nat} (h : s.stream c = none) (d : Nat) (f : Stream → Stream) : (s.modStream d f).stream c = none := by
  by_cases hd : c = d
  · subst hd; rw [State.stream_modStream_same, h]; rfl
  · rw [State.stream_modStream_other _ _ hd, h]

theorem State.QueueShape.stream {s t : State} (h : s.QueueShape t) (c : Nat) : t.stream c = s.stream c := by rw [h]; rfl

theorem State.putRecord_none {s : State} {c : Nat} (hc : s.stream c = none) (h : HostView) (d : Nat) (st : Option Nat) (pos : Stream → List Nat) :
    (s.putRecord h d st pos).stream c = none := by
  unfold State.putRecord
  cases hd : s.stream d with
  | none => exact hc
  | some x =>
    have hne : c ≠ d := fun h => by rw [h, hd] at hc; cases hc
    have hmod : ((s.modGroup d fun y => { y with statsSent := y.stats }).setStream d
        { x with savedPos := pos x, statsSent := x.stats, owed := false }).stream c = none := by
      rw [State.stream_setStream_other _ _ hne, State.stream_modGroup, hc]
      split <;> rfl
    dsimp only
    split <;> exact hmod

/-! ### A lane leaves its page hold (R134) -/

/-- The streams Held on the page go on: what that changes of the block. -/
theorem State.fwShape_leavePage (s : State) (h : HostView) (p : Nat) : s.FwShape (s.leavePage h p) := by
  refine State.FwShape.trans (State.FwShape.trans (State.FwShape.foldl (fun s c => s.fwShape_modStream c _) _ s) (State.FwShape.foldl (fun s c => ?_) _ _))
    (.of_queueShape (State.queueShape_unstops p _ _))
  split
  · split
    · exact (State.FwShape.of_queueShape (s.queueShape_enlist c)).trans (State.fwShape_recordOf _ h c).1
    · exact .refl s
  · exact .refl s

theorem State.leavePage_none {s : State} {c : Nat} (hc : s.stream c = none) (h : HostView) (p : Nat) : (s.leavePage h p).stream c = none := by
  unfold State.leavePage
  dsimp only
  rw [(State.queueShape_unstops p _ _).stream]
  refine foldl_keeps (fun u : State => u.stream c = none) _ (fun u d hu => ?_) _ _
    (foldl_keeps (fun u : State => u.stream c = none) _ (fun u d hu => State.modStream_none hu d _) _ _ hc)
  split
  · split
    · unfold State.recordOf
      split
      · exact State.putRecord_none (((u.queueShape_enlist d).stream c).trans hu) h _ none _
      · exact ((u.queueShape_enlist d).stream c).trans hu
    · exact hu
  · exact hu

end Sys2Proof.Machine
end

section
/-! SUPPORT. `STREAM_ABANDON` (R260). -/
namespace Sys2Proof.Machine

/-- A dropped stream is gone, and stays gone while others are dropped. -/
theorem State.stream_dropStreams (c : Nat) (l : List Nat) (s : State) : ((c :: l).foldl State.dropStream s).stream c = none := by
  refine foldl_keeps (fun u : State => u.stream c = none) _ (fun u d hu => ?_) l _ (Tbl.find_drop_same c _)
  have hstreams : (u.dropStream d).fw.streams = Tbl.drop d u.fw.streams := congrArg (Tbl.drop d) (u.queueShape_delist d).streams
  rw [State.stream, hstreams]
  by_cases hd : c = d
  · subst hd; exact Tbl.find_drop_same c _
  · rw [Tbl.find_drop_other _ hd]; exact hu

/-- The lanes and the queues settle after a change of the streams: what is left to do at the end of an abandon. -/
theorem State.leavePages_effect (h : HostView) (cs ps : List Nat) (c : Nat) (s : State) :
    s.FwShape (ps.foldl (fun s p => if s.pagedBy p cs then s.leavePage h p else s) s) ∧
      (s.stream c = none → (ps.foldl (fun s p => if s.pagedBy p cs then s.leavePage h p else s) s).stream c = none) := by
  refine ⟨State.FwShape.foldl (fun s p => ?_) _ s, fun hc => foldl_keeps (fun u : State => u.stream c = none) _ (fun u p hu => ?_) _ _ hc⟩
  · split
    · exact s.fwShape_leavePage h p
    · exact .refl s
  · split
    · exact State.leavePage_none hu h p
    · exact hu

/-- A fold of firmware's work after such work. -/
theorem State.FwShape.foldl_from {α : Type} {f : State → α → State} (hf : ∀ (s : State) a, s.FwShape (f s a)) (l : List α) {s t : State}
    (h : s.FwShape t) : s.FwShape (l.foldl f t) := h.trans (.foldl hf l t)

/-- What the end of an abandon changes of the block. -/
theorem State.fwShape_finishAbandon (s : State) (h : HostView) (c : Nat) : s.FwShape (s.finishAbandon h c) := by
  have hholds : s.FwShape (match (s.putRecord h c (some 5) Stream.positionWords).stream c with
      | some x => (tableHolds x).foldl (fun s r => s.unhold r.1 r.2) (s.putRecord h c (some 5) Stream.positionWords)
      | none => s.putRecord h c (some 5) Stream.positionWords) := by
    have hrec := (s.putRecord_shape h c (some 5) Stream.positionWords).1
    split
    · refine State.FwShape.foldl_from (fun s r => ?_) _ hrec
      exact ⟨rfl, rfl⟩
    · exact hrec
  refine State.FwShape.foldl_from (fun s p => ?_) _ ((State.FwShape.trans (State.FwShape.trans (State.FwShape.foldl_from State.fwShape_dropStream _
    (State.FwShape.foldl_from (fun s d => ?_) _ hholds)) (State.leavePages_effect h _ _ c _).1)) (.of_queueShape (State.queueShape_settleGroup _ _)))
  · split
    · exact .of_queueShape (s.queueShape_refill _)
    · exact .refl s
  · split
    · exact (s.takeOff_shape _ d).1
    · exact .refl s

/-- After an abandon the stream is gone. -/
theorem State.stream_finishAbandon {s : State} {c : Nat} {x : Stream} (hx : s.stream c = some x) (h : HostView) :
    (s.finishAbandon h c).stream c = none := by
  unfold State.finishAbandon
  rw [State.group_of_stream hx]
  dsimp only
  refine (State.QueueShape.stream (State.queueShape_foldl (fun s p => ?_) _ _) c).trans (((State.queueShape_settleGroup _ _).stream c).trans
    ((State.leavePages_effect h _ _ c _).2 (State.stream_dropStreams c _ _)))
  split
  · exact s.queueShape_refill _
  · exact .refl s

theorem streamAbandonBody_effect {h : HostView} {s : State} {p : Nat → Nat} {x : Stream} (hz : bits (p 0) 31 16 = 0)
    (hx : s.stream (bits (p 0) 15 0) = some x) (hi : x.idx = 0) {w : State} (hw : w = (s.group (bits (p 0) 15 0)).foldl State.delist s) :
    (w.toDrain (bits (p 0) 15 0) = [] → streamAbandonBody h s p = (w.finishAbandon h (bits (p 0) 15 0), .done 0 [])) ∧
      (w.toDrain (bits (p 0) 15 0) ≠ [] → streamAbandonBody h s p =
        ((w.toDrain (bits (p 0) 15 0)).foldl (fun s p => s.stopLane p .fwPause) w, .wait (.abandon (bits (p 0) 15 0)))) := by
  simp only [streamAbandonBody, hz, State.named_member hx hi, ← hw, ne_eq, not_true_eq_false, if_false]
  cases w.toDrain (bits (p 0) 15 0) with
  | nil => exact ⟨fun _ => rfl, fun h => absurd rfl h⟩
  | cons q qs => exact ⟨(fun h => nomatch h), fun _ => rfl⟩

/-- Settles O35: the state `w` is what `streamAbandonBody` reaches before it looks for lanes to drain. -/
theorem streamAbandoned : Obligations.StreamAbandoned := by
  intro h s w n rest m c x hh hc hz hx hi hw
  subst hc
  have hbody := streamAbandonBody_effect (s := s.taken n rest) (h := h) hz hx hi hw
  have hdelist : (s.taken n rest).QueueShape w := hw ▸ State.queueShape_foldl State.queueShape_delist _ _
  have hxw : w.stream (bits (s.arg n 0) 15 0) = some x := (hdelist.stream _).trans hx
  refine ⟨fun hd => ?_, fun hd => ?_⟩
  · have hkept := (State.FwShape.of_queueShape hdelist).trans (w.fwShape_finishAbandon h (bits (s.arg n 0) 15 0))
    exact ⟨_, command_answered (body := streamAbandonBody h) hh rfl (hbody.1 hd) (.inl rfl) (hkept.cmdWord n 0) hkept.rplFull, rfl,
      State.stream_finishAbandon hxw h, rfl⟩
  · have hstream := congrArg (fun f : Fw => Tbl.find f.streams (bits (s.arg n 0) 15 0))
      (State.stopLanes_fw (w.toDrain (bits (s.arg n 0) 15 0)) .fwPause w)
    exact ⟨_, command_waits (body := streamAbandonBody h) hh rfl (hbody.2 hd), rfl, hstream, fun p hp => State.mem_stops_stopLanes _ w (.inl hp)⟩

end Sys2Proof.Machine
end

section
/-! SUPPORT. `STREAM_RESUME` and `PAGE_RESUME` (R132, R134, Tables CTRL-20, STREAM-7). -/
namespace Sys2Proof.Machine

/-! ### `STREAM_RESUME` of a Held stream -/

/-- Stream `c`, which was `x`, is Held no more: it goes on from its position, or waits for admission. -/
def State.GoesOn (s : State) (c : Nat) (x : Stream) : Prop :=
  ∃ y : Stream, s.stream c = some y ∧ y.heldBy = [] ∧ y.st = (if x.reserve = [] then .queued else .active) ∧ y.inError = false

theorem State.GoesOn.of_streams {s t : State} {c : Nat} {x : Stream} (h : s.GoesOn c x) (hs : t.stream c = s.stream c) : t.GoesOn c x := by
  obtain ⟨y, hy, hrest⟩ := h
  exact ⟨y, hs.trans hy, hrest⟩

theorem State.GoesOn.record {s : State} {c : Nat} {x : Stream} (k : s.GoesOn c x) (h : HostView) : (s.record h c).GoesOn c x := by
  obtain ⟨y, hy, hrest⟩ := k
  exact ⟨_, State.stream_putRecord hy h none _, hrest⟩

theorem State.goesOn_unhold1 {s : State} {c : Nat} {x : Stream} (hx : s.stream c = some x) : (s.unhold1 c).GoesOn c x := by
  have hstream := State.stream_modStream_same s c (fun x => { x with
    st := if x.reserve = [] then .queued else .active
    xfers := if x.heldBy.contains .skew || x.heldBy.contains .size then
      x.xfers.map fun t : Transfer => t.again (t.rs.scale.bind fun k => s.tensor k.handle) x.scaleBlock else x.xfers
    heldBy := [], inError := false, denied := false, mail := s.ctl.mail })
  rw [hx] at hstream
  exact ⟨_, hstream, rfl, rfl, rfl⟩

/-- A stream that goes on is not Held, so that nothing more is done to it. -/
theorem State.GoesOn.unhold1 {s : State} {c d : Nat} {x y : Stream} (h : s.GoesOn c x) (hy : s.stream d = some y) (hst : y.st = .held) :
    (s.unhold1 d).GoesOn c x := by
  have hne : c ≠ d := by
    rintro rfl
    obtain ⟨z, hz, _, hzst, _⟩ := h
    rw [hy] at hz
    cases hz
    rw [hst] at hzst
    split at hzst <;> cases hzst
  exact h.of_streams (State.stream_modStream_other _ _ hne)

theorem State.FwShape.ite {p : Prop} [Decidable p] {s t u : State} (h : s.FwShape t) (k : s.FwShape u) : s.FwShape (if p then t else u) := by
  split
  · exact h
  · exact k

theorem State.GoesOn.ite {p : Prop} [Decidable p] {s t : State} {c : Nat} {x : Stream} (h : s.GoesOn c x) (k : t.GoesOn c x) :
    (if p then s else t).GoesOn c x := by
  split
  · exact h
  · exact k

/-- What going on changes of the block. -/
theorem State.fwShape_resumeHeld (s : State) (h : HostView) (c : Nat) : s.FwShape (s.resumeHeld h c) := by
  have hunhold : s.FwShape ((s.group c).foldl (fun s d => match s.stream d with
      | some y => if y.st = .held then s.unhold1 d else s
      | none => s) s) := by
    refine State.FwShape.foldl (fun s d => ?_) _ s
    split
    · exact .ite (s.fwShape_modStream d _) (.refl s)
    · exact .refl s
  refine State.FwShape.trans ?_ (State.putRecord_shape _ h c none _).1
  refine State.FwShape.foldl_from (fun s p => ?_) _ (State.FwShape.trans (State.FwShape.foldl_from (fun s d => ?_) _
    (.ite ?_ hunhold)) (.of_queueShape (State.queueShape_settleGroup _ _)))
  · split
    · exact .of_queueShape (s.queueShape_refill _)
    · exact .refl s
  · split
    · exact .ite (.of_queueShape (s.queueShape_enlist d)) (.refl s)
    · exact .refl s
  · exact hunhold.trans ⟨rfl, rfl⟩

/-- A Held stream that is resumed goes on. -/
theorem State.goesOn_resumeHeld {s : State} {c : Nat} {x : Stream} (hx : s.stream c = some x) (hst : x.st = .held) (h : HostView) :
    (s.resumeHeld h c).GoesOn c x := by
  have hunhold : ((s.group c).foldl (fun s d => match s.stream d with
      | some y => if y.st = .held then s.unhold1 d else s
      | none => s) s).GoesOn c x := by
    rw [State.group_of_stream hx, List.foldl_cons]
    refine foldl_keeps (fun u : State => u.GoesOn c x) _ (fun u d hu => ?_) _ _ ?_
    · split
      · next y hy =>
        split
        · next hheld => exact hu.unhold1 hy hheld
        · exact hu
      · exact hu
    · split
      · next y hy =>
        rw [hx] at hy
        cases hy
        rw [if_pos hst]
        exact State.goesOn_unhold1 hx
      · next hn => rw [hx] at hn; cases hn
  refine State.GoesOn.record (State.GoesOn.of_streams ?_ ((State.queueShape_foldl (fun s p => ?_) _ _).stream c)) h
  · refine State.GoesOn.of_streams ?_ ((State.queueShape_settleGroup _ _).stream c)
    refine State.GoesOn.of_streams ?_ ((State.queueShape_foldl (fun s d => ?_) _ _).stream c)
    · exact .ite (hunhold.of_streams rfl) hunhold
    · split
      · split
        · exact s.queueShape_enlist d
        · exact .refl s
      · exact .refl s
  · split
    · exact s.queueShape_refill _
    · exact .refl s

theorem streamResumeBody_held {h : HostView} {s : State} {p : Nat → Nat} {x : Stream} (hz : bits (p 0) 31 16 = 0)
    (hx : s.stream (bits (p 0) 15 0) = some x) (hi : x.idx = 0) (hdeny : s.linkDenies x = false) (hst : x.st = .held)
    (hlanes : ∀ d ∈ s.group (bits (p 0) 15 0), (s.laneOf d).isSome = true)
    (hpage : s.anyMember (bits (p 0) 15 0) (fun y => y.heldBy.contains .page) = false)
    (hdenied : s.anyMember (bits (p 0) 15 0) (fun y => y.denied) = false) :
    streamResumeBody h s p = Ans.ok (s.resumeHeld h (bits (p 0) 15 0)) [] := by
  have hheld : s.heldGroup (bits (p 0) 15 0) = true :=
    List.any_eq_true.mpr ⟨_, State.mem_group_self hx, by simp [hx, hst]⟩
  have hserved : ((s.group (bits (p 0) 15 0)).any fun d => (s.laneOf d).isNone) = false := by
    rw [List.any_eq_false]
    intro d hd
    have hsome := hlanes d hd
    rw [Option.isSome_iff_ne_none] at hsome
    simpa using hsome
  simp only [streamResumeBody, hz, State.named_member hx hi, hdeny, hheld, hserved, hpage, hdenied, ne_eq, not_true_eq_false, if_false, if_true,
    Bool.false_eq_true]

/-- A paused stream is paused no more, and goes to its run list. -/
theorem streamResumeBody_paused {h : HostView} {s : State} {p : Nat → Nat} {x : Stream} (hz : bits (p 0) 31 16 = 0)
    (hx : s.stream (bits (p 0) 15 0) = some x) (hi : x.idx = 0) (hdeny : s.linkDenies x = false) (hheld : s.heldGroup (bits (p 0) 15 0) = false)
    (hp : x.paused = true) : ∃ t : State, streamResumeBody h s p = Ans.ok (t.record h (bits (p 0) 15 0)) [] ∧ s.FwShape t ∧
      t.stream (bits (p 0) 15 0) = some { x with paused := false, mail := s.ctl.mail } := by
  have hq : (s.modGroup (bits (p 0) 15 0) fun y => { y with paused := false, mail := s.ctl.mail }).QueueShape
      (((s.modGroup (bits (p 0) 15 0) fun y => { y with paused := false, mail := s.ctl.mail }).group (bits (p 0) 15 0)).foldl
        (fun s d => match s.stream d with
          | some y => if y.runnable then s.makeRunnable d else s
          | none => s) (s.modGroup (bits (p 0) 15 0) fun y => { y with paused := false, mail := s.ctl.mail })) := by
    refine State.queueShape_foldl (fun s d => ?_) _ _
    split
    · split
      · exact s.queueShape_makeRunnable d
      · exact .refl s
    · exact .refl s
  refine ⟨_, ?_, (s.fwShape_modGroup _ _).trans (.of_queueShape hq), (hq.stream _).trans (State.stream_modGroup_self hx _)⟩
  simp only [streamResumeBody, hz, State.named_member hx hi, hdeny, hheld, hp, ne_eq, not_true_eq_false, if_false, Bool.not_true, Bool.false_eq_true] <;> rfl

/-- Settles O36: both ways end in a record and an `OK` reply. -/
theorem streamResumed : Obligations.StreamResumed := by
  intro h s n rest m c x hh hc hz hx hi hdeny
  subst hc
  refine ⟨fun hheld hp => ?_, fun hst hlanes hpage hdenied => ?_⟩
  · obtain ⟨t, hbody, hshape, ht⟩ := streamResumeBody_paused (s := s.taken n rest) (h := h) hz hx hi hdeny hheld hp
    have hkept := hshape.trans (t.putRecord_shape h (bits (s.arg n 0) 15 0) none Stream.positionWords).1
    exact ⟨_, _, command_answered (body := fun s p => (streamResumeBody h s p).verdict) hh rfl (congrArg Ans.verdict hbody) (.inl rfl)
      (hkept.cmdWord n 0) hkept.rplFull, State.stream_putRecord ht h none _, rfl, rfl⟩
  · have hbody := streamResumeBody_held (s := s.taken n rest) (h := h) hz hx hi hdeny hst hlanes hpage hdenied
    have hkept := (s.taken n rest).fwShape_resumeHeld h (bits (s.arg n 0) 15 0)
    obtain ⟨y, hy, hheld, hyst, herr⟩ := State.goesOn_resumeHeld (s := s.taken n rest) hx hst h
    exact ⟨_, y, rfl, command_answered (body := fun s p => (streamResumeBody h s p).verdict) hh rfl (congrArg Ans.verdict hbody) (.inl rfl)
      (hkept.cmdWord n 0) hkept.rplFull, hy, hheld, hyst, herr⟩

/-! ### `PAGE_RESUME` -/

theorem Lane.unstop_stops (l : Lane) (x : Stop) : (l.unstop x).stops = l.stops.filter fun y => decide (y ≠ x) := by
  unfold Lane.unstop
  dsimp only
  split <;> rfl

/-- Filling a queue leaves every lane's stops. -/
theorem State.stops_refill (s : State) (n p : Nat) : ((s.refill n).lane p).stops = (s.lane p).stops := by
  unfold State.refill
  split
  · rfl
  · next q _ =>
    split
    · rfl
    · by_cases hp : p = q
      · subst hp; rw [State.lane_modLane_same]
      · rw [State.lane_modLane_other _ _ hp]

/-- Leaving a stop takes it from the lane's stops. -/
theorem State.stops_unstop (s : State) (p : Nat) (x : Stop) : ((s.unstop p x).lane p).stops = (s.lane p).stops.filter fun y => decide (y ≠ x) := by
  have hlane : ((s.modLane p fun l => l.unstop x).lane p).stops = (s.lane p).stops.filter fun y => decide (y ≠ x) := by
    rw [State.lane_modLane_same, Lane.unstop_stops]
  have hxst : ((if (s.lane p).holding && !((s.modLane p fun l => l.unstop x).lane p).holding then
      (s.modLane p fun l => l.unstop x).modLane p fun l => { l with xst := (s.modLane p fun l => l.unstop x).leaveXst p }
    else s.modLane p fun l => l.unstop x).lane p).stops = (s.lane p).stops.filter fun y => decide (y ≠ x) := by
    split
    · rw [State.lane_modLane_same]; exact hlane
    · exact hlane
  unfold State.unstop
  dsimp only
  split
  · exact (State.stops_refill _ _ p).trans hxst
  · exact hxst

/-- The stops of a list are left. -/
theorem State.stops_unstops (p : Nat) (l : List Stop) : ∀ s : State,
    ((l.foldl (fun s x => s.unstop p x) s).lane p).stops = (s.lane p).stops.filter fun y => decide (y ∉ l) := by
  induction l with
  | nil => simp
  | cons x l ih =>
    intro s
    rw [List.foldl_cons, ih, State.stops_unstop, List.filter_filter]
    congr 1
    funext y
    simp [Bool.and_comm]

/-- A fold of steps that leave the lanes alone. -/
theorem State.lanes_foldl {α : Type} {f : State → α → State} (hf : ∀ (s : State) a, (f s a).lanes = s.lanes) (l : List α) (s : State) :
    (l.foldl f s).lanes = s.lanes :=
  foldl_keeps (fun u : State => u.lanes = s.lanes) f (fun u a hu => (hf u a).trans hu) l s rfl

theorem State.modStreams_lanes (f : Stream → Stream) (l : List Nat) (s : State) : (l.foldl (fun s c => s.modStream c f) s).lanes = s.lanes :=
  foldl_keeps (fun u : State => u.lanes = s.lanes) _ (fun u c hu => by rw [State.modStream_frame]; exact hu) l s rfl

/-- A lane that leaves its page hold has no page stop left. -/
theorem State.leavePage_stops (s : State) (h : HostView) (p : Nat) : ∀ x ∈ ((s.leavePage h p).lane p).stops, ∀ f, x ≠ Stop.page f := by
  intro x hx f hf
  subst hf
  unfold State.leavePage at hx
  dsimp only at hx
  rw [State.stops_unstops, List.mem_filter, decide_eq_true_eq] at hx
  obtain ⟨hmem, hleft⟩ := hx
  refine hleft (List.mem_filter.mpr ⟨Eq.mp (congrArg (fun l => Stop.page f ∈ (Tbl.get Lane.reset l p).stops)
    ((State.lanes_foldl (fun u c => ?_) _ _).trans (State.modStreams_lanes _ _ _))) hmem, rfl⟩)
  split
  · split
    · have henlist : (u.enlist c).lanes = u.lanes := by
        unfold State.enlist
        split
        · split <;> rfl
        · rfl
      rw [(State.fwShape_recordOf _ h c).2, henlist]
    · rfl
  · rfl

/-- Emptying a translation cache twice is emptying it once. -/
theorem Lane.invalidate_invalidate (l : Lane) : l.invalidate.invalidate = l.invalidate := by
  unfold Lane.invalidate
  cases l.walk <;> rfl

theorem State.lane_invalidates (l : List Nat) (p : Nat) : ∀ s : State,
    (l.foldl (fun s q => s.modLane q Lane.invalidate) s).lane p = if p ∈ l then (s.lane p).invalidate else s.lane p := by
  induction l with
  | nil => intro s; rfl
  | cons q l ih =>
    intro s
    rw [List.foldl_cons, ih]
    by_cases hp : p = q
    · subst hp
      rw [State.lane_modLane_same, Lane.invalidate_invalidate]
      simp
    · rw [State.lane_modLane_other _ _ hp]
      simp [hp]

/-- Settles O37: `leavePage` leaves every page stop, and the caches of the lanes of the mask are emptied. -/
theorem pageResumes : Obligations.PageResumes := by
  intro h s n rest m hh hres
  refine ⟨fun p hinv hlane hphys hpage => ?_, fun hinv hlanes => ?_⟩
  · have hbody : pageResumeBody h (s.taken n rest) (s.arg n) = Ans.ok ((s.taken n rest).leavePage h p) [] := by
      have hphys' : (s.taken n rest).physOf (bits (s.arg n 0) 3 0) = some p := hphys
      have hpage' : ((s.taken n rest).lane p).onPage = true := hpage
      have hlane' : ¬bits (s.arg n 0) 3 0 ≥ (s.taken n rest).nLanes := Nat.not_le.mpr hlane
      simp only [pageResumeBody, hres, hlane', hphys', hpage', if_false, if_true, Bool.false_eq_true]
    have hshape := (s.taken n rest).fwShape_leavePage h p
    exact ⟨_, command_fw_ok (body := pageResumeBody h) hh (by simp [hinv]) hbody hshape, State.leavePage_stops _ h p, hshape.plate, hshape.hal⟩
  · have hany : ((onBits 8 (bits (s.arg n 0) 23 16)).any fun l => decide (l ≥ (s.taken n rest).nLanes)) = false := by
      rw [List.any_eq_false]
      intro l hl
      rw [decide_eq_true_eq]
      exact Nat.not_le.mpr (hlanes l hl)
    have hbody : pageInvalidateBody (s.taken n rest) (s.arg n) =
        Ans.ok (((onBits 8 (bits (s.arg n 0) 23 16)).filterMap s.physOf).foldl (fun s q => s.modLane q Lane.invalidate) (s.taken n rest)) [] := by
      simp only [pageInvalidateBody, hres, hany, if_false, Bool.false_eq_true] <;> rfl
    have hframe : ((onBits 8 (bits (s.arg n 0) 23 16)).filterMap s.physOf).foldl (fun s q => s.modLane q Lane.invalidate) (s.taken n rest) =
        { s.taken n rest with lanes := (((onBits 8 (bits (s.arg n 0) 23 16)).filterMap s.physOf).foldl (fun s q => s.modLane q Lane.invalidate)
          (s.taken n rest)).lanes } :=
      foldl_keeps (fun u : State => u = { s.taken n rest with lanes := u.lanes }) _ (fun u q hu => by rw [hu]; rfl) _ _ rfl
    refine ⟨_, command_fw_ok (body := pageInvalidateBody) hh hinv hbody ⟨?_, ?_⟩, hframe,
      fun l hl p hp => ?_⟩
    · rw [hframe]
    · rw [hframe]
    · have hlane := State.lane_invalidates ((onBits 8 (bits (s.arg n 0) 23 16)).filterMap s.physOf) p (s.taken n rest)
      rw [if_pos (List.mem_filterMap.mpr ⟨l, hl, hp⟩)] at hlane
      rw [hlane]
      exact ⟨rfl, rfl⟩

end Sys2Proof.Machine
end

section
/-! SUPPORT. `LINK_UP` and `LINK_DOWN` (R279, R281, Table LINK-8). -/
namespace Sys2Proof.Machine

/-! ### The state of the link stands while frames go out -/

/-- A fold of steps that leave the peer link alone. -/
theorem State.link_foldl {α : Type} {f : State → α → State} (hf : ∀ (s : State) a, (f s a).link = s.link) (l : List α) (s : State) :
    (l.foldl f s).link = s.link :=
  foldl_keeps (fun u : State => u.link = s.link) f (fun u a hu => (hf u a).trans hu) l s rfl

theorem State.spoiled_link (s : State) (o : Owner) (gone : Bool) : (s.spoiled o gone).link = s.link := by
  cases o
  case store =>
    rw [State.spoiled, State.modXfer, State.modStream_frame]
  all_goals rfl

theorem State.cutWrites_link (s : State) (q : Nat) : (s.cutWrites q).link = s.link :=
  (State.link_foldl (fun s o => s.spoiled_link o true) _ _).trans (State.link_foldl (fun s o => s.spoiled_link o false) _ _)

theorem State.stopLane_link (s : State) (p : Nat) (x : Stop) : (s.stopLane p x).link = s.link := rfl

/-- Entry to the safe state cuts the frame that leaves (R332). -/
theorem State.enterSafe_link (s : State) : s.enterSafe.link = if s.flt.safe then s.link else s.link.cutFrame := by
  unfold State.enterSafe
  split
  · rfl
  · exact (State.link_foldl (fun s p => State.stopLane_link s p .safe) _ _).trans (State.link_foldl State.cutWrites_link _ _)

theorem Link.cutFrame_st (l : Link) : l.cutFrame.st = l.st := by
  unfold Link.cutFrame
  split
  · rfl
  · split <;> rfl

theorem State.enterSafe_st (s : State) : s.enterSafe.link.st = s.link.st := by
  rw [State.enterSafe_link]
  split
  · rfl
  · exact s.link.cutFrame_st

theorem State.raise_st (s : State) (b : Burgee) : (s.raise b).link.st = s.link.st := by
  unfold State.raise
  dsimp only
  split
  · exact State.enterSafe_st _
  · rfl

theorem State.modXfers_link (l : List FrameOwner) (f : FrameOwner → Transfer → Transfer) (s : State) :
    (l.foldl (fun s o => s.modXfer o.sctx o.xfer (f o)) s).link = s.link :=
  State.link_foldl (fun s o => by rw [State.modXfer, State.modStream_frame]) l s

theorem State.withhold_st (s : State) (f : TxFrame) : (s.withhold f).link.st = s.link.st := by
  unfold State.withhold
  rw [State.modXfers_link _ fun o t => { t with outstanding := t.outstanding - o.n, err := some (t.err.getD .fail) }, State.raise_st]
  rfl

theorem State.pumpN_st (n : Nat) : ∀ s : State, (s.pumpN n).link.st = s.link.st := by
  induction n with
  | zero => exact fun _ => rfl
  | succ n ih =>
    intro s
    unfold State.pumpN
    split
    · rfl
    · split
      · rw [ih]
        split
        · exact State.withhold_st _ _
        · rfl
      · rfl

theorem State.closeWrite_st (s : State) : s.closeWrite.link.st = s.link.st := by
  unfold State.closeWrite
  split
  · rfl
  · exact State.pumpN_st _ _

/-! ### The two commands -/

theorem State.freeBuffer_buf (s : State) : s.freeBuffer.link.buf = none := by
  unfold State.freeBuffer
  cases h : s.link.buf with
  | none => exact h
  | some a => rfl

/-- Releasing the retry buffer changes the held space and the buffer's place alone. -/
theorem State.freeBuffer_frame (s : State) : s.freeBuffer =
    { s with fw := { s.fw with held := s.freeBuffer.fw.held }, link := { s.link with buf := s.freeBuffer.link.buf } } := by
  unfold State.freeBuffer
  cases s.link.buf <;> rfl

theorem State.freeBuffer_withCtl (s : State) (c : Ctl) : (s.withCtl c).freeBuffer = s.freeBuffer.withCtl c := by
  unfold State.freeBuffer
  rw [show (s.withCtl c).link = s.link from rfl]
  cases s.link.buf <;> rfl

theorem State.freeBuffer_ctl (s : State) : s.freeBuffer.ctl = s.ctl := by rw [State.freeBuffer_frame]

/-- Training begins with the settings of the message. -/
theorem linkUpBody_trains {place : Nat} {s : State} {p : Nat → Nat} {a : Nat} (hst : s.link.st = 0 ∨ s.link.st = 4) (hz1 : bits (p 0) 31 17 = 0)
    (hz2 : bits (p 2) 31 16 = 0) (hz3 : bits (p 4) 31 16 = 0) (hd : badMac (p 1 + bits (p 2) 15 0 * 2 ^ 32) = false)
    (hs : badMac (p 3 + bits (p 4) 15 0 * 2 ^ 32) = false) (he : badEtype (bits (p 0) 15 0) = false)
    (ha : s.freeBuffer.holdPlace place retryBytes = some a) : ∃ t : State, linkUpBody place s p = (t, .wait .linkUp) ∧ t.link.st = 1 ∧
      t.link.trains = s.link.trains + 1 ∧ t.link.buf = some a ∧ t.link.dmac = BitVec.ofNat 48 (p 1 + bits (p 2) 15 0 * 2 ^ 32) ∧
      t.link.etype = (if bits (p 0) 15 0 = 0 then 0x88B5 else BitVec.ofNat 16 (bits (p 0) 15 0)) ∧ t.plate = s.plate ∧ t.lanes = s.lanes := by
  have h5 : s.link.st ≠ 5 := by omega
  have h04 : ¬(s.link.st ≠ 0 ∧ s.link.st ≠ 4) := by omega
  have hframe := s.freeBuffer_frame
  have htrains : s.freeBuffer.link.trains = s.link.trains := by rw [hframe]
  have hplate : s.freeBuffer.plate = s.plate := by rw [hframe]
  have hlanes : s.freeBuffer.lanes = s.lanes := by rw [hframe]
  have hbody : (linkUpBody place s p).2 = .wait .linkUp ∧ (linkUpBody place s p).1.link.st = 1 ∧
      (linkUpBody place s p).1.link.trains = s.freeBuffer.link.trains + 1 ∧ (linkUpBody place s p).1.link.buf = some a ∧
      (linkUpBody place s p).1.link.dmac = BitVec.ofNat 48 (p 1 + bits (p 2) 15 0 * 2 ^ 32) ∧
      (linkUpBody place s p).1.link.etype = (if bits (p 0) 15 0 = 0 then 0x88B5 else BitVec.ofNat 16 (bits (p 0) 15 0)) ∧
      (linkUpBody place s p).1.plate = s.freeBuffer.plate ∧ (linkUpBody place s p).1.lanes = s.freeBuffer.lanes := by
    simp only [linkUpBody, h5, h04, hz1, hz2, hz3, hd, hs, he, ha, ne_eq, not_true_eq_false, or_self, if_false, Bool.false_eq_true]
    exact ⟨trivial, rfl, rfl, rfl, rfl, rfl, rfl, rfl⟩
  obtain ⟨h1, h2, h3, h4, h5, h6, h7, h8⟩ := hbody
  exact ⟨_, Prod.ext rfl h1, h2, h3.trans (by rw [htrains]), h4, h5, h6, h7.trans hplate, h8.trans hlanes⟩

/-- A lost link is down at once. -/
theorem State.closeLink_lost {s : State} (hup : s.link.up = false) : s.closeLink.link.st = 0 ∧ s.closeLink.link.buf = none ∧ s.closeLink.ctl = s.ctl := by
  have hclose : s.closeLink = { (s.linkBump 10 s.link.unackedAdds).freeBuffer with
      link := { (s.linkBump 10 s.link.unackedAdds).freeBuffer.link with st := 0 } } := by
    have hup' : (s.linkBump 10 s.link.unackedAdds).link.up = false := hup
    simp only [State.closeLink, hup, hup', Bool.false_eq_true, if_false]
  rw [hclose]
  exact ⟨rfl, State.freeBuffer_buf _, State.freeBuffer_ctl (s.linkBump 10 s.link.unackedAdds)⟩

theorem linkDownBody_open {s : State} (p : Nat → Nat) (hb : s.remoteBusy = false) (hup : s.link.up = true) :
    linkDownBody s p = (s.closeWrite, .wait .linkDown) := by
  simp [linkDownBody, hb, hup]

theorem linkDownBody_lost {s : State} (p : Nat → Nat) (hb : s.remoteBusy = false) (hup : s.link.up = false) (hst : s.link.st = 4) :
    linkDownBody s p = (s.closeLink.linkStateReply 0, .done 0 []) := by
  simp [linkDownBody, hb, hup, hst]

theorem linkDownBody_down {s : State} (p : Nat → Nat) (hb : s.remoteBusy = false) (hup : s.link.up = false) (hst : s.link.st ≠ 4) :
    linkDownBody s p = (s, .done 0 []) := by
  simp [linkDownBody, hb, hup, hst]

/-- The link is up in the states `UP` and `UP_REDUCED` (Table LINK-7). -/
theorem Link.up_iff (l : Link) : l.up = true ↔ l.st = 2 ∨ l.st = 3 := by
  simp [Link.up]

/-- Settles O38: the bodies by the state of the link. -/
theorem linkCommands : Obligations.LinkCommands := by
  intro place s n rest m
  refine ⟨fun a hh hst hz1 hz2 hz3 hd hs he ha => ?_, fun hh hb => ⟨fun hst => ?_, fun hst => ?_, fun hst => ?_⟩⟩
  · have ha' : (s.taken n rest).freeBuffer.holdPlace place retryBytes = some a := by
      rw [show s.taken n rest = s.withCtl (s.ctl.accept n rest) from rfl, State.freeBuffer_withCtl]; exact ha
    obtain ⟨t, hbody, h1, h2, h3, h4, h5, h6, h7⟩ := linkUpBody_trains (s := s.taken n rest) hst hz1 hz2 hz3 hd hs he ha'
    exact ⟨_, command_waits (mine := anyVariant) (body := linkUpBody place) hh rfl hbody, h1, h2, h3, h4, h5, rfl, h6, h7⟩
  · have hup : (s.taken n rest).link.up = true := (Link.up_iff _).mpr hst
    exact ⟨_, command_waits (mine := anyVariant) (body := linkDownBody) hh rfl (linkDownBody_open (s := s.taken n rest) _ hb hup), rfl,
      (s.taken n rest).closeWrite_st⟩
  · have hup : (s.taken n rest).link.up = false := by
      rw [← Bool.not_eq_true, Link.up_iff]; show ¬(s.link.st = 2 ∨ s.link.st = 3); omega
    obtain ⟨h1, h2, h3⟩ := State.closeLink_lost hup
    have hword := congrArg (fun c : Ctl => c.cmdWord n 0) h3
    have hfull := congrArg Ctl.rplFull h3
    exact ⟨_, command_answered (mine := anyVariant) (body := linkDownBody) hh rfl (linkDownBody_lost (s := s.taken n rest) _ hb hup hst) (.inl rfl)
      hword hfull, h1, h2, rfl⟩
  · have hup : (s.taken n rest).link.up = false := by
      rw [← Bool.not_eq_true, Link.up_iff]; show ¬(s.link.st = 2 ∨ s.link.st = 3); omega
    exact command_posted (body := linkDownBody) hh rfl (linkDownBody_down (s := s.taken n rest) _ hb hup (by show s.link.st ≠ 4; omega)) rfl

end Sys2Proof.Machine
end

section
/-! SUPPORT. `ATTACH` and `FW_UPDATE` (R256, R306, R363, Table START-11). -/
namespace Sys2Proof.Machine

/-! ### `ATTACH` -/

/-- Attaching sets the settings and empties the translation caches. -/
theorem State.attachWith_effect (s : State) (root compat : Nat) (reg : Tbl (Nat × Nat)) : ∃ lanes : Tbl Lane,
    s.attachWith root compat reg = { s with
      fw := { s.fw with attached := true, root := root, compat := BitVec.ofNat 8 compat, reg := reg }
      pwr := { s.pwr with hist := List.replicate 1000 ((s.pwr.cap : Rat) / 1000) }, lanes := lanes } ∧
    ∀ p ∈ s.build.cfg.physLanes, ((s.attachWith root compat reg).lane p).xlat = [] := by
  refine ⟨(s.attachWith root compat reg).lanes, ?_, fun p hp => ?_⟩
  · exact foldl_keeps (fun u : State => u = { s with
      fw := { s.fw with attached := true, root := root, compat := BitVec.ofNat 8 compat, reg := reg }
      pwr := { s.pwr with hist := List.replicate 1000 ((s.pwr.cap : Rat) / 1000) }, lanes := u.lanes }) _ (fun u q hu => by rw [hu]; rfl) _ _ rfl
  · have hlane := State.lane_invalidates s.build.cfg.physLanes p { s with
      fw := { s.fw with attached := true, root := root, compat := BitVec.ofNat 8 compat, reg := reg }
      pwr := { s.pwr with hist := List.replicate 1000 ((s.pwr.cap : Rat) / 1000) } }
    rw [if_pos hp] at hlane
    have hx := congrArg Lane.xlat hlane
    exact hx

/-- What the checks of an optional regulator record come to when each of its entries passes. -/
theorem any_present_false {α : Type} {record : Option (List Byte)} {l : List α} {q : List Byte → α → Bool} (h : ∀ b, record = some b → ∀ i ∈ l, q b i = false) :
    ((if record.isSome then l else []).any fun i => q (record.getD []) i) = false := by
  cases record with
  | none => rfl
  | some b => exact List.any_eq_false.mpr fun i hi => by simp [h b rfl i hi]

/-- The regulator's entries that a record gives. -/
def regTable (record : Option (List Byte)) (l : List Nat) : Tbl (Nat × Nat) :=
  (if record.isSome then l else []).map fun i => (i, regEntry (record.getD []) i)

/-- `ATTACH` whose payload passes every row of R256. -/
theorem attachBody_attaches {h : HostView} {s : State} {p : Nat → Nat} {record : Option (List Byte)}
    (hrec : readRegs s.build.cfg.ports h (addr52 (p 2) (p 3)) (p 4) = .inr record) (hz1 : bits (p 1) 23 20 = 0) (hz2 : bits (p 3) 31 20 = 0)
    (hc : bits (p 1) 31 24 < 2 ^ s.nLanes) (hroot : addr52 (p 0) (p 1) % 2097152 = 0)
    (hregs : ∀ b, record = some b → ∀ i ∈ s.regPresent, regReservedOk b i = true ∧ regRangeOk (regEntry b i) = true)
    (hatt : s.fw.attached = true → s.liveHandles = 0 ∧ s.fw.streams = []) :
    attachBody h s p = Ans.ok (s.attachWith (addr52 (p 0) (p 1)) (bits (p 1) 31 24) (regTable record s.regPresent)) [] := by
  have hatt' : ¬(s.fw.attached = true ∧ (s.liveHandles ≠ 0 ∨ s.fw.streams ≠ [])) := by
    rintro ⟨ha, h⟩
    obtain ⟨h1, h2⟩ := hatt ha
    exact h.elim (fun h => h h1) fun h => h h2
  have hres := any_present_false (record := record) (l := s.regPresent) (q := fun b i => !regReservedOk b i) fun b hb i hi => by simp [(hregs b hb i hi).1]
  have hrng := any_present_false (record := record) (l := s.regPresent) (q := fun b i => !regRangeOk (regEntry b i)) fun b hb i hi => by
    simp [(hregs b hb i hi).2]
  have hzero : ¬(bits (p 1) 23 20 ≠ 0 ∨ bits (p 3) 31 20 ≠ 0 ∨ bits (p 1) 31 24 / 2 ^ s.nLanes ≠ 0 ∨
      ((if record.isSome then s.regPresent else []).any fun i => !regReservedOk (record.getD []) i) = true) := by
    rw [hz1, hz2, Nat.div_eq_of_lt hc, hres]
    decide
  generalize hf : attachBody = f
  delta attachBody at hf
  subst hf
  beta_reduce
  rw [hrec]
  dsimp only
  rw [if_neg hzero, if_neg (not_not.mpr hroot), if_neg (by rw [hrng]; exact Bool.false_ne_true), if_neg hatt']
  rfl

/-- Settles O39: the rows of R256 pass, and `attachWith` takes the settings. -/
theorem attaches : Obligations.Attaches := by
  intro h s n rest m root compat record hh hroot hcompat hrec hz1 hz2 hc hr hregs hatt
  subst hroot hcompat
  have hbody := attachBody_attaches (s := s.taken n rest) hrec hz1 hz2 hc hr hregs hatt
  obtain ⟨lanes, heq, hx⟩ := (s.taken n rest).attachWith_effect (addr52 (s.arg n 0) (s.arg n 1)) (bits (s.arg n 1) 31 24)
    (regTable record (s.taken n rest).regPresent)
  refine ⟨_, command_ok_kept (mine := anyVariant) (body := attachBody h) hh rfl hbody (by rw [heq]) (by rw [heq]; rfl), ?_, ?_, ?_, ?_, hx⟩
  · rw [heq]
  · rw [heq] <;> rfl
  · rw [heq]
    cases record <;> rfl
  · rw [heq] <;> rfl

/-! ### `FW_UPDATE` -/

/-- The parts of a write of firmware's are its bytes (R30): a part ends at a multiple of 4,096 bytes. -/
theorem fwParts_bytes (np : Nat) : ∀ (k a : Nat) (b : List Byte), b.length + 4096 ≤ 4096 - a % 4096 + 4096 * k →
    (fwParts np k a b).flatMap (fun w => w.bytes) = b
  | 0, a, b, h => by
    have hb : b = [] := List.eq_nil_of_length_eq_zero (by omega)
    subst hb
    rfl
  | k + 1, a, b, h => by
    unfold fwParts
    by_cases hb : b = []
    · simp [hb]
    · have hrest := fwParts_bytes np k (a + (4096 - a % 4096)) (b.drop (4096 - a % 4096)) (by
        rw [List.length_drop]
        have hal : (a + (4096 - a % 4096)) % 4096 = 0 := by omega
        rw [hal]
        omega)
      simp only [hb, if_false, List.flatMap_cons, hrest, List.take_append_drop]

/-- What firmware writes is appended to what it has written. -/
theorem State.fwWrite_bytes (s : State) (a : Nat) (b : List Byte) :
    (s.fwWrite a b).fwWrites.flatMap (fun w => w.bytes) = s.fwWrites.flatMap (fun w => w.bytes) ++ b := by
  have h := fwParts_bytes s.build.cfg.ports (b.length / 4096 + 2) a b (by omega)
  rw [State.fwWrite, List.flatMap_append, h]

theorem Tbl.length_getRun {α : Type} (d : α) (t : Tbl α) : ∀ n k, (Tbl.getRun d t k n).length = n
  | 0, k => rfl
  | n + 1, k => by rw [Tbl.getRun, List.length_cons, Tbl.length_getRun d t n]

theorem hostRead_length {np : Nat} {h : HostView} {a n : Nat} {b : List Byte} (hb : hostRead np h a n = some b) : b.length = n := by
  unfold hostRead at hb
  split at hb
  · cases hb
  · cases hb
    exact Tbl.length_getRun 0 h.cells n a

/-- An image that passes every row of Table START-11 is written to the slot. -/
theorem fwUpdateBody_writes {h : HostView} {s : State} {p : Nat → Nat} {img : List Byte} (hz1 : bits (p 0) 31 9 = 0) (hz2 : bits (p 0) 7 1 = 0)
    (hz3 : bits (p 2) 31 20 = 0) (ha : addr52 (p 1) (p 2) % 64 = 0) (hslot : decide (bits (p 0) 0 0 = 1) ≠ s.boot.slotRunning) (hlen : p 3 % 64 = 0)
    (hlo : 256 ≤ p 3) (hhi : p 3 ≤ 196800) (himg : hostRead s.build.cfg.ports h (addr52 (p 1) (p 2)) (p 3) = some img) (hcrc : crc32c img = p 4)
    (hst : imageStatus s.otp.keyHash (p 3) img = 0) (hbad : hostBad s.build.cfg.ports h (s.boot.slotAddr (bits (p 0) 0 0)) (p 3) = none)
    (hact : bitOn (p 0) 8 = false) : fwUpdateBody h s p = Ans.ok (s.fwWrite (s.boot.slotAddr (bits (p 0) 0 0)) img) [] := by
  have hwrite : s.writeSlot h (bits (p 0) 0 0) img = (s.fwWrite (s.boot.slotAddr (bits (p 0) 0 0)) img, true) := by
    simp [State.writeSlot, hostRead_length himg, hbad]
  have hlen' : ¬(p 3 % 64 ≠ 0 ∨ p 3 < 256 ∨ p 3 > 196800) := by omega
  have hact' : ¬(bitOn (p 0) 8 = true ∧ s.boot.journalBase = 0) := by simp [hact]
  generalize hf : fwUpdateBody = f
  delta fwUpdateBody at hf
  subst hf
  dsimp only
  rw [if_neg (by rw [hz1, hz2, hz3]; decide), if_neg (not_not.mpr ha), if_neg hslot, if_neg hact', if_neg hlen', himg]
  dsimp only
  rw [if_neg (not_not.mpr hcrc), if_neg (not_not.mpr hst), hwrite]
  dsimp only
  rw [hact]
  rfl

/-- Settles O40: the image is written whole. -/
theorem firmwareUpdated : Obligations.FirmwareUpdated := by
  intro h s n rest m slot len img hh hslot hlen hz1 hz2 hz3 ha hrun hl hlo hhi himg hcrc hst hbad hact
  subst hslot hlen
  exact ⟨command_ok (body := fwUpdateBody h) hh rfl (fwUpdateBody_writes (s := s.taken n rest) hz1 hz2 hz3 ha hrun hl hlo hhi himg hcrc hst hbad hact)
    rfl, State.fwWrite_bytes (s.taken n rest) _ img⟩

end Sys2Proof.Machine
end

section
/-! SUPPORT. `DETACH` (R365, R366, R374). -/
namespace Sys2Proof.Machine

/-! ### What stopping a lane leaves of the other lanes -/

/-- `t` differs from `s` in what entry to the safe state moves, with the state of the link kept; no lane loses a stop, and the lanes of `A` keep
their queue and whether they hold. -/
def State.StopsOn (A : Nat → Prop) (s t : State) : Prop :=
  s.SafeShape t ∧ t.link.st = s.link.st ∧ (∀ p, ∀ x ∈ (s.lane p).stops, x ∈ (t.lane p).stops) ∧
    ∀ p, A p → (t.lane p).holding = (s.lane p).holding ∧ (t.lane p).queue = (s.lane p).queue

section
variable {A : Nat → Prop}

theorem State.StopsOn.refl (s : State) : s.StopsOn A s := ⟨.refl s, rfl, fun _ _ h => h, fun _ _ => ⟨rfl, rfl⟩⟩

theorem State.StopsOn.trans {s t u : State} (h : s.StopsOn A t) (k : t.StopsOn A u) : s.StopsOn A u := by
  obtain ⟨h1, h2, h3, h4⟩ := h
  obtain ⟨k1, k2, k3, k4⟩ := k
  exact ⟨h1.trans k1, k2.trans h2, fun p x hx => k3 p x (h3 p x hx),
    fun p hp => ⟨(k4 p hp).1.trans (h4 p hp).1, (k4 p hp).2.trans (h4 p hp).2⟩⟩

/-- A change of the same parts that leaves every lane alone. -/
theorem State.StopsOn.of_lanes {s t : State} (h : s.SafeShape t) (hst : t.link.st = s.link.st) (hl : t.lanes = s.lanes) : s.StopsOn A t := by
  have hlane : ∀ p, t.lane p = s.lane p := fun p => congrArg (fun l => Tbl.get Lane.reset l p) hl
  refine ⟨h, hst, fun p x hx => ?_, fun p _ => ?_⟩ <;> rw [hlane]
  · exact hx
  · exact ⟨rfl, rfl⟩

theorem State.StopsOn.foldl {α : Type} {f : State → α → State} (hf : ∀ (s : State) a, s.StopsOn A (f s a)) (l : List α) (s : State) :
    s.StopsOn A (l.foldl f s) :=
  foldl_keeps (fun u => s.StopsOn A u) f (fun u a hu => hu.trans (hf u a)) l s (.refl s)

theorem State.stopsOn_modStream (s : State) (c : Nat) (f : Stream → Stream) : s.StopsOn A (s.modStream c f) := by
  refine .of_lanes (s.safeShape_modStream c f) ?_ ?_ <;> rw [State.modStream_frame]

/-- A change of a lane that is not one of `A`, and that loses no stop. -/
theorem State.stopsOn_modLane {s : State} {p : Nat} {f : Lane → Lane} (hp : A p → (f (s.lane p)).holding = (s.lane p).holding ∧
    (f (s.lane p)).queue = (s.lane p).queue) (hs : ∀ x ∈ (s.lane p).stops, x ∈ (f (s.lane p)).stops) : s.StopsOn A (s.modLane p f) := by
  refine ⟨rfl, rfl, fun q x hx => ?_, fun q hq => ?_⟩
  · by_cases h : q = p
    · subst h; rw [State.lane_modLane_same]; exact hs x hx
    · rwa [State.lane_modLane_other _ _ h]
  · by_cases h : q = p
    · subst h; rw [State.lane_modLane_same]; exact hp hq
    · rw [State.lane_modLane_other _ _ h]; exact ⟨rfl, rfl⟩

theorem Lane.stop_holding (l : Lane) (x : Stop) : (l.stop x).holding = l.holding := by
  unfold Lane.stop; split <;> rfl

theorem Lane.stop_queue (l : Lane) (x : Stop) : (l.stop x).queue = l.queue := by
  unfold Lane.stop; split <;> rfl

theorem State.stopsOn_stopLane (s : State) (p : Nat) (x : Stop) : s.StopsOn A (s.stopLane p x) :=
  State.stopsOn_modLane (fun _ => ⟨Lane.stop_holding _ x, Lane.stop_queue _ x⟩) fun _ hy => Lane.stop_stops_mono hy x

theorem State.stopsOn_spoiled (s : State) (o : Owner) (gone : Bool) : s.StopsOn A (s.spoiled o gone) := by
  refine .of_lanes (s.safeShape_spoiled o gone) (congrArg Link.st (s.spoiled_link o gone)) ?_
  cases o
  case store => rw [State.spoiled, State.modXfer, State.modStream_frame]
  all_goals rfl

theorem State.stopsOn_cutWrites (s : State) (q : Nat) : s.StopsOn A (s.cutWrites q) := by
  unfold State.cutWrites
  dsimp only
  refine State.StopsOn.trans ?_ (.foldl (fun s o => s.stopsOn_spoiled o true) _ _)
  refine State.StopsOn.trans ?_ (.foldl (fun s o => s.stopsOn_spoiled o false) _ _)
  exact .of_lanes rfl rfl rfl

theorem State.stopsOn_enterSafe (s : State) : s.StopsOn A s.enterSafe := by
  unfold State.enterSafe
  split
  · exact .refl s
  · have hcut : s.StopsOn A { s with
        flt := { s.flt with safe := true, hold := s.flt.hold || s.flt.auto }, pins := { s.pins with evOut := 0, trigOut := 0 }
        link := s.link.cutFrame } := .of_lanes rfl s.link.cutFrame_st rfl
    exact (hcut.trans (.foldl State.stopsOn_cutWrites _ _)).trans (.foldl (fun s p => s.stopsOn_stopLane p .safe) _ _)

theorem State.stopsOn_raise (s : State) (b : Burgee) : s.StopsOn A (s.raise b) := by
  unfold State.raise
  dsimp only
  split
  · exact State.StopsOn.trans (t := { s with flt := (s.flt.enter b).note b }) (.of_lanes rfl rfl rfl) (State.stopsOn_enterSafe _)
  · exact .of_lanes rfl rfl rfl

theorem State.stopsOn_delist (s : State) (c : Nat) : s.StopsOn A (s.delist c) := by
  unfold State.delist
  split <;> exact .of_lanes rfl rfl rfl

/-! ### A lane that holds -/

theorem State.stopsOn_failLate (s : State) (p c : Nat) : s.StopsOn A (s.failLate p c) := by
  unfold State.failLate
  split
  · exact (s.stopsOn_modStream _ _).trans ((State.stopsOn_raise _ _).trans (State.stopsOn_stopLane _ _ _))
  · exact .refl s

theorem State.stopsOn_haltBurgee (s : State) (p : Nat) (x : Stop) : s.StopsOn A (s.haltBurgee p x) := by
  unfold State.haltBurgee
  split
  · exact (s.stopsOn_raise _).trans (State.stopsOn_modStream _ _ _)
  · exact (s.stopsOn_raise _).trans (State.stopsOn_modStream _ _ _)
  · exact .refl s

/-- A lane that holds loses no stop, and no other lane changes its queue or its hold. -/
theorem State.stopsOn_holdLane {s : State} {p : Nat} (hp : ¬A p) : s.StopsOn A (s.holdLane p) := by
  refine State.StopsOn.trans ?_ (.foldl (fun s x => s.stopsOn_haltBurgee p x) _ _)
  refine State.StopsOn.trans ?_ (State.stopsOn_modLane (fun h => absurd h hp) fun _ h => h)
  refine State.StopsOn.trans ?_ (.foldl (fun s c => ?_) _ _)
  · refine State.StopsOn.trans ?_ (.foldl (fun s c => s.stopsOn_modStream c _) _ _)
    refine State.StopsOn.trans (.foldl (fun s c => s.stopsOn_failLate p c) (s.laneStreams p) s) ?_
    split
    · exact .foldl (fun s c => s.stopsOn_modStream c _) _ _
    · exact .refl _
  · split
    · split
      · exact s.stopsOn_delist c
      · exact .refl s
    · exact .refl s

/-! ### The lanes of a detach -/

/-- A lane that a detach finds at work is stopped and goes on draining. -/
def State.atWork (s : State) (p : Nat) : Prop := (s.lane p).holding = false ∧ (s.lane p).queue ≠ []

theorem State.stopsOn_detachLane {s : State} {p : Nat} (hp : A p → s.atWork p) : s.StopsOn A (s.detachLane p) := by
  unfold State.detachLane
  dsimp only
  split
  · next hh =>
    refine State.stopsOn_modLane (fun _ => ⟨rfl, rfl⟩) fun x hx => ?_
    exact List.mem_eraseDups.mpr (List.mem_append_left _ hx)
  · split
    · next hq =>
      have hA : ¬A p := fun h => (hp h).2 hq.1
      have hstop : s.StopsOn A (s.stopLane p .fwPause) := s.stopsOn_stopLane p _
      generalize s.stopLane p .fwPause = u at hstop ⊢
      refine (hstop.trans (State.stopsOn_holdLane hA)).trans ?_
      exact State.stopsOn_modLane (fun h => absurd h hA) fun _ h => h
    · exact s.stopsOn_stopLane p _

theorem State.mem_stops_stopLane (s : State) (p : Nat) (x : Stop) : x ∈ ((s.stopLane p x).lane p).stops := by
  rw [State.lane_stopLane_same]
  exact Lane.mem_stop _ x

theorem State.mem_stops_detachLane (s : State) (p : Nat) : Stop.fwPause ∈ ((s.detachLane p).lane p).stops := by
  unfold State.detachLane
  dsimp only
  split
  · rw [State.lane_modLane_same]
    exact List.mem_eraseDups.mpr (List.mem_append_right _ (List.mem_singleton_self _))
  · have hstop : Stop.fwPause ∈ ((s.stopLane p .fwPause).lane p).stops := s.mem_stops_stopLane p _
    generalize s.stopLane p .fwPause = u at hstop
    split
    · rw [State.lane_modLane_same]
      have hold : u.StopsOn (fun _ => False) (u.holdLane p) := State.stopsOn_holdLane id
      exact hold.2.2.1 p _ hstop
    · exact hstop

end

/-- Every lane of a detach has the stop, and the lanes that were at work keep their queue and drain. -/
theorem State.detachLanes_effect (l : List Nat) (s₀ : State) : ∀ s : State, s₀.StopsOn s₀.atWork s →
    s₀.StopsOn s₀.atWork (l.foldl State.detachLane s) ∧
      ∀ p, p ∈ l ∨ Stop.fwPause ∈ (s.lane p).stops → Stop.fwPause ∈ ((l.foldl State.detachLane s).lane p).stops := by
  induction l with
  | nil => exact fun s h => ⟨h, fun p hp => hp.resolve_left List.not_mem_nil⟩
  | cons q l ih =>
    intro s h
    have hstep : s.StopsOn s₀.atWork (s.detachLane q) := State.stopsOn_detachLane fun hq => by
      obtain ⟨h1, h2⟩ := h.2.2.2 q hq
      exact ⟨h1.trans hq.1, by rw [h2]; exact hq.2⟩
    obtain ⟨h1, h2⟩ := ih (s.detachLane q) (h.trans hstep)
    refine ⟨h1, fun p hp => h2 p ?_⟩
    by_cases hpq : p = q
    · subst hpq; exact .inr (s.mem_stops_detachLane p)
    · exact hp.imp (fun h => (List.mem_cons.mp h).resolve_left hpq) fun h => hstep.2.2.1 p _ h

/-! ### The way on -/

theorem State.stopsOn_withhold {A : Nat → Prop} (s : State) (f : TxFrame) : s.StopsOn A (s.withhold f) := by
  unfold State.withhold
  refine State.StopsOn.trans ?_ (.foldl (fun s (o : FrameOwner) => s.stopsOn_modStream o.sctx _) _ _)
  refine State.StopsOn.trans ?_ (State.stopsOn_raise _ _)
  exact .of_lanes rfl rfl rfl

theorem State.stopsOn_pumpN {A : Nat → Prop} (n : Nat) : ∀ s : State, s.StopsOn A (s.pumpN n) := by
  induction n with
  | zero => exact .refl
  | succ n ih =>
    intro s
    unfold State.pumpN
    split
    · exact .refl s
    next f rest _ =>
      split
      · have hrest : s.StopsOn A { s with link := { s.link with waitQ := rest } } := .of_lanes rfl rfl rfl
        generalize { s with link := { s.link with waitQ := rest } } = u at hrest
        refine (hrest.trans ?_).trans (ih _)
        split
        · exact u.stopsOn_withhold f
        · exact .of_lanes rfl rfl rfl
      · exact .refl s

theorem State.stopsOn_closeWrite {A : Nat → Prop} (s : State) : s.StopsOn A s.closeWrite := by
  unfold State.closeWrite
  split
  · exact .refl s
  · next o _ =>
    have hopen : s.StopsOn A { s with link := { s.link with open_ := none, waitQ := s.link.waitQ ++ [o.frame] } } := .of_lanes rfl rfl rfl
    exact hopen.trans (State.stopsOn_pumpN _ _)

theorem State.closeLink_lanes {s : State} (hup : s.link.up = false) : s.closeLink.lanes = s.lanes := by
  have hclose : s.closeLink = { (s.linkBump 10 s.link.unackedAdds).freeBuffer with
      link := { (s.linkBump 10 s.link.unackedAdds).freeBuffer.link with st := 0 } } := by
    have hup' : (s.linkBump 10 s.link.unackedAdds).link.up = false := hup
    simp only [State.closeLink, hup, hup', Bool.false_eq_true, if_false]
  rw [hclose, State.freeBuffer_frame]
  rfl

/-- The journal changes the boot state and firmware's writes alone. -/
theorem State.journal_frame (s : State) (h : HostView) (r : RecBody) :
    s.journal h r = { s with boot := (s.journal h r).boot, fwWrites := (s.journal h r).fwWrites } := by
  have hput : ∀ i b, s.putEntry h i b = { s with boot := (s.putEntry h i b).boot, fwWrites := (s.putEntry h i b).fwWrites } := by
    intro i b
    unfold State.putEntry
    split
    · rfl
    · split <;> rfl
  unfold State.journal
  dsimp only
  split
  · rw [hput]
  · exact hput _ _

theorem State.lanes_records (h : HostView) (l : List Nat) (s : State) : (l.foldl (fun s c => s.record h c) s).lanes = s.lanes :=
  foldl_keeps (fun u : State => u.lanes = s.lanes) _ (fun u c hu => (u.putRecord_shape h c none Stream.positionWords).2.1.trans hu) l s rfl

theorem State.placeHand_lanes (s : State) (r : Reply) : (s.placeHand r).lanes = s.lanes := by
  unfold State.placeHand
  split
  · split
    · dsimp only
      split <;> rfl
    · rfl
  · rfl

theorem State.finishDetach_lanes (s : State) (h : HostView) : (s.finishDetach h).lanes = s.lanes := by
  have hj : ((s.heads.foldl (fun s c => s.record h c) s).journal h ⟨4, 0, 0, 0, 0⟩).lanes = s.lanes := by
    rw [State.journal_frame]
    exact State.lanes_records h _ s
  unfold State.finishDetach
  dsimp only
  split
  · exact (State.placeHand_lanes _ _).trans hj
  · exact hj

/-- The detach goes on with every lane down: no lane loses its stop. -/
theorem State.stops_detachAdvance (s : State) (h : HostView) (p : Nat) {x : Stop} (hx : x ∈ (s.lane p).stops) :
    x ∈ ((s.detachAdvance h).lane p).stops := by
  have hlanes : ∀ {t : State}, t.lanes = s.lanes → x ∈ (t.lane p).stops := fun {t} ht => by
    rw [show t.lane p = s.lane p from congrArg (fun l => Tbl.get Lane.reset l p) ht]
    exact hx
  unfold State.detachAdvance
  split
  · split
    · exact hx
    · split
      · exact (s.stopsOn_closeWrite (A := fun _ => False)).2.2.1 p x hx
      · next hup =>
        refine hlanes ((State.finishDetach_lanes _ h).trans ?_)
        split
        · exact State.closeLink_lanes (by simpa using hup)
        · rfl
  · exact hx

/-- The detach waits while a lane drains, or while the session is open: its mailboxes stand. -/
theorem State.ctl_detachAdvance {s : State} (h : HostView) (hd : s.lanesDown = false ∨ s.link.up = true) : (s.detachAdvance h).ctl = s.ctl := by
  unfold State.detachAdvance
  split
  · split
    · rfl
    · next hdown =>
      rw [if_pos (hd.resolve_left fun h => hdown (by simp [h]))]
      rw [s.safeShape_closeWrite]
  · rfl

/-! ### A block with nothing in progress -/

/-- A lane that holds, with its pause reported. -/
def Lane.down (l : Lane) : Prop := l.holding = true ∧ l.report = []

/-- A lane without streams that holds for firmware's pause alone. -/
theorem State.holdLane_idle {s : State} {p : Nat} (hcs : s.laneStreams p = []) (hf : (s.lane p).freshStops = [.fwPause]) :
    s.holdLane p = s.modLane p fun l => { l with
      draining := false, holding := true, skip := none, xst := holdXst l.stops l.xst
      report := l.report ++ [.held .fwPause [] (s.lane p).resp (s.lane p).reason (s.lane p).errAddr], reported := l.stops, beats := s.laneBeats p } := by
  have hrep : s.holdReports p [] [.fwPause] = [.held .fwPause [] (s.lane p).resp (s.lane p).reason (s.lane p).errAddr] := by
    simp [State.holdReports]
  have hsafe : ([Stop.fwPause].contains Stop.safe) = false := by decide
  unfold State.holdLane
  rw [hcs]
  simp only [List.foldl_nil, hf, hsafe, Bool.false_eq_true, if_false, hrep]
  rfl

theorem State.laneStreams_idle {s : State} {p : Nat} (hq : (s.lane p).queue = []) (hs : s.fw.streams = []) : s.laneStreams p = [] := by
  simp [State.laneStreams, hq, hs]

/-- A lane without work holds at once, and its pause needs no report. -/
theorem State.detachLane_idle {s : State} {p : Nat} (hl : s.lane p = Lane.reset) (hp : s.ports = []) (hs : s.fw.streams = []) (hr : s.link.reads = []) :
    (s.detachLane p) = { s with lanes := (s.detachLane p).lanes } ∧ ((s.detachLane p).lane p).down ∧
      ∀ q, q ≠ p → (s.detachLane p).lane q = s.lane q := by
  have hstop : (s.stopLane p .fwPause).lane p = Lane.reset.stop .fwPause := by rw [State.lane_stopLane_same, hl]
  have hcs : (s.stopLane p .fwPause).laneStreams p = [] := State.laneStreams_idle (by rw [hstop]; rfl) hs
  have hquiet : (s.stopLane p .fwPause).laneQuiet p = true := by
    have hports : (s.stopLane p .fwPause).ports = [] := hp
    have hreads : (s.stopLane p .fwPause).link.reads = [] := hr
    unfold State.laneQuiet
    rw [hcs, hstop, hports, hreads]
    rfl
  have hhold := State.holdLane_idle hcs (by rw [hstop]; rfl)
  obtain ⟨f, hf, hdet⟩ : ∃ f : LaneReport → Bool, (∀ a b c d, f (.held .fwPause a b c d) = false) ∧
      s.detachLane p = ((s.stopLane p .fwPause).holdLane p).modLane p fun l => { l with report := l.report.filter f } := by
    unfold State.detachLane
    dsimp only
    rw [if_neg (by rw [hl]; decide), if_pos ⟨by rw [hl]; rfl, hquiet⟩]
    exact ⟨_, fun _ _ _ _ => rfl, rfl⟩
  rw [hdet, hhold]
  refine ⟨rfl, ?_, fun q hq => ?_⟩
  · rw [State.lane_modLane_same, State.lane_modLane_same, hstop]
    refine ⟨rfl, ?_⟩
    show List.filter f ([] ++ [_]) = []
    rw [List.nil_append, List.filter_cons_of_neg (by rw [hf]; exact Bool.false_ne_true), List.filter_nil]
  · rw [State.lane_modLane_other _ _ hq, State.lane_modLane_other _ _ hq, State.lane_stopLane_other _ _ hq]

/-- A lane that holds already takes the pause and stays down. -/
theorem State.detachLane_down {s : State} {p : Nat} (hl : (s.lane p).down) : (s.detachLane p) = { s with lanes := (s.detachLane p).lanes } ∧
    ((s.detachLane p).lane p).down ∧ ∀ q, q ≠ p → (s.detachLane p).lane q = s.lane q := by
  obtain ⟨h1, h2⟩ := hl
  unfold State.detachLane
  dsimp only
  rw [if_pos h1]
  refine ⟨rfl, ?_, fun q hq => State.lane_modLane_other _ _ hq⟩
  rw [State.lane_modLane_same]
  exact ⟨h1, h2⟩

/-- Every lane of a list goes down when none has work. -/
theorem State.detachLanes_idle {s₀ : State} (hp : s₀.ports = []) (hs : s₀.fw.streams = []) (hr : s₀.link.reads = []) (l : List Nat) : ∀ s : State,
    s = { s₀ with lanes := s.lanes } → (∀ p, s.lane p = Lane.reset ∨ (s.lane p).down) →
    l.foldl State.detachLane s = { s₀ with lanes := (l.foldl State.detachLane s).lanes } ∧
      ∀ p, p ∈ l ∨ (s.lane p).down → ((l.foldl State.detachLane s).lane p).down := by
  induction l with
  | nil => exact fun s h _ => ⟨h, fun p hp => hp.resolve_left List.not_mem_nil⟩
  | cons q l ih =>
    intro s h hall
    have hstep : (s.detachLane q) = { s with lanes := (s.detachLane q).lanes } ∧ ((s.detachLane q).lane q).down ∧
        ∀ p, p ≠ q → (s.detachLane q).lane p = s.lane p := (hall q).elim
      (fun hq => State.detachLane_idle hq (by rw [h]; exact hp) (by rw [h]; exact hs) (by rw [h]; exact hr)) State.detachLane_down
    obtain ⟨h1, h2, h3⟩ := hstep
    obtain ⟨k1, k2⟩ := ih (s.detachLane q) (by rw [h1, h]) fun p => by
      by_cases hpq : p = q
      · subst hpq; exact .inr h2
      · rw [h3 p hpq]; exact hall p
    refine ⟨k1, fun p hp => k2 p ?_⟩
    by_cases hpq : p = q
    · subst hpq; exact .inr h2
    · exact hp.imp (fun h => (List.mem_cons.mp h).resolve_left hpq) fun h => by rw [h3 p hpq]; exact h

theorem State.lanesDown_of {s : State} (h : ∀ p ∈ s.build.cfg.physLanes, (s.lane p).down) : s.lanesDown = true := by
  refine List.all_eq_true.mpr fun p hp => ?_
  obtain ⟨h1, h2⟩ := h p hp
  rw [h1, h2]
  rfl

/-- A detach that waits for nothing places its reply and ends. -/
theorem State.detachAdvance_ends {s : State} {h : HostView} {t c : BitVec 16} {m : Nat} (hh : s.ctl.hand = some (.waiting t c .detach)) (hc : c = 0x11)
    (hd : s.lanesDown = true) (hst : s.link.st = 0) (hs : s.fw.streams = []) (hq : s.quiet = true) (hm : s.ctl.freeReply = some m) :
    s.detachAdvance h = State.quiesce { s.journal h ⟨4, 0, 0, 0, 0⟩ with
      ctl := { s.ctl.putReply m (messageWords t.toNat c.toNat 0 []) with hand := none } } := by
  have hup : s.link.up = false := by
    rw [← Bool.not_eq_true, Link.up_iff, hst]; decide
  have hheads : s.heads = [] := by simp [State.heads, hs]
  have hadv : s.detachAdvance h = s.finishDetach h := by
    unfold State.detachAdvance
    rw [hh]
    dsimp only
    rw [if_neg (by simp [hd]), if_neg (by simp [hup]), if_neg (by rw [hst]; decide)]
  have hfin : s.finishDetach h = (s.journal h ⟨4, 0, 0, 0, 0⟩).placeHand ⟨t, c, 0, []⟩ := by
    have hj : (s.journal h ⟨4, 0, 0, 0, 0⟩).ctl.hand = some (.waiting t c .detach) := by rw [State.journal_frame]; exact hh
    unfold State.finishDetach
    rw [hheads]
    simp only [List.foldl_nil, hj]
  have hctl : (s.journal h ⟨4, 0, 0, 0, 0⟩).ctl = s.ctl := by rw [State.journal_frame]
  have hq' : (s.journal h ⟨4, 0, 0, 0, 0⟩).quiet = true := by rw [State.journal_frame]; exact hq
  rw [hadv, hfin, State.placeHand_detach hc rfl hq' (by rw [hctl]; exact hm), hctl]

/-- The state of a detach that waits, with the reply's token and code. -/
def State.detaching (w : State) (t c : BitVec 16) : State := { w with ctl := { w.ctl with hand := some (.waiting t c .detach) } }

theorem exec_detach {h : HostView} {s : State} {n : Nat} {rest : List Nat} {m : Nat} (hh : s.hears n rest 0x11 m) :
    exec (.detach h) s = .next (s.keep (((s.build.cfg.physLanes.foldl State.detachLane (s.taken n rest)).detaching
      (BitVec.ofNat 16 (bits (s.ctl.cmdWord n 0) 31 16)) 0x11).detachAdvance h)) := by
  have hexec : exec (.detach h) s = .next (s.keep ((serve 0x11 anyVariant detachBody s).detachAdvance h)) :=
    (running_works _ hh.1 : execDetach h s = _)
  rw [hexec, serve_waits (op := 0x11) (mine := anyVariant) (body := detachBody) hh rfl rfl]
  rfl

/-- Settles O41: the lanes that have work drain, and without any the reply is placed at once. -/
theorem detaches : Obligations.Detaches := by
  intro h s n rest m hh
  rw [exec_detach hh]
  refine ⟨?_, fun hl hp hs hr hst htx hsend htxq hack => ?_⟩
  · obtain ⟨hon, hstops⟩ := State.detachLanes_effect s.build.cfg.physLanes (s.taken n rest) (s.taken n rest) (.refl _)
    generalize s.build.cfg.physLanes.foldl State.detachLane (s.taken n rest) = w at hon hstops ⊢
    obtain ⟨hshape, hwst, _, hwork⟩ := hon
    have hbuild : w.build = s.build := by rw [hshape]; rfl
    have hready : w.ctl.fwReady = true := by rw [hshape]; exact hh.2.1
    generalize BitVec.ofNat 16 (bits (s.ctl.cmdWord n 0) 31 16) = t
    have hwait : (w.detaching t 0x11).lanesDown = false ∨ (w.detaching t 0x11).link.up = true →
        ((w.detaching t 0x11).detachAdvance h).ctl.fwReady = true ∧
          ((w.detaching t 0x11).detachAdvance h).ctl.hand = some (.waiting t 0x11 .detach) := fun hd => by
      rw [State.ctl_detachAdvance h hd]
      exact ⟨hready, rfl⟩
    refine ⟨_, rfl, fun p hp => State.stops_detachAdvance _ h p (hstops p (.inl hp)), fun p hp hhold hq => hwait (.inl ?_), fun hup => hwait (.inr ?_)⟩
    · obtain ⟨h1, _⟩ := hwork p ⟨hhold, hq⟩
      refine List.all_eq_false.mpr ⟨p, by show p ∈ w.build.cfg.physLanes; rw [hbuild]; exact hp, ?_⟩
      have hlane : ((w.detaching t 0x11).lane p).holding = false := h1.trans hhold
      rw [hlane]
      exact Bool.false_ne_true
    · rw [Link.up_iff] at hup ⊢
      have hwst' : w.link.st = s.link.st := hwst
      show w.link.st = 2 ∨ w.link.st = 3
      rwa [hwst']
  · have hreset : ∀ p, (s.taken n rest).lane p = Lane.reset := fun p => by
      show Tbl.get Lane.reset s.lanes p = _
      rw [hl]; rfl
    obtain ⟨hw, hdown⟩ := State.detachLanes_idle (s₀ := s.taken n rest) hp hs hr s.build.cfg.physLanes (s.taken n rest) rfl fun p => .inl (hreset p)
    generalize s.build.cfg.physLanes.foldl State.detachLane (s.taken n rest) = w at hw hdown ⊢
    generalize BitVec.ofNat 16 (bits (s.ctl.cmdWord n 0) 31 16) = t
    have hfree : (w.detaching t 0x11).ctl.freeReply = some m := by rw [hw]; exact hh.2.2.2.2.2.2
    have hquiet : (w.detaching t 0x11).quiet = true := by
      rw [hw]
      have hquiet : s.quiet = true := by simp [State.quiet, State.portsQuiet, hp, htx, hsend, htxq, hack]
      exact hquiet
    have hdn : (w.detaching t 0x11).lanesDown = true := State.lanesDown_of fun p hp => hdown p (.inl (by
      have hb : w.build = s.build := by rw [hw]; rfl
      rw [← hb]; exact hp))
    rw [State.detachAdvance_ends rfl rfl hdn (by rw [hw]; exact hst) (by rw [hw]; exact hs) hquiet hfree]
    have hfull := Ctl.getLsbD_rplFull_putReply (c := (w.detaching t 0x11).ctl) (Ctl.freeReply_lt hfree)
      (messageWords t.toNat (0x11 : BitVec 16).toNat 0 [])
    have hwp : w.plate = s.plate := by rw [hw]; rfl
    have hwh : w.hal = s.hal := by rw [hw]; rfl
    have hplate : ((w.detaching t 0x11).journal h ⟨4, 0, 0, 0, 0⟩).plate = w.plate := by rw [State.journal_frame]; rfl
    have hhal : ((w.detaching t 0x11).journal h ⟨4, 0, 0, 0, 0⟩).hal = w.hal := by rw [State.journal_frame]; rfl
    exact ⟨_, rfl, rfl, rfl, rfl, rfl, hfull, hplate.trans hwp, hhal.trans hwh⟩

end Sys2Proof.Machine
end

section
/-! SUPPORT. What the safe state sets (R332, R333, R335), and fault injection (R335, R337, R341, R348). -/
namespace Sys2Proof.Machine

/-! ### Entry to the safe state -/

/-- `t` has the collector and the pins of `s`. -/
def State.SamePins (s t : State) : Prop := t.flt = s.flt ∧ t.pins = s.pins

theorem State.SamePins.refl (s : State) : s.SamePins s := ⟨rfl, rfl⟩

theorem State.SamePins.trans {s t u : State} (h : s.SamePins t) (k : t.SamePins u) : s.SamePins u :=
  ⟨k.1.trans h.1, k.2.trans h.2⟩

theorem State.SamePins.foldl {α : Type} {f : State → α → State} (hf : ∀ (s : State) a, s.SamePins (f s a)) (l : List α) (s : State) :
    s.SamePins (l.foldl f s) :=
  foldl_keeps (fun u => s.SamePins u) f (fun u a hu => hu.trans (hf u a)) l s (.refl s)

theorem State.samePins_modStream (s : State) (c : Nat) (f : Stream → Stream) : s.SamePins (s.modStream c f) := by
  rw [State.modStream_frame]; exact ⟨rfl, rfl⟩

theorem State.samePins_spoiled (s : State) (o : Owner) (gone : Bool) : s.SamePins (s.spoiled o gone) := by
  cases o
  case store => exact s.samePins_modStream _ _
  all_goals exact .refl s

theorem State.samePins_cutWrites (s : State) (q : Nat) : s.SamePins (s.cutWrites q) := by
  unfold State.cutWrites
  dsimp only
  refine State.SamePins.trans ?_ (.foldl (fun s o => s.samePins_spoiled o true) _ _)
  refine State.SamePins.trans ?_ (.foldl (fun s o => s.samePins_spoiled o false) _ _)
  exact ⟨rfl, rfl⟩

theorem State.samePins_stopLane (s : State) (p : Nat) (x : Stop) : s.SamePins (s.stopLane p x) := ⟨rfl, rfl⟩

/-- Entry to the safe state lowers the event and trigger outputs and sets `HOLD` when `AUTO` asks for it. -/
theorem State.enterSafe_sets {s : State} (h : s.flt.safe = false) :
    s.enterSafe.flt = { s.flt with safe := true, hold := s.flt.hold || s.flt.auto } ∧ s.enterSafe.pins = { s.pins with evOut := 0, trigOut := 0 } := by
  unfold State.enterSafe
  rw [if_neg (by rw [h]; exact Bool.false_ne_true)]
  have hcut := State.SamePins.foldl State.samePins_cutWrites (List.range s.build.cfg.ports) { s with
    flt := { s.flt with safe := true, hold := s.flt.hold || s.flt.auto }, pins := { s.pins with evOut := 0, trigOut := 0 }, link := s.link.cutFrame }
  exact hcut.trans (.foldl (fun s p => s.samePins_stopLane p .safe) _ _)

theorem State.enterSafe_in {s : State} (h : s.flt.safe = true) : s.enterSafe = s := by
  unfold State.enterSafe
  rw [if_pos h]

theorem State.enterSafe_safe (s : State) : s.enterSafe.flt.safe = true := by
  cases h : s.flt.safe
  · rw [(State.enterSafe_sets h).1]
  · rw [State.enterSafe_in h, h]

/-! ### Fault injection -/

theorem exec_testUnlock {s : State} (w : Word) (hs : s.works) : exec (.testUnlock w) s = .next (s.keep (s.testUnlock w)) :=
  (running_works _ hs : execTestUnlock w s = _)

theorem exec_injGo {s : State} (w : Word) (hs : s.works) : exec (.injGo w) s = .next (s.keep (s.injGo w)) :=
  (running_works _ hs : execInjGo w s = _)

theorem State.injGo_shut {s : State} (w : Word) (ht : s.life.testSampled = true) (h : s.flt.inj = false ∨ w.getLsbD 0 = false) :
    s.injGo w = { s with flt := { s.flt with unlock := 0 } } := by
  unfold State.injGo
  rw [if_pos ht]
  exact if_neg fun ⟨_, h1, h2⟩ => h.elim (fun h => Bool.false_ne_true (h.symm.trans h1)) fun h => Bool.false_ne_true (h.symm.trans h2)

theorem State.injGo_open {s : State} {w : Word} (ht : s.life.testSampled = true) (hi : s.flt.inj = true) (hw : w.getLsbD 0 = true) :
    s.injGo w = ({ s with flt := { s.flt with unlock := 0 } } : State).inject := by
  unfold State.injGo
  rw [if_pos ht]
  exact if_pos ⟨ht, hi, hw⟩

/-- One injection: the selected site is spoiled, or its kind is raised. -/
theorem exec_injGo_site {s t : State} {w : Word} (hs : s.works) (ht : t = { s with flt := { s.flt with unlock := 0 } }) (hts : s.life.testSampled = true)
    (hi : s.flt.inj = true) (hw : w.getLsbD 0 = true) {u : State} (hu : t.inject = u) (hk : s.ShellKept u) : exec (.injGo w) s = .next u := by
  rw [exec_injGo w hs, State.injGo_open hts hi hw, ← ht, hu, hk]

/-- A fault that the collector finds of itself, with no Burgee on its way. -/
theorem exec_selfFault {s : State} (hs : s.works) (parity differ : Bool) (h : HostView) :
    exec (.burgee [] (some (.collector parity differ)) h) s = .next (s.keep (s.selfFault parity differ)) :=
  (running_works _ hs : execBurgee [] (some (.collector parity differ)) h s = _)

theorem exec_selfClear {s : State} (hs : s.works) : exec .selfClear s = .next (s.keep s.selfClear) :=
  (running_works _ hs : execSelfClear s = _)

theorem exec_teconWdog {s : State} (write : Option Word) (hs : s.works) : exec (.teconWdog write) s = .next (s.keep (s.monitor write)) :=
  (running_works _ hs : execTeconWdog write s = _)

/-- Settles O43: the cases of `testUnlock`, of `inject`, of `selfFault`, `selfClear` and `monitor`. -/
theorem faultInjection : Obligations.FaultInjection := by
  intro s t w h hs ht
  refine ⟨fun hoff => ⟨?_, ?_⟩, fun hon => ⟨fun hk hn => ?_, fun hw hn => ?_, fun hk => ?_, fun hshut => ?_, fun hi hw site unit hsite hunit => ?sites⟩,
    fun parity differ hpd => ?self, fun hf => ?_, fun hf => ?_, ?_, ?_, ?_, fun hw => ?_⟩
  · rw [exec_testUnlock w hs, State.testUnlock, if_pos (by simp [hoff])]; rfl
  · rw [exec_injGo w hs, State.injGo, if_neg (by simp [hoff]), if_neg (by simp [hoff])]; rfl
  · rw [exec_testUnlock w hs, State.testUnlock, if_neg (by simp [hon]), if_pos hk, if_neg (by omega)]; rfl
  · subst hw
    rw [exec_testUnlock _ hs, State.testUnlock, if_neg (by simp [hon]), if_pos (by rw [hn]; decide), if_pos hn]; rfl
  · rw [exec_testUnlock w hs, State.testUnlock, if_neg (by simp [hon]), if_neg hk]; exact ⟨_, rfl⟩
  · rw [exec_injGo w hs, State.injGo_shut w hon hshut, ht]; rfl
  case sites =>
    subst ht hsite hunit
    have go : ∀ {u : State}, State.inject _ = u → s.ShellKept u → exec (.injGo w) s = .next u := exec_injGo_site (s := s) hs rfl hon hi hw
    have hraise : ∀ (u : State) b, s.ShellKept u → s.ShellKept (u.raise b) := fun u b hu => hu.trans (u.shellKept_raise b)
    refine ⟨fun e => go ?_ rfl, fun e => go ?_ rfl, fun e => go ?_ rfl, fun e => go ?_ rfl, fun e => go ?_ (hraise _ _ rfl),
      fun e => go ?_ (hraise _ _ rfl), fun e => go ?_ (hraise _ _ rfl), fun e => go ?_ rfl, fun e => go ?_ rfl⟩ <;>
      simp only [State.inject, e]
  case self =>
    rw [exec_selfFault hs, State.selfFault, if_pos hpd]
    have hself : (s.flt.selfF || parity || differ) = true := by rw [Bool.or_assoc, hpd, Bool.or_true]
    generalize hv : ({ s with flt := { s.flt with selfF := s.flt.selfF || parity || differ, copiesDiffer := differ } } : State) = v
    have hf : v.flt = { s.flt with selfF := s.flt.selfF || parity || differ, copiesDiffer := differ } := by rw [← hv]
    have hp : v.pins = s.pins := by rw [← hv]
    have hkeep : s.keep v.enterSafe = v.enterSafe := State.ShellKept.trans (by rw [← hv]; rfl) v.shellKept_enterSafe
    rw [hkeep]
    refine ⟨_, rfl, v.enterSafe_safe, ?_⟩
    cases hsafe : s.flt.safe
    · obtain ⟨h1, h2⟩ := State.enterSafe_sets (s := v) (by rw [hf]; exact hsafe)
      rw [h1, h2, hf]
      exact ⟨hself, rfl, rfl, rfl, fun _ => ⟨rfl, rfl⟩⟩
    · rw [State.enterSafe_in (s := v) (by rw [hf]; exact hsafe), hf]
      exact ⟨hself, rfl, rfl, rfl, fun h => nomatch h⟩
  · rw [exec_selfClear hs, State.selfClear, if_neg (by simp [hf])]; rfl
  · rw [exec_selfClear hs, State.selfClear, if_pos hf]; rfl
  · exact (running_works _ hs : execFaultPinTimer s = _)
  · rw [exec_teconWdog none hs, State.monitor, s.shellKept_raise]
  · rw [exec_teconWdog _ hs, State.monitor, if_pos rfl]; rfl
  · rw [exec_teconWdog _ hs, State.monitor, if_neg hw, s.shellKept_raise]

end Sys2Proof.Machine
end

section
/-! SUPPORT. The collector takes a Burgee, and what firmware does then (R40, R326-R328, R332, R333, R335, R339). -/
namespace Sys2Proof.Machine

/-! ### The crossings -/

theorem State.arrive_none (doms : List Dom) (s : State) (h : ∀ d ∈ doms, Tbl.get [] s.flt.cross d.num = []) : s.arrive doms = (s, []) := by
  unfold State.arrive
  induction doms with
  | nil => rfl
  | cons d doms ih =>
    have hpop : s.flt.pop d.num = none := by unfold Flt.pop; rw [h d (List.mem_cons_self ..)]
    rw [List.foldl_cons]
    dsimp only
    rw [hpop]
    exact ih fun e he => h e (List.mem_cons_of_mem _ he)

theorem State.arrive_one {s : State} {d : Dom} {b : Burgee} {f : Flt} (h : s.flt.pop d.num = some (b, f)) : s.arrive [d] = ({ s with flt := f }, [b]) := by
  unfold State.arrive
  rw [List.foldl_cons, List.foldl_nil]
  dsimp only
  rw [h]
  rfl

/-- Taking a Burgee from a crossing changes the crossings and what their sources hold. -/
theorem Flt.pop_frame {f g : Flt} {d : Nat} {b : Burgee} (h : f.pop d = some (b, g)) : g = { f with cross := g.cross, held := g.held } := by
  have hrefill : ∀ (f : Flt) (d : Nat), f.refill d = { f with cross := (f.refill d).cross, held := (f.refill d).held } := by
    intro f d
    unfold Flt.refill
    dsimp only
    split <;> rfl
  unfold Flt.pop at h
  split at h
  · cases h
    rw [hrefill]
  · cases h

/-! ### A Burgee is raised -/

/-- Raising a Burgee: it enters its crossing or is held by its source, and the collector's level acts (R333). -/
theorem Flt.enter_note (f : Flt) (b : Burgee) :
    (f.enter b).note b = { f with
      cross := ((f.enter b).note b).cross, held := ((f.enter b).note b).held, pulse := f.pulse || decide (kindSev b.kind ≥ 2)
      fatal := f.fatal || decide (kindSev b.kind = 3), causes := ((f.enter b).note b).causes } ∧
    (crossRoom b.dom b.kind (Tbl.get [] f.cross b.dom).length = true →
      ((f.enter b).note b).cross = Tbl.put b.dom (Tbl.get [] f.cross b.dom ++ [b]) f.cross ∧ ((f.enter b).note b).held = f.held) ∧
    (crossRoom b.dom b.kind (Tbl.get [] f.cross b.dom).length = false →
      ((f.enter b).note b).cross = f.cross ∧ ((f.enter b).note b).held = Tbl.put b.dom (Tbl.get [] f.held b.dom ++ [b]) f.held) := by
  unfold Flt.enter
  dsimp only
  split
  · next h => exact ⟨rfl, fun _ => ⟨rfl, rfl⟩, fun h' => Bool.noConfusion (h.symm.trans h')⟩
  · next h => exact ⟨rfl, fun h' => absurd h' h, fun _ => ⟨rfl, rfl⟩⟩

/-- A raised Burgee of severity 2 or 3: the safe state, the pulse, the outputs low. -/
theorem State.raise_high {s : State} {b : Burgee} (h : 2 ≤ kindSev b.kind) : s.raise b = ({ s with flt := (s.flt.enter b).note b } : State).enterSafe := by
  unfold State.raise
  rw [if_pos h]

theorem State.lanes_modStream (s : State) (c : Nat) (f : Stream → Stream) : (s.modStream c f).lanes = s.lanes := by
  rw [State.modStream_frame]

theorem State.lanes_cutWrites (s : State) (q : Nat) : (s.cutWrites q).lanes = s.lanes := by
  have hspoil : ∀ (b : Bool) (l : List Owner) (t : State), (l.foldl (fun s o => s.spoiled o b) t).lanes = t.lanes := fun b l t =>
    foldl_keeps (fun u : State => u.lanes = t.lanes) _ (fun u o hu => by
      refine Eq.trans ?_ hu
      cases o
      case store => exact State.lanes_modStream _ _ _
      all_goals rfl) l t rfl
  unfold State.cutWrites
  dsimp only
  rw [hspoil, hspoil]
  rfl

/-- Entry to the safe state stops every lane that has work (R334). -/
theorem State.enterSafe_stops {s : State} (h : s.flt.safe = false) {p : Nat} (hp : p ∈ s.build.cfg.physLanes) (hq : (s.lane p).queue ≠ []) :
    Stop.safe ∈ (s.enterSafe.lane p).stops := by
  unfold State.enterSafe
  rw [if_neg (by rw [h]; exact Bool.false_ne_true)]
  dsimp only
  generalize hv : ({ s with
      flt := { s.flt with safe := true, hold := s.flt.hold || s.flt.auto }, pins := { s.pins with evOut := 0, trigOut := 0 }
      link := s.link.cutFrame } : State) = v
  have hbuild : ((List.range s.build.cfg.ports).foldl State.cutWrites v).build = s.build :=
    foldl_keeps (fun u : State => u.build = s.build) _ (fun u q hu => (congrArg State.build (u.safeShape_cutWrites q)).trans hu) _ _ (by rw [← hv])
  have hlanes : ((List.range s.build.cfg.ports).foldl State.cutWrites v).lanes = s.lanes :=
    foldl_keeps (fun u : State => u.lanes = s.lanes) _ (fun u q hu => (u.lanes_cutWrites q).trans hu) _ _ (by rw [← hv])
  refine State.mem_stops_stopLanes _ _ (.inl (List.mem_filter.mpr ⟨by rw [hbuild]; exact hp, decide_eq_true ?_⟩))
  rwa [show ((List.range s.build.cfg.ports).foldl State.cutWrites v).lane p = s.lane p from congrArg (fun l => Tbl.get Lane.reset l p) hlanes]

/-- What raising a Burgee sets of the collector, the pins and the lanes (R332, R333, R335). -/
theorem State.raise_effect (s : State) (b : Burgee) :
    (s.raise b).flt.cross = (s.flt.enter b).cross ∧ (s.raise b).flt.held = (s.flt.enter b).held ∧ (s.raise b).flt.hist = s.flt.hist ∧
    (kindSev b.kind < 2 → (s.raise b).flt.safe = s.flt.safe ∧ (s.raise b).flt.pulse = s.flt.pulse ∧ (s.raise b).pins = s.pins ∧
      (s.raise b).lanes = s.lanes) ∧
    (2 ≤ kindSev b.kind → (s.raise b).flt.safe = true ∧ (s.raise b).flt.pulse = true) ∧
    (2 ≤ kindSev b.kind → s.flt.safe = false → (s.raise b).pins.evOut = 0 ∧ (s.raise b).pins.trigOut = 0 ∧
      (s.raise b).flt.hold = (s.flt.hold || s.flt.auto) ∧
      ∀ p ∈ s.build.cfg.physLanes, (s.lane p).queue ≠ [] → Stop.safe ∈ ((s.raise b).lane p).stops) := by
  obtain ⟨hg, _⟩ := Flt.enter_note s.flt b
  have hcross : ((s.flt.enter b).note b).cross = (s.flt.enter b).cross := rfl
  have hheld : ((s.flt.enter b).note b).held = (s.flt.enter b).held := rfl
  by_cases hsev : 2 ≤ kindSev b.kind
  · have hpulse : ((s.flt.enter b).note b).pulse = true := by rw [hg]; simp [hsev]
    rw [State.raise_high hsev]
    generalize (s.flt.enter b).note b = g at hg hcross hheld hpulse
    have hsafe : g.safe = s.flt.safe := by rw [hg]
    have hhist : g.hist = s.flt.hist := by rw [hg]
    have hhold : (g.hold || g.auto) = (s.flt.hold || s.flt.auto) := by rw [hg]
    generalize hv : ({ s with flt := g } : State) = v
    have hvf : v.flt = g := by rw [← hv]
    have hvl : v.lanes = s.lanes ∧ v.build = s.build := by rw [← hv]; exact ⟨rfl, rfl⟩
    have hkeep : v.enterSafe.flt.cross = g.cross ∧ v.enterSafe.flt.held = g.held ∧ v.enterSafe.flt.hist = g.hist ∧ v.enterSafe.flt.pulse = g.pulse := by
      cases hs : s.flt.safe
      · obtain ⟨h1, _⟩ := State.enterSafe_sets (s := v) (by rw [hvf, hsafe, hs])
        rw [h1, hvf]; exact ⟨rfl, rfl, rfl, rfl⟩
      · rw [State.enterSafe_in (s := v) (by rw [hvf, hsafe, hs]), hvf]; exact ⟨rfl, rfl, rfl, rfl⟩
    obtain ⟨k1, k2, k3, k4⟩ := hkeep
    refine ⟨k1.trans hcross, k2.trans hheld, k3.trans hhist, fun h => absurd h (by omega), fun _ => ⟨v.enterSafe_safe, k4.trans hpulse⟩,
      fun _ hs => ?_⟩
    have hvs : v.flt.safe = false := by rw [hvf, hsafe, hs]
    obtain ⟨h1, h2⟩ := State.enterSafe_sets hvs
    rw [h1, h2, hvf]
    refine ⟨rfl, rfl, hhold, fun p hp hq => State.enterSafe_stops hvs (by rw [hvl.2]; exact hp) ?_⟩
    rwa [show v.lane p = s.lane p from congrArg (fun l => Tbl.get Lane.reset l p) hvl.1]
  · have hpulse : ((s.flt.enter b).note b).pulse = s.flt.pulse := by rw [hg]; simp [hsev]
    rw [State.raise_low s b (by omega)]
    exact ⟨hcross, hheld, by rw [hg], fun _ => ⟨by rw [hg], hpulse, rfl, rfl⟩, fun h => absurd h hsev, fun h => absurd h hsev⟩

/-! ### A Burgee reaches the collector -/

/-- The collector counts a Burgee, writes it into the history, and keeps the first that is uncorrected or fatal. -/
theorem State.collectAll_one (s : State) (b : Burgee) : s.collectAll [b] = s.collect b (decide (2 ≤ kindSev b.kind)) := by
  unfold State.collectAll
  by_cases h : 2 ≤ kindSev b.kind <;> simp [h]

/-- The count of a severity (Table FAULT-5). -/
theorem Flt.tally_eq (f : Flt) (k : Nat) : f.tally k = { f with
    ce := if k = 0 then BitVec.ofNat 32 (satAdd32 f.ce.toNat 1) else f.ce, de := if k = 1 then BitVec.ofNat 32 (satAdd32 f.de.toNat 1) else f.de
    ue := if 2 ≤ k then BitVec.ofNat 32 (satAdd32 f.ue.toNat 1) else f.ue } := by
  match k with
  | 0 => rfl
  | 1 => rfl
  | k + 2 => simp [Flt.tally]

/-- What the collector records of a Burgee that reaches it. -/
def Flt.Recorded (s : State) (b : Burgee) (f g : Flt) : Prop :=
  g = { f with
    hist := g.hist, seq := g.seq, recent := g.recent
    ce := if kindSev b.kind = 0 then BitVec.ofNat 32 (satAdd32 f.ce.toNat 1) else f.ce
    de := if kindSev b.kind = 1 then BitVec.ofNat 32 (satAdd32 f.de.toNat 1) else f.de
    ue := if 2 ≤ kindSev b.kind then BitVec.ofNat 32 (satAdd32 f.ue.toNat 1) else f.ue
    first := if 2 ≤ kindSev b.kind then BitVec.ofNat 64 b.word else f.first } ∧
  (s.entersHistory b = true → g.seq = f.seq + 1 ∧ Tbl.find g.hist (f.seq.toNat % 16) = some ⟨BitVec.ofNat 64 b.word, s.time.ns⟩) ∧
  (s.entersHistory b = false → g.seq = f.seq ∧ g.hist = f.hist)

theorem State.collect_effect (s : State) (b : Burgee) : s.collect b (decide (2 ≤ kindSev b.kind)) =
    { s with flt := (s.collect b (decide (2 ≤ kindSev b.kind))).flt } ∧ Flt.Recorded s b s.flt (s.collect b (decide (2 ≤ kindSev b.kind))).flt := by
  unfold State.collect
  dsimp only
  rw [Flt.tally_eq]
  cases hh : s.entersHistory b
  · refine ⟨rfl, ?_, fun h => absurd (hh.symm.trans h) Bool.false_ne_true, fun _ => ?_⟩ <;> by_cases h2 : 2 ≤ kindSev b.kind <;> simp [h2]
  · refine ⟨rfl, ?_, fun _ => ?_, fun h => absurd (h.symm.trans hh) Bool.false_ne_true⟩ <;> by_cases h2 : 2 ≤ kindSev b.kind <;> 
      simp [h2, State.logBurgee, Tbl.find_put_same]

/-! ### What firmware does then -/

/-- `t` differs from `s` at most in the replies, firmware's objects, the lanes and the collector's list of work. -/
def State.ActShape (s t : State) : Prop :=
  t = { s with ctl := t.ctl, fw := t.fw, lanes := t.lanes, flt := { s.flt with recov := t.flt.recov, todo := t.flt.todo, laneTimes := t.flt.laneTimes } }

theorem State.rereadProgram_frame (s : State) (h : HostView) (key : Nat) (only : Bool) :
    s.rereadProgram h key only = { s with fw := { s.fw with programs := (s.rereadProgram h key only).fw.programs } } := by
  unfold State.rereadProgram
  split
  · rfl
  · refine foldl_keeps (fun u : State => u = { s with fw := { s.fw with programs := u.fw.programs } }) _ (fun u c hu => ?_) _ _ rfl
    unfold State.reloadCell
    split
    · exact hu
    · dsimp only
      split
      · exact hu
      · rw [hu]

theorem State.reloadProgram_frame (s : State) (h : HostView) (c : Nat) :
    s.reloadProgram h c = { s with fw := { s.fw with programs := (s.reloadProgram h c).fw.programs } } := by
  unfold State.reloadProgram
  split
  · exact s.rereadProgram_frame h _ _
  · rfl

theorem State.reloadBook_frame (s : State) (h : HostView) (k : Nat) :
    s.reloadBook h k = { s with fw := { s.fw with books := (s.reloadBook h k).fw.books } } := by
  unfold State.reloadBook
  split
  · split <;> rfl
  · rfl

section
variable {s : State} {b : Burgee} (h : HostView)

theorem State.firmwareAction_off (hm : s.manages = false) : s.firmwareAction h b = s := by
  unfold State.firmwareAction
  rw [if_pos]
  unfold State.manages at hm
  revert hm
  cases s.boot.done <;> cases s.life.halted <;> simp

theorem State.manages_guard (hm : s.manages = true) : ¬(!s.boot.done || s.life.halted) = true := by
  unfold State.manages at hm
  revert hm
  cases s.boot.done <;> cases s.life.halted <;> simp

theorem State.firmwareAction_restart (hm : s.manages = true) (hr : restartKind b.kind = true) : s.firmwareAction h b = { s with
    ctl := { s.ctl with fwReady := false }
    flt := { s.flt with recov := (s.flt.recov.filter fun r => !r.isRestart) ++ [Recovery.warmRestart b.kind] } } := by
  unfold State.firmwareAction
  rw [if_neg (State.manages_guard hm), if_pos hr]

theorem State.firmwareAction_waits (hm : s.manages = true) (hr : restartKind b.kind = false) (hw : s.flt.restarting = true) :
    s.firmwareAction h b = { s with flt := { s.flt with todo := s.flt.todo ++ [b] } } := by
  unfold State.firmwareAction
  rw [if_neg (State.manages_guard hm), if_neg (by simp [hr]), if_pos hw]

/-- The lane check that a Burgee asks for: the lane stops, and the check is among the recoveries. -/
theorem State.firmwareAction_laneCheck (hm : s.manages = true) (hr : restartKind b.kind = false) (hw : s.flt.restarting = false)
    (hl : laneCheckKind b.kind = true) : s.ActShape (s.firmwareAction h b) ∧ (s.firmwareAction h b).ctl = s.ctl ∧
      (b.kind ≠ 27 → (s.firmwareAction h b).fw = s.fw) ∧ Recovery.laneCheck (s.checkedLane b) ∈ (s.firmwareAction h b).flt.recov ∧
      Stop.halt .proof ∈ ((s.firmwareAction h b).lane (s.checkedLane b)).stops := by
  have hframe : ∃ u : State, u = { s with fw := u.fw } ∧ (b.kind ≠ 27 → u.fw = s.fw) ∧ u.flt = s.flt ∧
      s.firmwareAction h b = ({ u with flt := { u.flt with
        recov := if u.flt.recov.contains (Recovery.laneCheck (s.checkedLane b)) then u.flt.recov else u.flt.recov ++ [Recovery.laneCheck (s.checkedLane b)]
        laneTimes := Tbl.modify [] u.flt.laneTimes (s.checkedLane b) fun l => (l ++ [s.now]).filter fun t =>
          decide ((s.now + 2 ^ 64 - t) % 2 ^ 64 < 1000000000) } } : State).stopLane (s.checkedLane b) (.halt .proof) := by
    unfold State.firmwareAction
    rw [if_neg (State.manages_guard hm), if_neg (by simp [hr]), if_neg (by simp [hw]), if_pos hl]
    refine ⟨if b.kind = 27 then s.reloadProgram h (bits b.addr 45 34) else s, ?_, fun hk => ?_, ?_, rfl⟩
    · split
      · rw [State.reloadProgram_frame]
      · rfl
    · rw [if_neg hk]
    · split
      · rw [State.reloadProgram_frame]
      · rfl
  obtain ⟨u, hu, hfw, hflt, hact⟩ := hframe
  have hctl : u.ctl = s.ctl := by rw [hu]
  rw [hact]
  refine ⟨?_, hctl, hfw, ?_, State.mem_stops_stopLane _ _ _⟩
  · rw [hu]; rfl
  · show _ ∈ if u.flt.recov.contains (Recovery.laneCheck (s.checkedLane b)) then u.flt.recov else u.flt.recov ++ [Recovery.laneCheck (s.checkedLane b)]
    split
    · next hc => exact List.contains_iff_mem.mp hc
    · exact List.mem_append_right _ (List.mem_singleton_self _)

/-- What firmware's action can change of the block. -/
theorem State.firmwareAction_shape : s.ActShape (s.firmwareAction h b) ∧ (b.kind ≠ 27 → b.kind ≠ 41 → (s.firmwareAction h b).fw = s.fw) := by
  cases hm : s.manages
  · rw [State.firmwareAction_off h hm]; exact ⟨rfl, fun _ _ => rfl⟩
  cases hr : restartKind b.kind
  swap
  · rw [State.firmwareAction_restart h hm hr]; exact ⟨rfl, fun _ _ => rfl⟩
  cases hw : s.flt.restarting
  swap
  · rw [State.firmwareAction_waits h hm hr hw]; exact ⟨rfl, fun _ _ => rfl⟩
  cases hl : laneCheckKind b.kind
  swap
  · obtain ⟨h1, _, h2, _⟩ := State.firmwareAction_laneCheck h hm hr hw hl
    exact ⟨h1, fun h27 _ => h2 h27⟩
  unfold State.firmwareAction
  rw [if_neg (State.manages_guard hm), if_neg (by simp [hr]), if_neg (by simp [hw]), if_neg (by simp [hl])]
  split
  · next h41 =>
    rw [State.reloadBook_frame]
    exact ⟨rfl, fun _ h => absurd h41 h⟩
  · split <;> exact ⟨rfl, fun _ _ => rfl⟩

end

/-! ### The kinds of a unit's own fault that have no effect but their Burgee -/

theorem State.ownFault_raises {s : State} {b : Burgee} (hk : b.kind ∈ [16, 17, 20, 40, 41, 47, 56, 57, 58])
    (hc : (kindClasses b.kind).contains b.cls = true) (hu : s.hasUnit b = true) : s.ownFault b = s.raise b := by
  have hplain : s.unitFault b = s := by
    unfold State.unitFault
    simp only [List.mem_cons, List.not_mem_nil, or_false] at hk
    rcases hk with h | h | h | h | h | h | h | h | h <;> simp [h, laneCheckKind]
  have hne : b.kind ≠ 27 ∧ b.kind ≠ 28 ∧ b.kind ≠ 43 ∧ b.kind ≠ 14 := by
    simp only [List.mem_cons, List.not_mem_nil, or_false] at hk
    omega
  obtain ⟨h1, h2, h3, h4⟩ := hne
  unfold State.ownFault
  rw [if_neg (by rw [hc, hu]; decide), if_neg h1, if_neg h2, if_neg h3, if_neg fun h => h4 h.1, hplain]

/-! ### The command -/

theorem exec_burgee_raised {s : State} (r : RawBurgee) (h : HostView) (hs : s.works) :
    exec (.burgee [] (some (.unit r)) h) s = .next (s.keep (s.ownFault (rawBurgee r))) :=
  (running_works _ hs : execBurgee [] (some (.unit r)) h s = _)

theorem exec_burgee_arrives {s : State} (doms : List Dom) (h : HostView) (hs : s.works) : exec (.burgee doms none h) s =
    .next (s.keep ((s.arrive doms).2.foldl (State.firmwareAction h) ((s.arrive doms).1.collectAll (s.arrive doms).2))) :=
  (running_works _ hs : execBurgee doms none h s = _)

/-- Settles O44: nothing arrives; a unit's Burgee is raised; one arrives, and firmware acts on it. -/
theorem collects : Obligations.Collects := by
  intro s dom b f r h hs
  refine ⟨fun doms hd => ?none, fun hb hk hc hu => ?raised, fun hpop => ?arrives⟩
  case none =>
    rw [exec_burgee_arrives doms h hs, State.arrive_none doms s hd]
    rfl
  case raised =>
    have hr : rawBurgee r = b := hb.symm
    have hexec := exec_burgee_raised r h hs
    rw [hr, State.ownFault_raises hk hc hu, s.shellKept_raise] at hexec
    obtain ⟨_, hroom, hfull⟩ := Flt.enter_note s.flt b
    obtain ⟨h1, h2, h3, h4, h5, h6⟩ := s.raise_effect b
    exact ⟨_, hexec, fun hr => ⟨h1.trans (hroom hr).1, h2.trans (hroom hr).2⟩, fun hf => ⟨h1.trans (hfull hf).1, h2.trans (hfull hf).2⟩, h4, h5, h6, h3,
      s.raise_plate b, s.raise_hal b, s.raise_time b, s.raise_pwr b, s.raise_ctl b⟩
  case arrives =>
    obtain ⟨c, k, rfl⟩ : ∃ c k, f = { s.flt with cross := c, held := k } := ⟨_, _, Flt.pop_frame hpop⟩
    have hexec := exec_burgee_arrives [dom] h hs
    rw [State.arrive_one hpop] at hexec
    dsimp only at hexec
    rw [State.collectAll_one, List.foldl_cons, List.foldl_nil] at hexec
    obtain ⟨hcol, hrec, hin, hout⟩ := ({ s with flt := { s.flt with cross := c, held := k } } : State).collect_effect b
    generalize ({ s with flt := { s.flt with cross := c, held := k } } : State).collect b (decide (2 ≤ kindSev b.kind)) = v at hcol hrec hin hout hexec
    obtain ⟨hshape, hfw⟩ := State.firmwareAction_shape (s := v) (b := b) h
    have hkeep : s.keep (v.firmwareAction h b) = v.firmwareAction h b := by rw [hshape, hcol]; rfl
    have hrecov : v.flt.recov = s.flt.recov := by rw [hrec]
    have htodo : v.flt.todo = s.flt.todo := by rw [hrec]
    have hmanages : v.manages = s.manages := by rw [hcol]; rfl
    have hrestarting : v.flt.restarting = s.flt.restarting := by unfold Flt.restarting; rw [hrecov]
    have hlane : v.checkedLane b = s.checkedLane b := by rw [hcol]; rfl
    have hflt := congrArg State.flt hshape
    dsimp only at hflt
    rw [hkeep] at hexec
    refine ⟨_, hexec, ?_, ?_, ?_, ?_, ?_, fun he => ?_, fun he => ?_, ?_, ?_, ?_, fun hm hr => ?_, fun hm hw hr hl => ?_, fun hm hw hr => ?_,
      fun hm => ?_, fun h27 h41 => ?_, ?_, ?_, ?_, ?_, ?_, ?_, ?_⟩
    case refine_6 =>
      obtain ⟨h1, h2⟩ := hin he
      rw [hflt]
      exact ⟨h1, h2⟩
    case refine_7 =>
      obtain ⟨h1, h2⟩ := hout he
      rw [hflt]
      exact ⟨h1, h2⟩
    case refine_11 =>
      rw [State.firmwareAction_restart h (hmanages.trans hm) hr]
      exact ⟨rfl, List.mem_append_right _ (List.mem_singleton_self _)⟩
    case refine_12 =>
      obtain ⟨_, _, _, h4, h5⟩ := State.firmwareAction_laneCheck h (hmanages.trans hm) hr (hrestarting.trans hw) hl
      rw [← hlane]
      exact ⟨h4, h5⟩
    case refine_13 =>
      rw [State.firmwareAction_waits h (hmanages.trans hm) hr (hrestarting.trans hw), ← htodo]
    case refine_14 =>
      rw [State.firmwareAction_off h (hmanages.trans hm), hcol]
    case refine_15 =>
      rw [hfw h27 h41, hcol]
    case refine_1 | refine_2 | refine_3 | refine_4 | refine_5 | refine_8 | refine_9 | refine_10 => rw [hflt, hrec]
    all_goals rw [hshape, hcol]

end Sys2Proof.Machine
end

section
/-! SUPPORT. Clock faults, the loss of the peer they bring, and the way out of the safe state (R283, R312, R330, R336, R372, Table FAULT-9). -/
namespace Sys2Proof.Machine

/-! ### What the loss of the peer leaves alone -/

/-- `t` has the time unit, the Plates, the boot state, the flagged clocks, and the state and loss reason of the link of `s`. -/
def State.ClockKept (s t : State) : Prop :=
  t.time = s.time ∧ t.plate = s.plate ∧ t.boot = s.boot ∧ t.flt.clkFlag = s.flt.clkFlag ∧ t.link.st = s.link.st ∧ t.link.loss = s.link.loss

theorem State.ClockKept.refl (s : State) : s.ClockKept s := ⟨rfl, rfl, rfl, rfl, rfl, rfl⟩

theorem State.ClockKept.trans {s t u : State} (h : s.ClockKept t) (k : t.ClockKept u) : s.ClockKept u := by
  obtain ⟨h1, h2, h3, h4, h5, h6⟩ := h
  obtain ⟨k1, k2, k3, k4, k5, k6⟩ := k
  exact ⟨k1.trans h1, k2.trans h2, k3.trans h3, k4.trans h4, k5.trans h5, k6.trans h6⟩

theorem State.ClockKept.foldl {α : Type} {f : State → α → State} (hf : ∀ (s : State) a, s.ClockKept (f s a)) (l : List α) (s : State) :
    s.ClockKept (l.foldl f s) :=
  foldl_keeps (fun u => s.ClockKept u) f (fun u a hu => hu.trans (hf u a)) l s (.refl s)

theorem State.ClockKept.of_fwShape {s t : State} (h : s.FwShape t) : s.ClockKept t := by
  rw [h.1]; exact .refl s

theorem State.clockKept_modStream (s : State) (c : Nat) (f : Stream → Stream) : s.ClockKept (s.modStream c f) :=
  .of_fwShape (s.fwShape_modStream c f)

theorem Link.cutFrame_loss (l : Link) : l.cutFrame.loss = l.loss := by
  unfold Link.cutFrame
  split
  · rfl
  · split <;> rfl

theorem State.clockKept_stopLane (s : State) (p : Nat) (x : Stop) : s.ClockKept (s.stopLane p x) := ⟨rfl, rfl, rfl, rfl, rfl, rfl⟩

theorem State.clockKept_raise (s : State) (b : Burgee) : s.ClockKept (s.raise b) := by
  have hflag : (s.raise b).flt.clkFlag = s.flt.clkFlag := by
    obtain ⟨hg, _⟩ := Flt.enter_note s.flt b
    unfold State.raise
    dsimp only
    split
    · cases hs : s.flt.safe
      · obtain ⟨h1, _⟩ := State.enterSafe_sets (s := { s with flt := (s.flt.enter b).note b }) (by rw [hg]; exact hs)
        rw [h1, hg]
      · rw [State.enterSafe_in (s := { s with flt := (s.flt.enter b).note b }) (by rw [hg]; exact hs), hg]
    · rw [hg]
  have hloss : (s.raise b).link.loss = s.link.loss := by
    unfold State.raise
    dsimp only
    split
    · rw [State.enterSafe_link]
      split
      · rfl
      · exact s.link.cutFrame_loss
    · rfl
  exact ⟨s.raise_time b, s.raise_plate b, s.raise_boot b, hflag, s.raise_st b, hloss⟩

theorem State.clockKept_faultReply (s : State) (f : FaultMsg) : s.ClockKept (s.faultReply f) := .of_fwShape (s.fwShape_faultReply f)

theorem State.clockKept_evictMember (s : State) (p c h i : Nat) : s.ClockKept (s.evictMember p c h i) := by
  unfold State.evictMember
  split
  · refine State.ClockKept.trans ?_ (State.clockKept_faultReply _ _)
    refine State.ClockKept.trans ?_ (State.clockKept_raise _ _)
    refine State.ClockKept.trans ?_ (State.clockKept_modStream _ _ _)
    exact ⟨rfl, rfl, rfl, rfl, rfl, rfl⟩
  · exact .refl s

theorem State.clockKept_evictPeer (s : State) (h i : Nat) : s.ClockKept (s.evictPeer h i) := by
  unfold State.evictPeer
  split
  · exact s.clockKept_evictMember _ _ _ _
  · split
    · exact ⟨rfl, rfl, rfl, rfl, rfl, rfl⟩
    · exact .refl s

theorem State.clockKept_dropXfer (s : State) (c id : Nat) : s.ClockKept (s.dropXfer c id) := by
  unfold State.dropXfer
  split
  · exact .refl s
  · dsimp only
    split
    · exact ⟨rfl, rfl, rfl, rfl, rfl, rfl⟩
    · refine State.ClockKept.trans ?_ (.of_fwShape (.of_queueShape (State.queueShape_refill _ _)))
      exact ⟨rfl, rfl, rfl, rfl, rfl, rfl⟩

theorem State.clockKept_finishXfer (s : State) (c id : Nat) : s.ClockKept (s.finishXfer c id) := by
  unfold State.finishXfer
  split
  · exact .refl s
  · refine (s.clockKept_dropXfer c id).trans (.foldl (fun s i => ?_) _ _)
    split
    · split
      · exact s.clockKept_dropXfer _ _
      · exact .refl s
    · exact .refl s

theorem State.clockKept_checkComplete (s : State) (p c id : Nat) : s.ClockKept (s.checkComplete p c id) := by
  unfold State.checkComplete
  split
  · exact .refl s
  · split
    · exact .refl s
    · split
      · exact ⟨rfl, rfl, rfl, rfl, rfl, rfl⟩
      · split
        · split
          · exact s.clockKept_finishXfer c id
          · split
            · exact s.clockKept_dropXfer c id
            · exact .refl s
        · exact .refl s

theorem State.clockKept_errXfer (s : State) (p c id : Nat) (r : Resp) (addr : Nat) : s.ClockKept (s.errXfer p c id r addr) := by
  unfold State.errXfer
  split
  · exact ⟨rfl, rfl, rfl, rfl, rfl, rfl⟩
  · exact (s.clockKept_modStream _ _).trans ⟨rfl, rfl, rfl, rfl, rfl, rfl⟩

theorem State.clockKept_dropXferLink (s : State) (l : Link) (remote : Bool) (c id : Nat) : s.ClockKept (s.dropXferLink l remote c id) := by
  unfold State.dropXferLink
  dsimp only
  split
  · exact .refl s
  · have hput := State.ClockKept.trans (.foldl (fun s (q : PeerRead) => s.clockKept_modStream c _) (l.openReads c id) s)
      (State.clockKept_modStream (List.foldl (fun s (q : PeerRead) => s.putCells c id q.keys (.bad .fail)) s (l.openReads c id)) c
        fun x => x.modXfer id fun t => { t with outstanding := t.outstanding - l.openWrites c id })
    refine hput.trans ?_
    split
    · exact State.clockKept_modStream _ _ _
    · split
      · exact State.clockKept_errXfer _ _ _ _ _ _
      · exact State.clockKept_checkComplete _ _ _ _

theorem State.clockKept_dropAccesses (s : State) : s.ClockKept s.dropAccesses := by
  unfold State.dropAccesses
  dsimp only
  refine State.ClockKept.trans ?_ (.foldl (fun s (e : Nat × Stream) => .foldl (fun s (t : Transfer) => s.clockKept_dropXferLink _ _ _ _) _ s) _ _)
  exact ⟨rfl, rfl, rfl, rfl, rfl, rfl⟩

theorem State.clockKept_holdStrays (s : State) : s.ClockKept s.holdStrays := by
  unfold State.holdStrays
  dsimp only
  split
  · exact .refl s
  · refine State.ClockKept.trans ?_ (State.clockKept_faultReply _ _)
    refine State.ClockKept.trans ?_ (.foldl (fun s c => ?_) _ _)
    · refine State.ClockKept.trans (.foldl (fun s c => ?_) _ s) ⟨rfl, rfl, rfl, rfl, rfl, rfl⟩
      exact (State.ClockKept.of_fwShape (.of_queueShape (s.queueShape_delist c))).trans (State.clockKept_modStream _ _ _)
    · split
      · exact s.clockKept_modStream _ _
      · exact .refl s

/-- The loss of the peer holds the link `LOST` for its reason, and leaves the time unit, the Plates and the boot state alone (R283). -/
theorem State.losePeer_effect (s : State) (reason : Nat) : (s.losePeer reason).time = s.time ∧ (s.losePeer reason).plate = s.plate ∧
    (s.losePeer reason).boot = s.boot ∧ (s.losePeer reason).flt.clkFlag = s.flt.clkFlag ∧ (s.losePeer reason).link.st = 4 ∧
    (s.losePeer reason).link.loss = reason := by
  have htell : ∀ u : State, u.ClockKept u.tellLoss := fun u => by
    unfold State.tellLoss
    split
    · split <;> exact ⟨rfl, rfl, rfl, rfl, rfl, rfl⟩
    · exact .refl u
  have hstrays : ∀ u : State, u.ClockKept ({ u.holdStrays with
      link := { u.holdStrays.link with lossNews := some (u.holdStrays.link.stateWord reason) } } : State).tellLoss := fun u => by
    have h := u.clockKept_holdStrays
    generalize u.holdStrays = v at h ⊢
    exact (h.trans (t := v) ⟨rfl, rfl, rfl, rfl, rfl, rfl⟩ : u.ClockKept { v with link := { v.link with lossNews := some (v.link.stateWord reason) } }).trans (htell _)
  have hstops : ∀ (l : List Nat) (u : State), u.ClockKept (l.foldl (fun s p => s.stopLane p (.halt .peer)) u) :=
    fun l u => .foldl (fun s p => s.clockKept_stopLane p _) l u
  have hevict : ∀ u : State, u.ClockKept u.evictPeers.dropAccesses := fun u =>
    State.ClockKept.trans (.foldl (fun s (e : Nat × Nat) => s.clockKept_evictPeer e.1 e.2) _ u) (State.clockKept_dropAccesses _)
  have h : (({ s with link := { s.link with st := 4, loss := reason } }.linkBump 14 1).linkBump 10 s.link.unackedAdds : State).ClockKept (s.losePeer reason) := by
    unfold State.losePeer
    dsimp only
    generalize (({ s with link := { s.link with st := 4, loss := reason } }.linkBump 14 1).linkBump 10 s.link.unackedAdds : State) = u
    exact ((hevict u).trans (hstops _ _)).trans (hstrays _)
  exact h

/-! ### A monitor flags its clock -/

theorem setBit_setBit {w : Nat} (v : BitVec w) (i : Nat) : setBit (setBit v i true) i true = setBit v i true := by
  unfold setBit
  rw [if_pos rfl, if_pos rfl, BitVec.or_assoc, BitVec.or_self]

/-- A clock kind stays a cause once it is raised. -/
theorem State.mem_causes_raise {s : State} {b : Burgee} (h : 49 ≤ b.kind ∧ b.kind ≤ 54) : b ∈ (s.raise b).flt.causes := by
  have hnote : b ∈ ((s.flt.enter b).note b).causes := by
    unfold Flt.note
    dsimp only
    split
    · exact List.mem_append_right _ (List.mem_singleton_self _)
    · next hc =>
      simp only [h, true_and, Bool.not_eq_true', Bool.not_eq_false] at hc
      exact List.contains_iff_mem.mp hc
  unfold State.raise
  dsimp only
  split
  · cases hs : ((s.flt.enter b).note b).safe
    · obtain ⟨h1, _⟩ := State.enterSafe_sets (s := { s with flt := (s.flt.enter b).note b }) hs
      rw [h1]
      exact hnote
    · rw [State.enterSafe_in (s := { s with flt := (s.flt.enter b).note b }) hs]
      exact hnote
  · exact hnote

/-- What a monitor's flag does beside its Burgee, where the link is not lost by it. -/
theorem State.clockEffect_plain {s : State} {clk : Clock} (loss : Bool) (h : clk ≠ .lclk ∨ s.link.up = false) :
    (s.clockEffect clk loss).flt = { s.flt with clkFlag := setBit s.flt.clkFlag (clockIdx clk) true } ∧ (s.clockEffect clk loss).link = s.link ∧
      (s.clockEffect clk loss).lanes = s.lanes := by
  cases clk
  case lclk =>
    have hup : s.link.up = false := h.resolve_left fun h => h rfl
    unfold State.clockEffect
    dsimp only
    rw [if_neg (by rw [hup]; exact Bool.false_ne_true)]
    exact ⟨rfl, rfl, rfl⟩
  case aclk => exact ⟨congrArg (fun v => { s.flt with clkFlag := v }) (setBit_setBit _ _), rfl, rfl⟩
  all_goals exact ⟨rfl, rfl, rfl⟩

theorem State.clockEffect_lost {s : State} (loss : Bool) (h : s.link.up = true) : s.clockEffect .lclk loss =
    State.losePeer { s with flt := { s.flt with clkFlag := setBit s.flt.clkFlag (clockIdx .lclk) true } } 1 := by
  unfold State.clockEffect
  exact if_pos h

theorem State.clockEffect_flag (s : State) (clk : Clock) (loss : Bool) :
    (s.clockEffect clk loss).flt.clkFlag = setBit s.flt.clkFlag (clockIdx clk) true ∧ (s.clockEffect clk loss).plate = s.plate ∧
      (s.clockEffect clk loss).boot = s.boot ∧ (clk ≠ .tclk → (s.clockEffect clk loss).time = s.time) := by
  by_cases h : clk ≠ .lclk ∨ s.link.up = false
  · rw [(State.clockEffect_plain loss h).1]
    refine ⟨rfl, ?_⟩
    cases clk
    case lclk =>
      unfold State.clockEffect
      dsimp only
      rw [if_neg (by simpa using h)]
      exact ⟨rfl, rfl, fun _ => rfl⟩
    case tclk => exact ⟨rfl, rfl, fun h => absurd rfl h⟩
    all_goals exact ⟨rfl, rfl, fun _ => rfl⟩
  · obtain ⟨rfl, hup⟩ : clk = .lclk ∧ s.link.up = true := by simpa using h
    rw [State.clockEffect_lost loss hup]
    obtain ⟨h1, h2, h3, h4, _⟩ := State.losePeer_effect { s with flt := { s.flt with clkFlag := setBit s.flt.clkFlag (clockIdx .lclk) true } } 1
    exact ⟨h4, h2, h3, fun _ => h1⟩

/-- The ACLK monitor's fault counts as a cause, and a frequency fault relocks the PLL at OP0 (R312, R330). -/
theorem State.aclkFault_pwr (s : State) (loss : Bool) : (s.clockEffect .aclk loss).pwr.clkFault = true ∧
    (loss = true ∨ 0 < s.pwr.target → (s.clockEffect .aclk loss).pwr.active.getLsbD 5 = true) ∧
    (loss = false → (s.clockEffect .aclk loss).pwr.op = 0 ∧ (s.clockEffect .aclk loss).pwr.raise = none ∧
      (s.clockEffect .aclk loss).pwr.slewTo = none ∧ (s.clockEffect .aclk loss).pwr.fast = false) := by
  have hset := getLsbD_setBit_same (i := 5) s.pwr.active true (by decide)
  unfold State.clockEffect State.aclkFault
  dsimp only
  cases loss
  · by_cases ht : 0 < s.pwr.target
    · simp [ht, hset]
    · simp [ht]
  · simp [hset]

theorem clockKind_range (clk : Clock) (loss : Bool) : 49 ≤ clockKind clk loss ∧ clockKind clk loss ≤ 54 := by
  cases clk <;> cases loss <;> decide

/-! ### The way out of the safe state -/

theorem State.pumpAll_idle {s : State} (h : ∀ q, (s.port q).waitW = []) : s.pumpAll = s := by
  have hq : ∀ q, s.pumpWrite q = s := fun q => by
    unfold State.pumpWrite
    rw [h q]
  have hin : ∀ q (l : List Nat), l.foldl (fun s _ => s.pumpWrite q) s = s := fun q l =>
    foldl_keeps (fun u : State => u = s) _ (fun u _ hu => by rw [hu, hq]) l s rfl
  exact foldl_keeps (fun u : State => u = s) _ (fun u q hu => by rw [hu, hin]) _ s rfl

theorem State.rxSettle_idle {s : State} (h : s.link.rx = []) : s.rxSettle = s := by
  unfold State.rxSettle
  rw [h]
  show ({ s with link := Link.advanceCmp s.link.rx s.link } : State) = s
  rw [h]
  show ({ s with link := { s.link with rx := [] } } : State) = s
  rw [← h]

theorem State.refillAll_effect (s : State) : s.refillAll = { s with lanes := s.refillAll.lanes } ∧
    ∀ p, (s.refillAll.lane p).stops = (s.lane p).stops := by
  refine ⟨foldl_keeps (fun u : State => u = { s with lanes := u.lanes }) _ (fun u e hu => ?_) _ _ rfl, fun p =>
    foldl_keeps (fun u : State => (u.lane p).stops = (s.lane p).stops) _ (fun u e hu => (u.stops_refill e.1 p).trans hu) _ _ rfl⟩
  unfold State.refill
  split
  · exact hu
  · split
    · exact hu
    · rw [hu]; rfl

theorem exec_safeExit {s : State} (hs : s.works) : exec .safeExitRequest s = .next (s.keep s.safeExit) :=
  (running_works _ hs : execSafeExitRequest s = _)

/-- Settles O45: the monitor's flag and its Burgee, the clock's return, and the three cases of a request to leave the safe state. -/
theorem clocksAndSafeExit : Obligations.ClocksAndSafeExit := by
  intro s clk loss b hs
  refine ⟨fun hb => ?fault, ⟨_, (running_works _ hs : execClockReturn clk s = _), rfl, rfl, fun a => ?_, fun h => ?_, fun h => ?_, fun h => ?_, fun h => ?_⟩,
    fun h => ?_, fun hsafe hrec hc => ?_, fun hsafe hrec hc hw hrx => ?exit⟩
  case fault =>
    subst hb
    have hexec : exec (.clockMonitorFault clk loss) s = .next (s.keep ((s.clockEffect clk loss).raise ⟨7, clockIdx clk, clockKind clk loss, 0⟩)) :=
      (running_works _ hs : execClockMonitorFault clk loss s = _)
    obtain ⟨hflag, hplate, hboot, htime⟩ := s.clockEffect_flag clk loss
    have hkind := clockKind_range clk loss
    have hcause := State.mem_causes_raise (s := s.clockEffect clk loss) (b := ⟨7, clockIdx clk, clockKind clk loss, 0⟩) hkind
    have hclock := (s.clockEffect clk loss).clockKept_raise ⟨7, clockIdx clk, clockKind clk loss, 0⟩
    have hraise := (s.clockEffect clk loss).raise_effect ⟨7, clockIdx clk, clockKind clk loss, 0⟩
    have hpwr := State.raise_pwr (s.clockEffect clk loss) ⟨7, clockIdx clk, clockKind clk loss, 0⟩
    have hlow := (s.clockEffect clk loss).raise_low ⟨7, clockIdx clk, clockKind clk loss, 0⟩
    generalize (s.clockEffect clk loss).raise ⟨7, clockIdx clk, clockKind clk loss, 0⟩ = v at hexec hcause hclock hraise hpwr hlow
    obtain ⟨k1, k2, k3, k4, k5, k6⟩ := hclock
    obtain ⟨r1, r2, r3, r4, r5, _⟩ := hraise
    refine ⟨_, hexec, k4.trans hflag, fun hplain => ?_, r5, ?_, ?_, ?_, fun h => k1.trans (htime h), k2.trans hplate, k3.trans hboot⟩
    · obtain ⟨h1, h2, h3⟩ := State.clockEffect_plain (s := s) loss hplain
      refine ⟨?_, hcause, fun hsev => ?_⟩
      · have hcross : v.flt.cross = Tbl.put 7 (Tbl.get [] s.flt.cross 7 ++ [⟨7, clockIdx clk, clockKind clk loss, 0⟩]) s.flt.cross := by
          rw [r1, h1]
          rfl
        exact (congrArg (fun t => Tbl.get [] t 7) hcross).trans (Tbl.get_put_same _ _ _ _)
      have hv := hlow hsev
      have hl : v.link = (s.clockEffect clk loss).link := by rw [hv]
      have hn : v.lanes = (s.clockEffect clk loss).lanes := by rw [hv]
      refine ⟨hl.trans h2, hn.trans h3, ?_⟩
      · have hsafe : (s.clockEffect clk loss).flt.safe = s.flt.safe := by rw [h1]
        exact (r4 hsev).1.trans hsafe
    · rintro rfl hup
      have hlost : (s.clockEffect .lclk loss).link.st = 4 ∧ (s.clockEffect .lclk loss).link.loss = 1 := by
        rw [State.clockEffect_lost loss hup]
        exact (State.losePeer_effect _ 1).2.2.2.2
      exact ⟨k5.trans hlost.1, k6.trans hlost.2⟩
    · rintro rfl
      obtain ⟨h1, h2, h3⟩ := s.aclkFault_pwr loss
      refine ⟨(congrArg Pwr.clkFault hpwr).trans h1, fun h => (congrArg (fun w : Pwr => w.active.getLsbD 5) hpwr).trans (h2 h), fun h => ?_⟩
      obtain ⟨h4, h5, h6, h7⟩ := h3 h
      exact ⟨(congrArg Pwr.op hpwr).trans h4, (congrArg Pwr.raise hpwr).trans h5, (congrArg Pwr.slewTo hpwr).trans h6, (congrArg Pwr.fast hpwr).trans h7⟩
    · rintro rfl
      exact k1
  · simp only [State.keep, List.mem_filter, Bool.or_eq_true, decide_eq_true_eq]
  · exact if_pos h
  · exact if_neg h
  · exact if_pos h
  · exact if_neg h
  · rw [exec_safeExit hs, State.safeExit, if_pos]
    · rfl
    · rcases h with h | h <;> simp [h]
  · have hguard : ¬(!s.flt.safe || decide (s.flt.recov ≠ [])) = true := by simp [hsafe, hrec]
    have hlog : s.flt.presentCauses.foldl State.logBurgee s = { s with flt := (s.flt.presentCauses.foldl State.logBurgee s).flt } ∧
        (s.flt.presentCauses.foldl State.logBurgee s).flt.safe = s.flt.safe :=
      foldl_keeps (fun u : State => u = { s with flt := u.flt } ∧ u.flt.safe = s.flt.safe) _ (fun u b hu => by
        obtain ⟨h1, h2⟩ := hu
        exact ⟨by rw [State.logBurgee, h1], h2⟩) _ _ ⟨rfl, rfl⟩
    obtain ⟨h1, h2⟩ := hlog
    rw [exec_safeExit hs, State.safeExit, if_neg hguard, if_pos hc]
    generalize s.flt.presentCauses.foldl State.logBurgee s = v at h1 h2
    refine ⟨_, rfl, ?_, h2.trans hsafe, rfl⟩
    rw [h1]
    rfl
  case exit =>
    have hguard : ¬(!s.flt.safe || decide (s.flt.recov ≠ [])) = true := by simp [hsafe, hrec]
    rw [exec_safeExit hs, State.safeExit, if_neg hguard, if_neg (by rw [hc]; exact Bool.false_ne_true)]
    dsimp only
    rw [State.pumpAll_idle (by exact hw), State.rxSettle_idle (by exact hrx)]
    generalize hv : ({ s with flt := { s.flt with safe := false }, pins := { s.pins with
      trigOut := s.time.pulse.foldl (fun (v : BitVec 16) (e : Nat × Nat) => setBit v e.1 true) 0 } } : State) = v
    obtain ⟨h1, h2⟩ := v.refillAll_effect
    refine ⟨_, rfl, ?_, fun p => (h2 p).trans ?_⟩
    · rw [h1, ← hv]; rfl
    · rw [← hv]; rfl

end Sys2Proof.Machine
end

section
/-! SUPPORT. The end of a lane check and of a warm restart (R342-R345). -/
namespace Sys2Proof.Machine

/-! ### Lane checks -/

theorem exec_laneCheckDone {s : State} (lane : Fin 10) (pass : Bool) (h : HostView) (hs : s.works) :
    exec (.laneCheckDone lane pass h) s = .next (s.keep (laneCheckDone lane.val pass h s)) :=
  (running_works _ hs : execLaneCheckDone lane pass h s = _)

/-- The check of lane `p` can end: firmware runs it, the lane holds or is idle, and its reports are taken (R342). -/
def State.checkReady (s : State) (p : Nat) : Prop :=
  s.ctl.fwReady = true ∧ s.flt.recov.contains (.laneCheck p) = true ∧ ((s.lane p).holding || (decide ((s.lane p).queue = []) && s.laneQuiet p)) = true ∧
    (s.lane p).report = []

section
variable {s : State} {p : Nat} {pass : Bool} {h : HostView}

theorem laneCheckDone_guard (hr : s.checkReady p) : ¬(!s.ctl.fwReady || !s.flt.recov.contains (.laneCheck p) ||
    !((s.lane p).holding || (decide ((s.lane p).queue = []) && s.laneQuiet p)) || decide ((s.lane p).report ≠ [])) = true := by
  obtain ⟨h1, h2, h3, h4⟩ := hr
  rw [h1, h2, h3, h4]
  decide

theorem laneCheckDone_waits (hr : ¬s.checkReady p) : laneCheckDone p pass h s = s := by
  unfold laneCheckDone
  dsimp only
  rw [if_pos]
  by_contra hc
  simp only [Bool.or_eq_true, Bool.not_eq_true', decide_eq_true_eq, not_or, Bool.not_eq_false, ne_eq, not_not] at hc
  obtain ⟨⟨⟨h1, h2⟩, h3⟩, h4⟩ := hc
  exact hr ⟨h1, h2, (Bool.or_eq_true _ _).mpr h3, h4⟩

theorem laneCheckDone_passes (hr : s.checkReady p) (hp : pass = true) (ht : s.threeFaults p = false) (hn : 2 ≤ s.sensorsLeft p) :
    laneCheckDone p pass h s = ({ s with flt := s.flt.without p } : State).settle p := by
  unfold laneCheckDone
  dsimp only
  rw [if_neg (laneCheckDone_guard hr), if_neg (by rw [hp, ht]; simp; omega)]

theorem laneCheckDone_fails (hr : s.checkReady p) (hf : pass = false ∨ s.threeFaults p = true ∨ s.sensorsLeft p < 2) :
    laneCheckDone p pass h s = s.failLane h p := by
  unfold laneCheckDone
  dsimp only
  rw [if_neg (laneCheckDone_guard hr), if_pos]
  rcases hf with hf | hf | hf <;> simp [hf]

end

/-- A lane that hands over to a spare (R343): the map, the spares, and nothing of the collector. -/
theorem State.substitute_effect (s : State) (h : HostView) (n p q : Nat) (rest : List Nat) : (s.substitute h n p q rest).flt = s.flt ∧
    (s.substitute h n p q rest).physOf n = some q ∧ (s.substitute h n p q rest).fw.spares = rest := by
  have hcopy : (s.copyStore h n).flt = s.flt :=
    foldl_keeps (fun u : State => u.flt = s.flt) _ (fun u k hu => (congrArg State.flt (u.rereadProgram_frame h k true)).trans hu) _ _ rfl
  have hmod : ((s.laneStreams p).foldl (fun s c => s.modStream c s.forgetBlocks) (s.copyStore h n)).flt = s.flt :=
    foldl_keeps (fun u : State => u.flt = s.flt) _ (fun u c hu => (congrArg State.flt (u.modStream_frame c _)).trans hu) _ _ hcopy
  exact ⟨hmod, Tbl.find_put_same _ _ _, rfl⟩

/-- A lane that has no spare to hand over to: its logical lane goes out of service (R344). -/
theorem State.retireLane_effect (s : State) (h : HostView) (n p : Nat) : (s.retireLane h n p).flt.failed = s.flt.failed ∧
    (s.retireLane h n p).physOf n = none ∧ Tbl.get false (s.retireLane h n p).fw.outOfService n = true := by
  unfold State.retireLane
  dsimp only
  generalize hw : State.recordAll _ h _ = w
  have hshape : s.FwShape w := by
    rw [← hw]
    refine State.FwShape.foldl_from (fun s c => (s.fwShape_recordOf h c).1) _ (.foldl (fun s c => ?_) _ s)
    exact (s.fwShape_modStream c _).trans (.of_queueShape (State.queueShape_delist _ c))
  have hflt : w.flt = s.flt := by rw [hshape.1]
  rw [State.raise_low _ _ (by show kindSev 44 < 2; decide)]
  refine ⟨?_, Tbl.find_drop_same _ _, Tbl.get_put_same _ _ _ _⟩
  obtain ⟨hg, _⟩ := Flt.enter_note w.flt ⟨0, p, 44, n⟩
  exact (congrArg Flt.failed hg).trans (by rw [hflt])

/-- A failed lane is marked, and its logical lane moves to the next spare, or goes out of service (R342-R344). -/
theorem State.failLane_effect (s : State) (h : HostView) (p : Nat) : (s.failLane h p).flt.failed = setBit s.flt.failed p true ∧
    (∀ n q rest, s.logicalOf p = some n → s.fw.spares = q :: rest → (s.failLane h p).physOf n = some q ∧ (s.failLane h p).fw.spares = rest) ∧
    (∀ n, s.logicalOf p = some n → s.fw.spares = [] → (s.failLane h p).physOf n = none ∧ Tbl.get false (s.failLane h p).fw.outOfService n = true) ∧
    (s.logicalOf p = none → (s.failLane h p).fw.spares = s.fw.spares.erase p ∧ (s.failLane h p).fw.laneMap = s.fw.laneMap) := by
  obtain ⟨v, hv⟩ : ∃ v : State, { s with flt := { s.flt.without p with failed := setBit s.flt.failed p true } } = v := ⟨_, rfl⟩
  have hfail : s.failLane h p = match v.logicalOf p with
      | none => { v with fw := { v.fw with spares := v.fw.spares.erase p } }
      | some n => match v.fw.spares with
        | q :: rest => v.substitute h n p q rest
        | [] => v.retireLane h n p := by subst hv; rfl
  rw [hfail]
  have hfailed : v.flt.failed = setBit s.flt.failed p true := by rw [← hv]
  have hlog : v.logicalOf p = s.logicalOf p := by rw [← hv]; rfl
  have hfw : v.fw = s.fw := by rw [← hv]
  rw [hlog, hfw]
  cases hn : s.logicalOf p with
  | none => exact ⟨hfailed, (fun n q rest h => nomatch h), (fun n h => nomatch h), fun _ => ⟨rfl, rfl⟩⟩
  | some n =>
    dsimp only
    cases hsp : s.fw.spares with
    | nil =>
      obtain ⟨h1, h2, h3⟩ := v.retireLane_effect h n p
      refine ⟨h1.trans hfailed, (fun n q rest _ h => nomatch h), fun m hm _ => ?_, fun h => nomatch h⟩
      cases hm
      exact ⟨h2, h3⟩
    | cons q rest =>
      obtain ⟨h1, h2, h3⟩ := v.substitute_effect h n p q rest
      refine ⟨(congrArg Flt.failed h1).trans hfailed, fun m r l hm hl => ?_, (fun n _ h => nomatch h), fun h => nomatch h⟩
      cases hm
      cases hl
      exact ⟨h2, h3⟩

/-! ### The warm restart -/

theorem exec_warmRestartDone {s : State} (r : Restart) (h : HostView) (hs : s.works) :
    exec (.warmRestartDone r h) s = .next (s.keep (warmRestartDone r h s)) :=
  (running_works _ hs : execWarmRestartDone r h s = _)

/-- The reloaded image sets the running slot, its digest and its version. -/
theorem State.reloadFirmware_frame {s v : State} {h : HostView} (hv : s.reloadFirmware h = some v) : v = { s with boot := v.boot } := by
  unfold State.reloadFirmware at hv
  dsimp only at hv
  split at hv
  · cases hv; rfl
  · obtain ⟨img, _, rfl⟩ := Option.map_eq_some_iff.mp hv
    rfl

/-- The lost objects: firmware's tables start again but the lane places, and the Halyards are cleared. -/
theorem State.loseObjects_frame (s : State) : ∃ fw hal lanes, s.loseObjects = { s with fw := fw, hal := hal, lanes := lanes } ∧
    fw.attached = false ∧ fw.tensors = [] ∧ fw.programs = [] ∧ fw.streams = [] ∧ fw.laneMap = s.fw.laneMap ∧ hal.words = [] := by
  unfold State.loseObjects
  dsimp only
  generalize hv : ({ s with fw := _, hal := _ } : State) = v
  have hl : ∀ l : List Nat, l.foldl (fun s p => s.modLane p Lane.blank) v = { v with lanes := (l.foldl (fun s p => s.modLane p Lane.blank) v).lanes } := fun l =>
    foldl_keeps (fun u : State => u = { v with lanes := u.lanes }) _ (fun u p hu => by rw [hu]; rfl) l v rfl
  refine ⟨v.fw, v.hal, (s.build.cfg.physLanes.foldl (fun s p => s.modLane p Lane.blank) v).lanes, ?_, ?_⟩
  · rw [hl, ← hv]
  · rw [← hv]
    exact ⟨rfl, rfl, rfl, rfl, rfl, rfl⟩

/-- The answer to a command in hand, and the lanes that had drained for it. -/
theorem State.failHand_frame (s : State) : s.failHand = { s with
    ctl := s.failHand.ctl, lanes := s.failHand.lanes, fw := { s.fw with runlist := s.failHand.fw.runlist } } ∧ s.failHand.ctl.fwReady = s.ctl.fwReady := by
  have hfin : s.finishHand 8 [] = { s with ctl := (s.finishHand 8 []).ctl } ∧ (s.finishHand 8 []).ctl.fwReady = s.ctl.fwReady := by
    unfold State.finishHand
    split
    · unfold State.answer Ctl.reply
      dsimp only
      split <;> exact ⟨rfl, rfl⟩
    · exact ⟨rfl, rfl⟩
  have hq : (s.finishHand 8 []).QueueShape s.failHand := by
    refine State.queueShape_foldl (fun s p => ?_) _ _
    split
    · exact s.queueShape_unstop p _
    · exact .refl s
  obtain ⟨h1, h2⟩ := hfin
  exact ⟨by rw [hq, h1], by rw [hq]; exact h2⟩

/-- The journal keeps the running slot, its digest and its version. -/
theorem State.journal_boot (s : State) (h : HostView) (r : RecBody) :
    (s.journal h r).boot = { s.boot with jfail := (s.journal h r).boot.jfail, nextSeq := (s.journal h r).boot.nextSeq } := by
  have hput : ∀ i b, (s.putEntry h i b).boot = { s.boot with jfail := (s.putEntry h i b).boot.jfail } := by
    intro i b
    unfold State.putEntry
    split
    · rfl
    · split <;> rfl
  unfold State.journal
  dsimp only
  split
  · rw [hput]
  · conv_lhs => rw [hput]
    rw [hput]

/-- What is left of the block after a warm restart with no Burgee waiting, over the state `v` with the reloaded image. -/
theorem warmRestartDone_effect {s v : State} {r : Restart} {h : HostView} (hr : s.flt.restarting = true) (hv : s.reloadFirmware h = some v)
    (htodo : s.flt.todo = []) : ∃ (w u : State), (w = if r = Restart.lost then v.loseObjects else v) ∧ warmRestartDone r h s = u ∧
      u.ctl.fwReady = true ∧ u.boot.digest = v.boot.digest ∧ u.boot.fwver = v.boot.fwver ∧ u.boot.slotRunning = v.boot.slotRunning ∧
      (∀ x, x ∈ u.flt.recov → x ∈ v.flt.recov ∧ x.isRestart = false) ∧ (∃ l, u.fw = { w.fw with runlist := l }) ∧ u.hal = w.hal ∧
      u.plate = w.plate ∧ u.time = w.time := by
  have hvt : v.flt.todo = [] := by rw [State.reloadFirmware_frame hv]; exact htodo
  obtain ⟨w, hw⟩ : ∃ w : State, w = if r = Restart.lost then v.loseObjects else v := ⟨_, rfl⟩
  have hwv : w.flt = v.flt ∧ w.boot = v.boot := by
    rw [hw]
    split
    · obtain ⟨fw, hal, lanes, hlose, _⟩ := v.loseObjects_frame
      rw [hlose]
      exact ⟨rfl, rfl⟩
    · exact ⟨rfl, rfl⟩
  obtain ⟨hwf, hwb⟩ := hwv
  refine ⟨w, _, hw, rfl, ?_⟩
  unfold warmRestartDone
  rw [if_neg (by simp [hr]), hv]
  dsimp only
  rw [← hw, hvt, List.foldl_nil]
  generalize hx : ({ w with flt := { w.flt with todo := [], checkpoint := 0, recov := w.flt.recov.filter _ }, ctl := { w.ctl with fwReady := true } } : State) = x
  generalize hy : (x.journal h _).faultReply _ = y
  have hxf : ∀ a ∈ x.flt.recov, a ∈ v.flt.recov ∧ a.isRestart = false := by
    rw [← hx, ← hwf]
    intro a ha
    obtain ⟨h1, h2⟩ := List.mem_filter.mp ha
    exact ⟨h1, by simpa using (Bool.and_eq_true_iff.mp h2).1⟩
  have hyfw : y.fw = w.fw ∧ y.hal = w.hal ∧ y.plate = w.plate ∧ y.time = w.time ∧ y.flt = x.flt ∧ y.ctl.fwReady = true := by
    obtain ⟨hsh, hctl⟩ := State.fwShape_faultReply (x.journal h ⟨3, 0, 0, 0, v.flt.restartKind⟩) ⟨12, 0xF, if r = Restart.kept then 1 else 2, 0, 0, 0, []⟩
    rw [hy] at hsh hctl
    rw [x.journal_frame] at hsh hctl
    have hfw : y.fw = x.fw := by rw [← hy, State.faultReply_frame, x.journal_frame]
    have hxw : x.fw = w.fw ∧ x.hal = w.hal ∧ x.plate = w.plate ∧ x.time = w.time ∧ x.ctl.fwReady = true := by rw [← hx]; exact ⟨rfl, rfl, rfl, rfl, rfl⟩
    obtain ⟨x1, x2, x3, x4, x5⟩ := hxw
    refine ⟨hfw.trans x1, ?_, ?_, ?_, ?_, ?_⟩
    · rw [hsh]; exact x2
    · rw [hsh]; exact x3
    · rw [hsh]; exact x4
    · rw [hsh]
    · rw [hctl]; exact x5
  have hyboot : y.boot.digest = w.boot.digest ∧ y.boot.fwver = w.boot.fwver ∧ y.boot.slotRunning = w.boot.slotRunning := by
    have hb : y.boot = (x.journal h ⟨3, 0, 0, 0, v.flt.restartKind⟩).boot := by rw [← hy, State.faultReply_frame]
    have hxb : x.boot = w.boot := by rw [← hx]
    rw [hb, x.journal_boot, hxb]
    exact ⟨rfl, rfl, rfl⟩
  obtain ⟨hz, hzready⟩ := y.failHand_frame
  generalize y.failHand = z at hz hzready
  obtain ⟨hu, _⟩ := z.refillAll_effect
  generalize z.refillAll = u at hu
  obtain ⟨y1, y2, y3, y4, y5, y6⟩ := hyfw
  obtain ⟨b1, b2, b3⟩ := hyboot
  have huc : u.ctl.fwReady = true := by rw [hu]; exact hzready.trans y6
  have hub : u.boot = y.boot := by rw [hu, hz]
  have huf : u.flt = x.flt := by rw [hu, hz]; exact y5
  have hufw : u.fw = { w.fw with runlist := z.fw.runlist } := by rw [hu, ← y1]; exact congrArg State.fw hz
  have huh : u.hal = w.hal := by rw [hu, hz]; exact y2
  have hup : u.plate = w.plate := by rw [hu, hz]; exact y3
  have hut : u.time = w.time := by rw [hu, hz]; exact y4
  rw [hub, huf, ← hwb]
  exact ⟨huc, b1, b2, b3, hxf, ⟨_, hufw⟩, huh, hup, hut⟩

/-- Settles O46: the end of a lane check by `failLane` or `settle`, and of a restart by `warmRestartDone`. -/
theorem recoveries : Obligations.Recoveries := by
  intro s lane pass r h ready hs hready
  subst hready
  refine ⟨fun h1 h2 h3 h4 => ⟨fun hp ht hn => ?pass, fun hf => ?fail⟩, fun hw => ?_, fun hr => ?_, fun hr hv => ?_, fun v hr hv htodo => ?restart⟩
  case pass =>
    rw [exec_laneCheckDone lane pass h hs, laneCheckDone_passes ⟨h1, h2, h3, h4⟩ hp ht hn]
    have hq := State.queueShape_settle { s with flt := s.flt.without lane.val } lane.val
    generalize ({ s with flt := s.flt.without lane.val } : State).settle lane.val = u at hq
    have hf : u.flt = s.flt.without lane.val := by rw [hq]
    have hfailed : u.flt.failed = s.flt.failed := by rw [hf]; rfl
    have hm : u.fw.laneMap = s.fw.laneMap := by rw [hq]
    have hp : u.plate = s.plate := by rw [hq]
    refine ⟨_, rfl, ?_, hfailed, hm, hp⟩
    show _ ∉ u.flt.recov
    rw [hf]
    simp [Flt.without]
  case fail =>
    obtain ⟨k1, k2, k3, k4⟩ := s.failLane_effect h lane.val
    rw [exec_laneCheckDone lane pass h hs, laneCheckDone_fails ⟨h1, h2, h3, h4⟩ hf]
    exact ⟨_, rfl, k1, k2, k3, k4⟩
  · rw [exec_laneCheckDone lane pass h hs, laneCheckDone_waits]
    · rfl
    · rintro ⟨h1, h2, h3, h4⟩
      rcases hw with hw | hw | hw | hw
      · exact Bool.false_ne_true (hw.symm.trans h1)
      · exact Bool.false_ne_true (hw.symm.trans h2)
      · exact Bool.false_ne_true (hw.symm.trans h3)
      · exact hw h4
  · rw [exec_warmRestartDone r h hs, warmRestartDone, if_pos (by simp [hr])]
    rfl
  · rw [exec_warmRestartDone r h hs, warmRestartDone, if_neg (by simp [hr]), hv]
    rfl
  case restart =>
    have hframe := State.reloadFirmware_frame hv
    obtain ⟨w, u, hw, hu, h1, h2, h3, h4, h5, ⟨l, h6⟩, h7, h8, h9⟩ := warmRestartDone_effect (r := r) hr hv htodo
    have hvrec : v.flt.recov = s.flt.recov := by rw [hframe]
    have hvfw : v.fw = s.fw := by rw [hframe]
    have hvhal : v.hal = s.hal := by rw [hframe]
    have hvplate : v.plate = s.plate := by rw [hframe]
    have hvtime : v.time = s.time := by rw [hframe]
    have hno : u.flt.restarting = false := by
      refine List.any_eq_false.mpr fun x hx => ?_
      rw [(h5 x hx).2]
      exact Bool.false_ne_true
    rw [exec_warmRestartDone r h hs, hu]
    refine ⟨_, rfl, h1, hno, h2, h3, h4, fun x hx => hvrec ▸ (h5 x hx).1, ?_⟩
    cases r with
    | kept =>
      have hwv : w = v := hw.trans (if_neg (fun h => nomatch h))
      rw [hwv] at h6 h7 h8 h9
      rw [hvfw] at h6
      refine ⟨fun _ => ?_, (fun h => nomatch h), h8.trans hvplate, h9.trans hvtime⟩
      show u.fw.tensors = _ ∧ u.fw.programs = _ ∧ u.fw.laneMap = _ ∧ u.hal = _
      rw [h6]
      exact ⟨rfl, rfl, rfl, h7.trans hvhal⟩
    | lost =>
      obtain ⟨fw, hal, lanes, hlose, k1, k2, k3, k4, k5, k6⟩ := v.loseObjects_frame
      rw [hw.trans (if_pos rfl), hlose] at h6 h7 h8 h9
      refine ⟨(fun h => nomatch h), fun _ => ?_, h8.trans hvplate, h9.trans hvtime⟩
      show u.fw.attached = _ ∧ u.fw.tensors = _ ∧ u.fw.programs = _ ∧ u.fw.streams = _ ∧ u.fw.laneMap = _ ∧ u.hal.words = _
      rw [h6, h7]
      exact ⟨k1, k2, k3, k4, k5.trans (congrArg Fw.laneMap hvfw), k6⟩

end Sys2Proof.Machine
end

section
/-! SUPPORT. Moves between operating points and the PMBus transactions (R296-R301). -/
namespace Sys2Proof.Machine

/-! ### The slew -/

theorem State.pllSlewDone_none {s : State} (h : s.pwr.slewTo = none) : s.pllSlewDone = s := by
  unfold State.pllSlewDone
  rw [h]

/-- The point that the slew reaches is in force; a lower point, and one reached under another voltage, command theirs (R296). -/
theorem State.pllSlewDone_some {s : State} {p : Nat} (h : s.pwr.slewTo = some p) : s.pllSlewDone = { s with
    pwr := if (decide (p < s.pwr.op) || (s.pwr.vset.map fun v => decide (v ≠ s.pwr.plannedWord p)).getD false) && s.pins.vrAlertN then
      ({ s.pwr with op := p, windowOp := p, slewTo := none, fast := false, raise := if p < s.pwr.op then s.pwr.raise else none } : Pwr).commandWord
        (s.pwr.plannedWord p)
      else { s.pwr with op := p, windowOp := p, slewTo := none, fast := false, raise := if p < s.pwr.op then s.pwr.raise else none } } := by
  unfold State.pllSlewDone
  rw [h]
  dsimp only
  simp only [decide_eq_true_eq]
  rfl

/-- Commanding a voltage adds at most a transaction. -/
theorem Pwr.commandWord_frame (w : Pwr) (v : Nat) : w.commandWord v = { w with tx := if w.busOk then w.tx ++ [⟨0x21, v, false⟩] else w.tx } := by
  unfold Pwr.commandWord Pwr.send
  split <;> rfl

theorem Pwr.ite_commandWord (w : Pwr) (v : Nat) (c : Bool) : (if c then w.commandWord v else w) =
    { w with tx := if c = true ∧ w.busOk = true then w.tx ++ [⟨0x21, v, false⟩] else w.tx } := by
  rw [Pwr.commandWord_frame]
  cases c <;> cases w.busOk <;> rfl

/-! ### The transaction in progress -/

theorem exec_pmbusDone {s : State} (r : Option (BitVec 16)) (hs : s.works) : exec (.pmbusTransactionDone r) s = .next (s.keep (s.pmbusDone r)) :=
  (running_works _ hs : execPmbusTransactionDone r s = _)

section
variable {s : State} {x : Pmb} {rest : List Pmb} (h : s.pwr.tx = x :: rest)
include h

theorem State.pmbusDone_ok (v : BitVec 16) : s.pmbusDone (some v) = ({ s with pwr := { s.pwr with tx := rest } } : State).pmbusOk x v.toNat := by
  unfold State.pmbusDone
  rw [h]

theorem State.pmbusDone_again (ha : x.again = false) : s.pmbusDone none = { s with pwr := { s.pwr with tx := { x with again := true } :: rest } } := by
  unfold State.pmbusDone
  rw [h]
  dsimp only
  rw [if_neg (by rw [ha]; exact Bool.false_ne_true)]

theorem State.pmbusDone_lost (ha : x.again = true) : s.pmbusDone none = ({ s with pwr := { s.pwr with tx := rest } } : State).pmbusLost x := by
  unfold State.pmbusDone
  rw [h]
  dsimp only
  rw [if_pos ha]

end

/-- A transaction that failed twice, and that is neither a voltage command or read-back of a raise nor the status word of an alert (R300). -/
theorem State.pmbusLost_plain {s : State} {x : Pmb} (h : x.code = 0x8C ∨ x.code = 0x8D ∨ x.code = 0x03 ∨ s.pwr.raise = none ∧ x.code ≠ 0x79) :
    s.pmbusLost x = { s with pwr := { s.pwr with txFailed := some x.code } } := by
  unfold State.pmbusLost
  dsimp only
  split
  · next hc hr => rcases h with h | h | h | h <;> simp_all
  · next hc hr => rcases h with h | h | h | h <;> simp_all
  · next hc => rcases h with h | h | h | h <;> simp_all
  · rfl

/-- A raise whose voltage could not be commanded is given up. -/
theorem State.pmbusLost_command {s : State} {x : Pmb} {r : Raise} (hc : x.code = 0x21) (hr : s.pwr.raise = some r) (ha : r.acked = false)
    (hd : x.data = s.pwr.plannedWord r.top) : s.pmbusLost x = { s with pwr := { s.pwr with txFailed := some 0x21, raise := none } } := by
  obtain ⟨code, data, again⟩ := x
  subst hc
  unfold State.pmbusLost
  dsimp only
  rw [hr]
  exact if_pos ⟨hd, by simp [ha]⟩

section
variable {s : State} {x : Pmb} {v : Nat}

theorem State.pmbusOk_command (hc : x.code = 0x21) (hr : s.pwr.raise = none) : s.pmbusOk x v = { s with pwr := { s.pwr with vset := some x.data } } := by
  obtain ⟨code, data, again⟩ := x
  subst hc
  unfold State.pmbusOk
  dsimp only
  rw [hr]
  rfl

theorem State.pmbusOk_raise {r : Raise} (hc : x.code = 0x21) (hr : s.pwr.raise = some r) (hd : x.data = s.pwr.plannedWord r.top) :
    s.pmbusOk x v = { s with pwr := { s.pwr with vset := some x.data, raise := some { r with acked := true } } } := by
  obtain ⟨code, data, again⟩ := x
  subst hc
  unfold State.pmbusOk
  dsimp only
  rw [hr]
  exact congrArg (fun w => { s with pwr := w }) (if_pos hd)

theorem State.pmbusOk_vout (hc : x.code = 0x8B) (hd : x.data = 0) : s.pmbusOk x v =
    { s with pwr := { s.pwr with vout := ratRound (s.pwr.linear16 v), confirmed := ratRound (s.pwr.linear16 v) } } := by
  obtain ⟨code, data, again⟩ := x
  subst hc hd
  rfl

theorem State.pmbusOk_retry (hc : x.code = 0x8B) (hd : x.data = 2) : s.pmbusOk x v = { s with pwr := { s.pwr with
    vout := ratRound (s.pwr.linear16 v), confirmed := ratRound (s.pwr.linear16 v), pmb := 1, failedRaises := 0, failedIntervals := 0, txFailed := none } } := by
  obtain ⟨code, data, again⟩ := x
  subst hc hd
  rfl

theorem State.pmbusOk_readBack (hc : x.code = 0x8B) (hd : x.data = 1) : s.pmbusOk x v =
    ({ s with pwr := { s.pwr with vout := ratRound (s.pwr.linear16 v), confirmed := ratRound (s.pwr.linear16 v) } } : State).readBack (s.pwr.linear16 v) := by
  obtain ⟨code, data, again⟩ := x
  subst hc hd
  rfl

theorem State.pmbusOk_current (hc : x.code = 0x8C) : s.pmbusOk x v = { s with pwr := { s.pwr with
    iout := ratRound (linear11 v * 1000), prods := s.pwr.prods ++ [s.pwr.vout * ratRound (linear11 v * 1000)] } } := by
  obtain ⟨code, data, again⟩ := x
  subst hc
  rfl

theorem State.pmbusOk_status (hc : x.code = 0x79) (hd : x.data = 0) : s.pmbusOk x v =
    if v ≠ 0 then { s with pwr := { s.pwr with tx := ⟨0x03, 0, false⟩ :: s.pwr.tx } } else s := by
  obtain ⟨code, data, again⟩ := x
  subst hc hd
  rfl

theorem State.pmbusOk_alert (hc : x.code = 0x79) (hd : x.data = 1) : s.pmbusOk x v = s.alertStatus v := by
  obtain ⟨code, data, again⟩ := x
  subst hc hd
  rfl

end

/-! ### The read-back of a raise -/

section
variable {s : State} {r : Raise} {mv : Rat}

theorem State.readBack_good (hr : s.pwr.raise = some r) (h1 : (s.pwr.planned r.top : Rat) - 15 ≤ mv) (h2 : mv ≤ (s.pwr.planned r.top : Rat) + 15) :
    s.readBack mv = { s with pwr := s.pwr.raiseGood r } := by
  unfold State.readBack
  rw [hr]
  exact if_pos ⟨h1, h2⟩

theorem State.readBack_bad (hr : s.pwr.raise = some r) (h : mv < (s.pwr.planned r.top : Rat) - 15 ∨ (s.pwr.planned r.top : Rat) + 15 < mv) :
    s.readBack mv = s.raiseBad r := by
  unfold State.readBack
  rw [hr]
  refine if_neg fun ⟨h1, h2⟩ => ?_
  rcases h with h | h
  · exact absurd h1 (not_le.mpr h)
  · exact absurd h2 (not_le.mpr h)

theorem Pwr.raiseGood_effect (w : Pwr) (r : Raise) : (w.raiseGood r).tx = w.tx ∧ (w.raiseGood r).failedRaises = 0 ∧
    (r.top ≠ w.op → (w.raiseGood r).slewTo = some r.top ∧ (w.raiseGood r).raise = some { r with slewing := true }) ∧
    (r.top = w.op → (w.raiseGood r).slewTo = w.slewTo ∧ (w.raiseGood r).raise = none) := by
  unfold Pwr.raiseGood
  by_cases h : r.top = w.op
  · rw [if_pos h]
    exact ⟨rfl, rfl, fun h' => absurd h h', fun _ => ⟨rfl, rfl⟩⟩
  · rw [if_neg h]
    exact ⟨rfl, rfl, fun _ => ⟨rfl, rfl⟩, fun h' => absurd h' h⟩

/-- The first bad read-back of a raise is taken once more. -/
theorem State.raiseBad_first (h : r.second = false) : s.raiseBad r = { s with pwr := { s.pwr with raise := some { r with second := true } } } := by
  unfold State.raiseBad
  dsimp only
  rw [if_pos (by rw [h]; rfl)]

/-- The second gives the raise up, and the old voltage is commanded. -/
theorem State.raiseBad_second (h : r.second = true) (hf : s.pwr.failedRaises < 2) : s.raiseBad r =
    { s with pwr := { (s.pwr.commandWord r.old) with raise := none, failedRaises := s.pwr.failedRaises + 1 } } := by
  unfold State.raiseBad
  dsimp only
  rw [if_neg (by rw [h]; exact Bool.false_ne_true), if_neg (by omega)]

/-- The third failed raise fails PMBus. -/
theorem State.raiseBad_third (h : r.second = true) (hf : 2 ≤ s.pwr.failedRaises) : s.raiseBad r =
    ({ s with pwr := ({ (s.pwr.commandWord r.old) with raise := none, failedRaises := s.pwr.failedRaises + 1 } : Pwr).fail [⟨0x21, r.old, false⟩] } : State).raise
      (pmbusBurgee 0x8B) := by
  unfold State.raiseBad
  dsimp only
  rw [if_neg (by rw [h]; exact Bool.false_ne_true), if_pos (by omega)]

end

/-- A deferred Burgee of the power manager or of the control core enters the crossing of CCLK, which takes every one. -/
theorem State.raise_cclk (s : State) {b : Burgee} (hd : b.dom = 7) (hs : kindSev b.kind < 2) :
    s.raise b = { s with flt := (s.raise b).flt } ∧ Tbl.get [] (s.raise b).flt.cross 7 = Tbl.get [] s.flt.cross 7 ++ [b] := by
  rw [State.raise_low s b hs]
  refine ⟨rfl, ?_⟩
  have hcross : (s.flt.enter b).cross = Tbl.put 7 (Tbl.get [] s.flt.cross 7 ++ [b]) s.flt.cross := by
    unfold Flt.enter
    rw [hd]
    rfl
  exact (congrArg (fun t => Tbl.get [] t 7) hcross).trans (Tbl.get_put_same _ _ _ _)

/-- A bad read-back changes the power manager, and, when it fails PMBus, the collector. -/
theorem State.raiseBad_effect (s : State) (r : Raise) : s.raiseBad r = { s with pwr := (s.raiseBad r).pwr, flt := (s.raiseBad r).flt } ∧
    (r.second = false → (s.raiseBad r).pwr.tx = s.pwr.tx ∧ (s.raiseBad r).pwr.raise = some { r with second := true } ∧ (s.raiseBad r).flt = s.flt) ∧
    (r.second = true → (s.raiseBad r).pwr.raise = none ∧ (s.raiseBad r).pwr.failedRaises = s.pwr.failedRaises + 1) ∧
    (r.second = true → s.pwr.failedRaises < 2 → s.pwr.busOk = true → (s.raiseBad r).pwr.tx = s.pwr.tx ++ [⟨0x21, r.old, false⟩] ∧
      (s.raiseBad r).flt = s.flt) ∧
    (r.second = true → 2 ≤ s.pwr.failedRaises → (s.raiseBad r).pwr.tx = [⟨0x21, r.old, false⟩] ∧ (s.raiseBad r).pwr.pmb = 2 ∧
      Tbl.get [] (s.raiseBad r).flt.cross 7 = Tbl.get [] s.flt.cross 7 ++ [⟨9, 0, 59, 0x8B⟩]) := by
  cases h : r.second
  · rw [State.raiseBad_first h]
    exact ⟨rfl, fun _ => ⟨rfl, rfl, rfl⟩, (fun h => nomatch h), (fun h => nomatch h), fun h => nomatch h⟩
  · by_cases hf : s.pwr.failedRaises < 2
    · rw [State.raiseBad_second h hf, Pwr.commandWord_frame]
      exact ⟨rfl, (fun h => nomatch h), fun _ => ⟨rfl, rfl⟩, fun _ _ hb => ⟨if_pos hb, rfl⟩, fun _ h2 => absurd hf (by omega)⟩
    · rw [State.raiseBad_third h (by omega)]
      generalize hu : ({ s with pwr := Pwr.fail _ [⟨0x21, r.old, false⟩] } : State) = u
      have hup : u = { s with pwr := u.pwr } ∧ u.pwr.raise = none ∧ u.pwr.failedRaises = s.pwr.failedRaises + 1 ∧ u.pwr.tx = [⟨0x21, r.old, false⟩] ∧
          u.pwr.pmb = 2 := by rw [← hu]; exact ⟨rfl, rfl, rfl, rfl, rfl⟩
      obtain ⟨k1, k2, k3, k4, k5⟩ := hup
      obtain ⟨h1, h2⟩ := u.raise_cclk (b := pmbusBurgee 0x8B) rfl (by decide)
      have hp := u.raise_pwr (pmbusBurgee 0x8B)
      generalize u.raise (pmbusBurgee 0x8B) = v at h1 h2 hp
      have huf : u.flt = s.flt := by rw [k1]
      rw [hp, k2, k3, k4, k5, h2, huf]
      refine ⟨by rw [h1, k1], (fun h => nomatch h), fun _ => ⟨rfl, rfl⟩, fun _ h2 => absurd h2 hf, fun _ _ => ⟨rfl, rfl, rfl⟩⟩

/-- The status word of an alert is reported (R301). -/
theorem State.alertStatus_effect (s : State) (v : Nat) : s.alertStatus v =
    { s with pwr := { s.pwr with tx := (s.alertStatus v).pwr.tx }, flt := (s.alertStatus v).flt } ∧
    Tbl.get [] (s.alertStatus v).flt.cross 7 = Tbl.get [] s.flt.cross 7 ++ [⟨9, 1, 60, v⟩] ∧
    (s.pwr.busOk = true → (s.alertStatus v).pwr.tx = [⟨0x03, 0, false⟩] ++ s.pwr.tx ++ [⟨0x21, s.pwr.plannedWord 0, false⟩]) := by
  generalize hw : (if s.pwr.busOk then { s.pwr with tx := ⟨0x03, 0, false⟩ :: s.pwr.tx } else s.pwr : Pwr) = w
  have heq : s.alertStatus v = ({ s with pwr := w.commandWord (w.plannedWord 0) } : State).raise ⟨9, 1, 60, v⟩ := by
    unfold State.alertStatus
    rw [← hw]
    dsimp only
    split <;> rfl
  obtain ⟨h1, h2⟩ := State.raise_cclk { s with pwr := w.commandWord (w.plannedWord 0) } (b := ⟨9, 1, 60, v⟩) rfl (by show kindSev 60 < 2; decide)
  have hpwr := State.raise_pwr { s with pwr := w.commandWord (w.plannedWord 0) } ⟨9, 1, 60, v⟩
  rw [heq]
  generalize ({ s with pwr := w.commandWord (w.plannedWord 0) } : State).raise ⟨9, 1, 60, v⟩ = u at h1 h2 hpwr
  have hframe : w = { s.pwr with tx := w.tx } := by
    rw [← hw]
    split <;> rfl
  refine ⟨?_, h2, fun hb => ?_⟩
  · rw [h1, Pwr.commandWord_frame, hframe]
  · rw [if_pos hb] at hw
    subst hw
    rw [hpwr, Pwr.commandWord_frame]
    dsimp only
    exact (if_pos hb).trans rfl

theorem exec_voutSettleExpiry {s : State} (hs : s.works) : exec .voutSettleExpiry s = .next (s.keep s.voutSettleExpiry) :=
  (running_works _ hs : execVoutSettleExpiry s = _)

theorem exec_pmbusStatusPoll {s : State} (hs : s.works) : exec .pmbusStatusPoll s = .next (s.keep (if s.manages then s.pmbusPoll else s)) :=
  (running_works _ hs : execPmbusStatusPoll s = _)

theorem exec_pmbusRetryTimer {s : State} (hs : s.works) : exec .pmbusRetryTimer s = .next (s.keep (if s.manages then s.pmbusRetry else s)) :=
  (running_works _ hs : execPmbusRetryTimer s = _)

/-- The voltage that was read is shown and confirmed, and the transaction is done. -/
def State.readVout (s : State) (rest : List Pmb) (mv : Rat) : State :=
  { s with pwr := { s.pwr with tx := rest, vout := ratRound mv, confirmed := ratRound mv } }

theorem exec_readBack {s : State} {x : Pmb} {rest : List Pmb} {v : BitVec 16} (hs : s.works) (htx : s.pwr.tx = x :: rest) (hc : x.code = 0x8B)
    (hd : x.data = 1) : exec (.pmbusTransactionDone (some v)) s =
      .next (s.keep ((s.readVout rest (s.pwr.linear16 v.toNat)).readBack (s.pwr.linear16 v.toNat))) := by
  rw [exec_pmbusDone _ hs, State.pmbusDone_ok htx, State.pmbusOk_readBack hc hd]
  rfl

/-- Settles O47: the cases of the slew, of the settling time, of a transaction, and of the two timers. -/
theorem powerMoves : Obligations.PowerMoves := by
  intro s hs
  refine ⟨fun h => ?_, fun p hp => ?slew, fun r hr ha hsl hb hany => ?_, fun hr => ?_, fun v htx => ?_, fun x rest htx => ⟨fun ha => ?_, fun ha hc => ?_,
    fun r ha hc hr hk hd => ?_, fun v hc hr => ?_, fun v r hc hr hd => ?_, fun v hc hd => ?_, fun v hc hd => ?_, fun v r mv hc hd hr hmv => ⟨fun h1 h2 => ?good, fun hbad => ?bad⟩,
    fun v hc => ?_, fun v hc hd hv => ?_, fun v hc hd hv => ?_, fun v hc hd => ?alert⟩, fun hm hb => ?_, fun hm hp htx => ?_, fun hm => ⟨?_, ?_⟩⟩
  · rw [show exec .pllSlewDone s = _ from (running_works _ hs : execPllSlewDone s = _), State.pllSlewDone_none h]; rfl
  case slew =>
    rw [show exec .pllSlewDone s = _ from (running_works _ hs : execPllSlewDone s = _), State.pllSlewDone_some hp, Pwr.ite_commandWord]
    refine ⟨_, rfl, rfl, rfl, rfl, rfl, fun h => if_neg (by omega), fun h => if_pos h, fun h hv => if_neg ?_, fun h hb ha => if_pos ⟨?_, hb⟩⟩
    · rintro ⟨hc, -⟩
      simp only [Bool.and_eq_true, Bool.or_eq_true, decide_eq_true_eq] at hc
      rcases hc.1 with hlow | hoff
      · omega
      · cases hvs : s.pwr.vset with
        | none => rw [hvs] at hoff; exact Bool.false_ne_true hoff
        | some v => rw [hvs] at hoff; simp [hv v hvs] at hoff
    · rw [ha, Bool.and_true, Bool.or_eq_true]
      refine h.imp decide_eq_true ?_
      rintro ⟨v, hvs, hne⟩
      rw [hvs]
      exact decide_eq_true hne
  · rw [exec_voutSettleExpiry hs, State.voutSettleExpiry, hr]
    dsimp only
    rw [if_pos (by rw [ha, hsl, hb, hany]; rfl)]
    rfl
  · rw [exec_voutSettleExpiry hs, State.voutSettleExpiry, hr]; rfl
  · rw [exec_pmbusDone _ hs, State.pmbusDone, htx]; rfl
  · rw [exec_pmbusDone _ hs, State.pmbusDone_again htx ha]; rfl
  · rw [exec_pmbusDone _ hs, State.pmbusDone_lost htx ha, State.pmbusLost_plain (s := { s with pwr := { s.pwr with tx := rest } }) hc]; rfl
  · rw [exec_pmbusDone _ hs, State.pmbusDone_lost htx ha, State.pmbusLost_command (s := { s with pwr := { s.pwr with tx := rest } }) hc hr hk hd]; rfl
  · rw [exec_pmbusDone _ hs, State.pmbusDone_ok htx, State.pmbusOk_command (s := { s with pwr := { s.pwr with tx := rest } }) hc hr]; rfl
  · rw [exec_pmbusDone _ hs, State.pmbusDone_ok htx, State.pmbusOk_raise (s := { s with pwr := { s.pwr with tx := rest } }) hc hr hd]; rfl
  · rw [exec_pmbusDone _ hs, State.pmbusDone_ok htx, State.pmbusOk_vout hc hd]; rfl
  · rw [exec_pmbusDone _ hs, State.pmbusDone_ok htx, State.pmbusOk_retry hc hd]; exact ⟨_, rfl, rfl, rfl, rfl⟩
  case good =>
    subst hmv
    obtain ⟨k1, k2, k3, k4⟩ := Pwr.raiseGood_effect (s.readVout rest (s.pwr.linear16 v.toNat)).pwr r
    rw [exec_readBack hs htx hc hd, State.readBack_good (s := s.readVout rest (s.pwr.linear16 v.toNat)) hr h1 h2]
    exact ⟨(s.readVout rest (s.pwr.linear16 v.toNat)).pwr.raiseGood r, rfl, k1, k2, k3, k4⟩
  case bad =>
    subst hmv
    obtain ⟨k1, k2, k3, k4, k5⟩ := (s.readVout rest (s.pwr.linear16 v.toNat)).raiseBad_effect r
    rw [exec_readBack hs htx hc hd, State.readBack_bad (s := s.readVout rest (s.pwr.linear16 v.toNat)) hr hbad]
    refine ⟨_, rfl, ?_, k2, k3, k4, k5⟩
    rw [k1]
    rfl
  · rw [exec_pmbusDone _ hs, State.pmbusDone_ok htx, State.pmbusOk_current hc]; exact ⟨_, rfl, rfl⟩
  · rw [exec_pmbusDone _ hs, State.pmbusDone_ok htx, State.pmbusOk_status hc hd, if_neg (by rw [hv]; decide)]; rfl
  · have hv' : v.toNat ≠ 0 := fun h => hv (BitVec.eq_of_toNat_eq h)
    rw [exec_pmbusDone _ hs, State.pmbusDone_ok htx, State.pmbusOk_status hc hd, if_pos hv']; rfl
  case alert =>
    obtain ⟨h1, h2, h3⟩ := State.alertStatus_effect { s with pwr := { s.pwr with tx := rest } } v.toNat
    rw [exec_pmbusDone _ hs, State.pmbusDone_ok htx, State.pmbusOk_alert hc hd]
    generalize ({ s with pwr := { s.pwr with tx := rest } } : State).alertStatus v.toNat = u at h1 h2 h3
    refine ⟨_, rfl, ?_, h2, h3⟩
    rw [h1]; rfl
  · rw [exec_pmbusStatusPoll hs, if_pos hm, State.pmbusPoll, if_pos hb, Pwr.send, Pwr.send]
    dsimp only
    rw [List.append_assoc]
    rfl
  · rw [exec_pmbusRetryTimer hs, if_pos hm, State.pmbusRetry, if_pos ⟨hp, htx⟩, Pwr.send, htx]; rfl
  · rw [exec_pmbusStatusPoll hs, if_neg (by rw [hm]; exact Bool.false_ne_true)]; rfl
  · rw [exec_pmbusRetryTimer hs, if_neg (by rw [hm]; exact Bool.false_ne_true)]; rfl

end Sys2Proof.Machine
end

section
/-! SUPPORT. What the power manager measures (R172, R304, R309, R311-R313, R315, R316, R318, R321). -/
namespace Sys2Proof.Machine

/-! ### The control interval -/

theorem Pwr.accrueTo_frame (w : Pwr) (keys : List Nat) (on : Nat → Bool) (d : Rat) :
    w.accrueTo keys on d = { w with scopeDur := (w.accrueTo keys on d).scopeDur } := by
  unfold Pwr.accrueTo
  split <;> rfl

theorem Pwr.accrueInterval_frame (w : Pwr) : w.accrueInterval = { w with scopeDur := w.accrueInterval.scopeDur, durNs := w.accrueInterval.durNs } := by
  unfold Pwr.accrueInterval
  dsimp only
  refine foldl_keeps (fun v : Pwr => v = { w with scopeDur := v.scopeDur, durNs := v.durNs }) _ (fun v e hv => ?_) _ _ ?_
  · rw [Pwr.accrueTo_frame, hv]
  · split
    · rw [Pwr.accrueTo_frame]
    · rw [Pwr.accrueTo_frame, Pwr.accrueTo_frame w]

/-- The last 1,000 of a list with one more at its end. -/
theorem keepLast_ne_nil {α : Type} (l : List α) (x : α) : (l ++ [x]).drop (l.length + 1 - 1000) ≠ [] := by
  rw [← List.length_pos_iff, List.length_drop, List.length_append, List.length_singleton]
  omega

/-- The sample of a measured interval is kept. -/
theorem Pwr.addSample_effect (w : Pwr) (vm : Nat) (em : Rat) : w.addSample vm em = { w with samples := (w.addSample vm em).samples } ∧
    (w.measured = true → (w.addSample vm em).samples ≠ []) ∧ (w.measured = false → (w.addSample vm em).samples = w.samples) := by
  unfold Pwr.addSample
  cases hm : w.measured
  · exact ⟨rfl, fun h => absurd h Bool.false_ne_true, fun _ => rfl⟩
  · refine ⟨by simp only [if_true], fun _ => ?_, fun h => absurd h.symm Bool.false_ne_true⟩
    simp only [if_true]
    exact keepLast_ne_nil w.samples _

/-- The PMBus result of an interval (R300). -/
theorem Pwr.busCheck_frame (w : Pwr) : w.busCheck.1 = { w with
      failedIntervals := w.busCheck.1.failedIntervals, txFailed := none, pmb := w.busCheck.1.pmb, cal := w.busCheck.1.cal, vrValid := w.busCheck.1.vrValid
      raise := w.busCheck.1.raise, tx := w.busCheck.1.tx } ∧ (w.raise = none → w.busCheck.1.raise = none) := by
  unfold Pwr.busCheck
  dsimp only
  generalize (if w.txFailed.isSome = true then w.failedIntervals + 1 else 0) = fi
  split
  · exact ⟨rfl, fun _ => rfl⟩
  · exact ⟨rfl, fun h => h⟩

theorem Pwr.commandWord_eq (w : Pwr) (v : Nat) : w.commandWord v = { w with tx := (w.commandWord v).tx } := by
  rw [Pwr.commandWord_frame]

theorem Pwr.beginRaise_frame (w : Pwr) (p : Nat) : w.beginRaise p = { w with tx := (w.beginRaise p).tx, raise := (w.beginRaise p).raise } := by
  unfold Pwr.beginRaise Pwr.command
  rw [Pwr.commandWord_frame]

theorem Pwr.moveTo_frame (w : Pwr) (p : Nat) : w.moveTo p =
    { w with slewTo := (w.moveTo p).slewTo, raise := (w.moveTo p).raise, tx := (w.moveTo p).tx, windowOp := (w.moveTo p).windowOp } := by
  unfold Pwr.moveTo
  split
  · rfl
  · split
    · split
      · rw [Pwr.beginRaise_frame]
      · split <;> rfl
    · rfl

theorem Pwr.steer_frame (w : Pwr) (p : Nat) : w.steer p =
    { w with slewTo := (w.steer p).slewTo, raise := (w.steer p).raise, tx := (w.steer p).tx, windowOp := (w.steer p).windowOp } := by
  unfold Pwr.steer
  split
  · exact w.moveTo_frame p
  · split <;> rfl
  · split
    · split
      · rw [Pwr.moveTo_frame]
      · rfl
    · split
      · rfl
      · split
        · rw [Pwr.commandWord_frame]
        · rw [Pwr.moveTo_frame]

/-- A choice of OP0 begins a move to it when none is under way. -/
theorem Pwr.steer_zero {w : Pwr} (hr : w.raise = none) (hs : w.slewTo = none) (ho : 0 < w.op) : (w.steer 0).slewTo = some 0 := by
  unfold Pwr.steer
  rw [hr, hs]
  dsimp only
  unfold Pwr.moveTo
  rw [if_pos ho]

/-! ### A thermal emergency allows OP0 alone (R311) -/

theorem pickDuty_pos (fits : Nat → Bool) : ∀ d, 1 ≤ pickDuty fits d
  | 0 => Nat.le_refl 1
  | d + 1 => by
    unfold pickDuty
    split
    · omega
    · exact pickDuty_pos fits d

/-- A cap allowance has a positive duty limit. -/
theorem pickPoint_pos (skip : Nat → Bool) (fits : Nat → Nat → Bool) : ∀ p, 1 ≤ (pickPoint skip fits p).2
  | 0 => by
    unfold pickPoint
    split
    · show 1 ≤ 8; omega
    · exact pickDuty_pos _ _
  | p + 1 => by
    unfold pickPoint
    split
    · show 1 ≤ 8; omega
    · exact pickPoint_pos skip fits p

theorem lowerOf_cases (x y : Nat × Nat) : lowerOf x y = x ∧ rank x ≤ rank y ∨ lowerOf x y = y ∧ rank y < rank x := by
  unfold lowerOf
  split
  · exact .inl ⟨rfl, by assumption⟩
  · exact .inr ⟨rfl, by omega⟩

/-- The lower of two allowances with a positive duty has one, and ranks below both. -/
theorem lowerOf_pos {x y : Nat × Nat} (hx : 1 ≤ x.2) (hy : 1 ≤ y.2) : 1 ≤ (lowerOf x y).2 ∧ rank (lowerOf x y) ≤ rank x ∧ rank (lowerOf x y) ≤ rank y := by
  rcases lowerOf_cases x y with ⟨h, k⟩ | ⟨h, k⟩ <;> rw [h]
  · exact ⟨hx, Nat.le_refl _, k⟩
  · exact ⟨hy, Nat.le_of_lt k, Nat.le_refl _⟩

theorem Pwr.choose_emerg {w : Pwr} (he : w.emerg = true) (fits : Nat → Nat → Bool) (tj : Int) (alert : Bool) : (w.choose fits tj alert).applied.1 = 0 := by
  have h : 1 ≤ (w.choose fits tj alert).applied.2 ∧ rank (w.choose fits tj alert).applied ≤ rank (0, 8) := by
    unfold Pwr.choose
    dsimp only
    rw [if_pos he]
    have hcap := lowerOf_pos (pickPoint_pos w.withdrawn fits w.nextTarget) (y := (0, 8)) (by decide)
    have hal : 1 ≤ (if alert then ((0, 8) : Nat × Nat) else (w.nextTarget, 8)).2 := by split <;> (show 1 ≤ 8; omega)
    have hck : 1 ≤ (if w.clkFault then (w.op, 8) else (w.nextTarget, 8)).2 := by split <;> (show 1 ≤ 8; omega)
    have hpm : 1 ≤ (if w.pmb = 2 then (min w.op (w.confirmedPoint 7), 8) else (w.nextTarget, 8)).2 := by split <;> (show 1 ≤ 8; omega)
    have h1 := lowerOf_pos hal hck
    have h2 := lowerOf_pos (x := (w.nextTarget, 8)) (by show 1 ≤ 8; omega) hpm
    have h3 := lowerOf_pos hcap.1 h1.1
    have h4 := lowerOf_pos h3.1 h2.1
    exact ⟨h4.1, h4.2.1.trans (h3.2.1.trans hcap.2.2)⟩
  unfold rank at h
  omega

/-! ### The effect of an interval -/

theorem State.account_frame (s : State) (em : Rat) (vm : Nat) : s.account em vm = { s with
    pwr := { s.pwr with total := s.pwr.total + em, byPhase := (s.account em vm).pwr.byPhase }, fw := (s.account em vm).fw } := by
  unfold State.account
  dsimp only
  generalize hv : ({ s with pwr := { s.pwr with total := s.pwr.total + em, byPhase := _ } } : State) = v
  have hfold : ∀ (f : Nat × List Nat → Stream → Stream) (l : List (Nat × List Nat)), l.foldl (fun t e => t.modStream e.1 (f e)) v =
      { v with fw := (l.foldl (fun t e => t.modStream e.1 (f e)) v).fw } := fun f l =>
    foldl_keeps (fun u : State => u = { v with fw := u.fw }) _ (fun u e hu => by rw [State.modStream_frame, hu]) l v rfl
  rw [hfold (fun e x => { x with energy := x.energy + modelMj s.pwr.coef e.2 vm }), ← hv]

theorem State.controlInterval_idle {s : State} (h : s.pwr.pmb = 0) : s.controlInterval = s := by
  unfold State.controlInterval
  rw [if_pos h]

/-- The power manager after the choice `c` of an interval, with its readings queued. -/
def Pwr.chosen (w : Pwr) (c : Choice) (hist : List Rat) : Pwr :=
  let u := { w with
    hist := hist, target := c.target, thermal := c.thermal, active := c.reasons, whole := w.wholeOf c.reasons, seen := w.seen ||| c.reasons
    tj := w.intervalTj.1, sensor := w.intervalTj.2, tjMax := none, prods := [], duty := c.applied.2 }
  if u.busOk then (u.send 0x8B 0).send 0x8C 0 else u

/-- The end of an interval: the move towards point `p`, the registers, the accounts and the report of a failed PMBus. -/
def State.endInterval (s : State) (w : Pwr) (p : Nat) (em : Rat) (vm : Nat) (failed : Option Nat) : State :=
  let t := (({ s with pwr := (w.steer p).show_ }).account em vm).restartCounts
  match failed with
  | some k => t.raise (pmbusBurgee k)
  | none => t

/-- What an interval leaves of the power manager's state `v`, with its energy `em`. -/
structure Pwr.IntervalEnd (v w : Pwr) (em : Rat) : Prop where
  total : w.total = v.total + em
  prods : w.prods = []
  tjMax : w.tjMax = none
  hist : w.hist = (v.hist ++ [em]).drop (v.hist.length + 1 - 1000)
  measured : v.measured = true → w.samples ≠ []
  unmeasured : v.measured = false → w.samples = v.samples
  vout : w.shown.vout = v.vout
  iout : w.shown.iout = v.iout
  ofs : w.shown.ofs = v.ofs
  pmb : w.shown.pmb = w.pmb
  emerg : v.emerg = true → v.raise = none → v.slewTo = none → 0 < v.op → w.slewTo = some 0

/-- The end of an interval keeps what `steer` and the registers give it, and adds the interval's energy to the total. -/
theorem State.endInterval_frame (s : State) (w : Pwr) (p : Nat) (em : Rat) (vm : Nat) (failed : Option Nat) :
    s.endInterval w p em vm failed = { s with
      pwr := { (w.steer p).show_ with
        total := w.total + em, byPhase := (s.endInterval w p em vm failed).pwr.byPhase, act := (s.endInterval w p em vm failed).pwr.act }
      fw := (s.endInterval w p em vm failed).fw, flt := (s.endInterval w p em vm failed).flt } := by
  have htotal : (w.steer p).show_.total = w.total := by unfold Pwr.show_; rw [Pwr.steer_frame]
  unfold State.endInterval
  dsimp only
  have hacc := State.account_frame { s with pwr := (w.steer p).show_ } em vm
  generalize State.account _ em vm = t at hacc
  have ht : t.restartCounts = { s with
      pwr := { (w.steer p).show_ with total := w.total + em, byPhase := t.restartCounts.pwr.byPhase, act := t.restartCounts.pwr.act }
      fw := t.restartCounts.fw } := by
    unfold State.restartCounts
    rw [hacc, ← htotal]
  generalize t.restartCounts = u at ht
  split
  · rw [State.raise_low _ _ (by show kindSev 59 < 2; decide), ht]
  · rw [ht]

/-- The measured part of an interval: durations, fit samples and occurrences. -/
theorem Pwr.measure_frame (w : Pwr) (vm : Nat) (em : Rat) : (w.accrueInterval.addSample vm em).countOccs =
    { w with
      scopeDur := w.accrueInterval.scopeDur, durNs := w.accrueInterval.durNs, samples := (w.accrueInterval.addSample vm em).samples
      perLane := (w.accrueInterval.addSample vm em).countOccs.perLane } ∧
    (w.measured = true → (w.accrueInterval.addSample vm em).samples ≠ []) ∧
    (w.measured = false → (w.accrueInterval.addSample vm em).samples = w.samples) := by
  obtain ⟨h1, h2, h3⟩ := w.accrueInterval.addSample_effect vm em
  have hm : w.accrueInterval.measured = w.measured := by rw [Pwr.accrueInterval_frame]; rfl
  have hs : w.accrueInterval.samples = w.samples := by rw [Pwr.accrueInterval_frame]
  rw [hm] at h2 h3
  refine ⟨?_, h2, fun h => (h3 h).trans hs⟩
  have h4 : w.accrueInterval.addSample vm em = { w with
      scopeDur := w.accrueInterval.scopeDur, durNs := w.accrueInterval.durNs, samples := (w.accrueInterval.addSample vm em).samples } := by
    rw [h1, Pwr.accrueInterval_frame]
  generalize w.accrueInterval.addSample vm em = a at h4
  unfold Pwr.countOccs
  rw [h4]

theorem Pwr.chosen_frame (w : Pwr) (c : Choice) (hist : List Rat) : w.chosen c hist = { w with
    hist := hist, target := c.target, thermal := c.thermal, active := c.reasons, whole := w.wholeOf c.reasons, seen := w.seen ||| c.reasons
    tj := w.intervalTj.1, sensor := w.intervalTj.2, tjMax := none, prods := [], duty := c.applied.2, tx := (w.chosen c hist).tx } := by
  unfold Pwr.chosen
  dsimp only
  split <;> rfl

theorem State.controlInterval_effect {s : State} (h : s.pwr.pmb ≠ 0) : Pwr.IntervalEnd s.pwr s.controlInterval.pwr (s.pwr.intervalMj (s.pwr.volts s.pwr.op)) ∧
    s.controlInterval = { s with pwr := s.controlInterval.pwr, fw := s.controlInterval.fw, flt := s.controlInterval.flt } := by
  obtain ⟨em, hem⟩ : ∃ em, s.pwr.intervalMj (s.pwr.volts s.pwr.op) = em := ⟨_, rfl⟩
  obtain ⟨w0, hw0⟩ : ∃ w0, (s.pwr.accrueInterval.addSample (s.pwr.volts s.pwr.op) em).countOccs = w0 := ⟨_, rfl⟩
  obtain ⟨c, hist, hctl, hhist, hc⟩ : ∃ c hist, s.controlInterval = s.endInterval (w0.busCheck.1.chosen c hist) c.applied.1 em (s.pwr.volts s.pwr.op) w0.busCheck.2 ∧
      hist = (w0.hist ++ [em]).drop (w0.hist.length + 1 - 1000) ∧ (w0.busCheck.1.emerg = true → c.applied.1 = 0) := by
    subst hw0 hem
    exact ⟨_, _, if_neg h, rfl, fun he => Pwr.choose_emerg he _ _ _⟩
  obtain ⟨hmeas, hm1, hm2⟩ := s.pwr.measure_frame (s.pwr.volts s.pwr.op) em
  rw [hw0] at hmeas
  generalize (s.pwr.accrueInterval.addSample (s.pwr.volts s.pwr.op) em).samples = samples at hmeas hm1 hm2
  obtain ⟨hb1, hb2⟩ := w0.busCheck_frame
  generalize w0.busCheck = b at hctl hc hb1 hb2
  have hw := b.1.chosen_frame c hist
  generalize b.1.chosen c hist = w at hctl hw
  have hv := w.steer_frame c.applied.1
  have hraise : w0.raise = s.pwr.raise := by rw [hmeas]
  have hwr : w.raise = b.1.raise ∧ w.slewTo = s.pwr.slewTo ∧ w.op = s.pwr.op ∧ b.1.emerg = s.pwr.emerg := by
    rw [hw, hb1, hmeas]
    exact ⟨rfl, rfl, rfl, rfl⟩
  obtain ⟨hwr1, hwr2, hwr3, hem'⟩ := hwr
  have hslew : s.pwr.emerg = true → s.pwr.raise = none → s.pwr.slewTo = none → 0 < s.pwr.op → (w.steer c.applied.1).slewTo = some 0 := by
    intro he hr hs ho
    rw [hc (hem'.trans he)]
    exact Pwr.steer_zero (hwr1.trans (hb2 (hraise.trans hr))) (hwr2.trans hs) (hwr3 ▸ ho)
  have hframe := s.endInterval_frame w c.applied.1 em (s.pwr.volts s.pwr.op) b.2
  rw [← hctl] at hframe
  generalize s.controlInterval = u at hframe
  generalize w.steer c.applied.1 = v at hv hslew hframe
  have hhist' : hist = (s.pwr.hist ++ [em]).drop (s.pwr.hist.length + 1 - 1000) := by rw [hhist, hmeas]
  rw [hem]
  refine ⟨?_, by rw [hframe]⟩
  rw [hframe]
  unfold Pwr.show_
  constructor
  · show w.total + em = _
    rw [hw, hb1, hmeas]
  · show v.prods = _
    rw [hv, hw]
  · show v.tjMax = _
    rw [hv, hw]
  · show v.hist = _
    rw [hv, hw, hhist']
  · intro hm
    show v.samples ≠ _
    rw [hv, hw, hb1, hmeas]
    exact hm1 hm
  · intro hm
    show v.samples = _
    rw [hv, hw, hb1, hmeas]
    exact hm2 hm
  · show v.vout = _
    rw [hv, hw, hb1, hmeas]
  · show v.iout = _
    rw [hv, hw, hb1, hmeas]
  · show v.ofs = _
    rw [hv, hw, hb1, hmeas]
  · rfl
  · exact hslew

end Sys2Proof.Machine
end

section
/-! SUPPORT. Sensor samples, the thermal emergency and the lanes without sensors (R308, R309, R311, R343). -/
namespace Sys2Proof.Machine

/-! ### Firmware's work on a lane without sensors leaves the power manager alone -/

/-- The power manager, the Plates, the Halyards and the time unit are the same. -/
def State.PowerKept (s t : State) : Prop := t.pwr = s.pwr ∧ t.plate = s.plate ∧ t.hal = s.hal ∧ t.time = s.time

theorem State.PowerKept.refl (s : State) : s.PowerKept s := ⟨rfl, rfl, rfl, rfl⟩

theorem State.PowerKept.trans {s t u : State} (h : s.PowerKept t) (k : t.PowerKept u) : s.PowerKept u := by
  obtain ⟨h1, h2, h3, h4⟩ := h
  obtain ⟨k1, k2, k3, k4⟩ := k
  exact ⟨k1.trans h1, k2.trans h2, k3.trans h3, k4.trans h4⟩

theorem State.PowerKept.foldl {α : Type} {f : State → α → State} (hf : ∀ (s : State) a, s.PowerKept (f s a)) (l : List α) (s : State) :
    s.PowerKept (l.foldl f s) :=
  foldl_keeps (fun u => s.PowerKept u) f (fun u a hu => hu.trans (hf u a)) l s (.refl s)

theorem State.powerKept_modStream (s : State) (c : Nat) (f : Stream → Stream) : s.PowerKept (s.modStream c f) := by
  rw [State.modStream_frame]; exact ⟨rfl, rfl, rfl, rfl⟩

theorem State.PowerKept.of_queueShape {s t : State} (h : s.QueueShape t) : s.PowerKept t := by
  rw [h]; exact ⟨rfl, rfl, rfl, rfl⟩

theorem State.powerKept_recordOf (s : State) (h : HostView) (c : Nat) : s.PowerKept (s.recordOf h c) := by
  unfold State.recordOf
  split
  · obtain ⟨hs, _, hp, _⟩ := s.putRecord_shape h (c - Stream.idx _) none Stream.positionWords
    unfold State.record
    exact ⟨hp, hs.plate, hs.hal, by rw [hs.1]⟩
  · exact .refl s

theorem State.powerKept_raise_low (s : State) {b : Burgee} (h : kindSev b.kind < 2) : s.PowerKept (s.raise b) := by
  rw [State.raise_low s b h]; exact ⟨rfl, rfl, rfl, rfl⟩

theorem State.powerKept_substitute (s : State) (h : HostView) (n p q : Nat) (rest : List Nat) : s.PowerKept (s.substitute h n p q rest) := by
  have hcopy : s.PowerKept (s.copyStore h n) :=
    .foldl (fun s k => by rw [s.rereadProgram_frame h k true]; exact ⟨rfl, rfl, rfl, rfl⟩) _ s
  have hmods : (s.copyStore h n).PowerKept ((s.laneStreams p).foldl (fun s c => s.modStream c s.forgetBlocks) (s.copyStore h n)) :=
    .foldl (fun s c => s.powerKept_modStream c s.forgetBlocks) _ _
  unfold State.substitute
  dsimp only
  generalize List.foldl _ (s.copyStore h n) _ = v at hmods ⊢
  exact (hcopy.trans hmods).trans ⟨rfl, rfl, rfl, rfl⟩

theorem State.powerKept_retireLane (s : State) (h : HostView) (n p : Nat) : s.PowerKept (s.retireLane h n p) := by
  unfold State.retireLane
  dsimp only
  generalize hw : State.recordAll _ h _ = w
  have hshape : s.PowerKept w := by
    rw [← hw]
    refine .trans (.foldl (fun s c => ?_) _ s) (.foldl (fun s c => s.powerKept_recordOf h c) _ _)
    exact (s.powerKept_modStream c _).trans (.of_queueShape (State.queueShape_delist _ c))
  generalize hv : State.setLane _ p Lane.reset = v
  have hwv : w.PowerKept v := by rw [← hv]; exact ⟨rfl, rfl, rfl, rfl⟩
  have hraise := v.powerKept_raise_low (b := ⟨0, p, 44, n⟩) (by show kindSev 44 < 2; decide)
  generalize v.raise ⟨0, p, 44, n⟩ = u at hraise ⊢
  exact ((hshape.trans hwv).trans hraise).trans ⟨rfl, rfl, rfl, rfl⟩

theorem State.powerKept_failLane (s : State) (h : HostView) (p : Nat) : s.PowerKept (s.failLane h p) := by
  obtain ⟨v, hv⟩ : ∃ v : State, { s with flt := { s.flt.without p with failed := setBit s.flt.failed p true } } = v := ⟨_, rfl⟩
  have hfail : s.failLane h p = match v.logicalOf p with
      | none => { v with fw := { v.fw with spares := v.fw.spares.erase p } }
      | some n => match v.fw.spares with
        | q :: rest => v.substitute h n p q rest
        | [] => v.retireLane h n p := by subst hv; rfl
  have hsv : s.PowerKept v := by rw [← hv]; exact ⟨rfl, rfl, rfl, rfl⟩
  refine hsv.trans ?_
  rw [hfail]
  cases v.logicalOf p with
  | none => exact ⟨rfl, rfl, rfl, rfl⟩
  | some n =>
    dsimp only
    cases v.fw.spares with
    | nil => exact v.powerKept_retireLane h n p
    | cons q rest => exact v.powerKept_substitute h n p q rest

theorem State.powerKept_loseSensors (s : State) (h : HostView) (p : Nat) : s.PowerKept (s.loseSensors h p) := by
  have hfinish : s.PowerKept (s.finishSubst h p) := by
    have hfail := s.powerKept_failLane h p
    unfold State.finishSubst
    cases s.logicalOf p with
    | none => exact hfail
    | some n =>
      dsimp only
      generalize s.failLane h p = v at hfail ⊢
      cases v.physOf n with
      | none => exact hfail
      | some q => exact hfail.trans (.of_queueShape (v.queueShape_unstop q .subst))
  unfold State.loseSensors
  split
  · exact .refl s
  · split
    · exact s.powerKept_failLane h p
    · dsimp only
      split
      · exact hfinish
      · exact ⟨rfl, rfl, rfl, rfl⟩

theorem State.powerKept_checkSensors (s : State) (h : HostView) : s.PowerKept (s.checkSensors h) :=
  .foldl (fun s p => by
    split
    · exact s.powerKept_loseSensors h p
    · exact .refl s) _ s

/-! ### The sample -/

/-- Marking sensors invalid marks each of them, and no other. -/
theorem find_markInvalid (i : Nat) : ∀ (l : List Nat) (t : Tbl Bool),
    ((Tbl.find (l.foldl (fun t i => Tbl.set false t i true) t) i).isSome ↔ i ∈ l ∨ (Tbl.find t i).isSome)
  | [], t => by simp
  | j :: l, t => by
    rw [List.foldl_cons, find_markInvalid i l]
    have hset : Tbl.set false t j true = Tbl.put j true t := if_neg (by decide)
    rw [hset]
    by_cases hj : i = j
    · subst hj; simp
    · rw [Tbl.find_put_other _ _ hj]; simp [hj]

/-- A raise of the sensors found invalid leaves everything but the collector's crossings. -/
theorem State.raiseSensors_frame (l : List Nat) (s : State) : s.raiseAll (l.map fun i => ⟨9, 2, 61, i⟩) =
    { s with flt := (s.raiseAll (l.map fun i => ⟨9, 2, 61, i⟩)).flt } ∧ (s.raiseAll (l.map fun i => ⟨9, 2, 61, i⟩)).flt.failed = s.flt.failed := by
  unfold State.raiseAll
  rw [List.foldl_map]
  refine foldl_keeps (fun u : State => u = { s with flt := u.flt } ∧ u.flt.failed = s.flt.failed) _ (fun u i hu => ?_) _ _ ⟨rfl, rfl⟩
  obtain ⟨h1, h2⟩ := hu
  have hlow := State.raise_low u ⟨9, 2, 61, i⟩ (by show kindSev 61 < 2; decide)
  obtain ⟨hg, _⟩ := Flt.enter_note u.flt ⟨9, 2, 61, i⟩
  rw [hlow]
  refine ⟨?_, (congrArg Flt.failed hg).trans h2⟩
  generalize (u.flt.enter ⟨9, 2, 61, i⟩).note ⟨9, 2, 61, i⟩ = f
  rw [h1]

/-- The readings that a sample brings: an injected one reads 160 degrees. -/
def Pwr.injectSensor (w : Pwr) (r : List Int) : List Int := match w.flawSensor with
  | some i => r.set i (160 * 16)
  | none => r

/-- The state in which a sample has marked the sensors `l` invalid and reported them. -/
def State.markSensors (s : State) (l : List Nat) : State :=
  State.raiseAll { s with pwr := { s.pwr with flawSensor := none, invalid := l.foldl (fun t i => Tbl.set false t i true) s.pwr.invalid } }
    (l.map fun i => ⟨9, 2, 61, i⟩)

/-- The emergency of a sample `q` whose valid sensors are `live` (R311). -/
def State.reactHeat (s : State) (q : List Int) (live : List Nat) : State :=
  match live.find? fun i => decide (nth 0 q i ≥ 115 * 16) with
  | some i =>
    if s.pwr.emerg then s
    else ({ s with pwr := { s.pwr.force0 with emerg := true, active := setBit s.pwr.active 2 true, seen := setBit s.pwr.seen 2 true } }).raise
      ⟨9, 2, 62, i⟩
  | none =>
    if s.pwr.emerg && live.all fun i => decide (nth 0 q i < 100 * 16) then { s with pwr := { s.pwr with emerg := false, thermal := some (0, 8) } }
    else s

theorem State.sensorSample_eq (s : State) (r : List Int) : ∃ top, s.sensorSample r =
    State.reactHeat { s.markSensors (s.newInvalid (s.pwr.injectSensor r)) with
      pwr := { (s.markSensors (s.newInvalid (s.pwr.injectSensor r))).pwr with tjMax := top } } (s.pwr.injectSensor r)
      (s.markSensors (s.newInvalid (s.pwr.injectSensor r))).liveSensors := ⟨_, rfl⟩

theorem State.markSensors_effect (s : State) (l : List Nat) : s.markSensors l = { s with
      pwr := { s.pwr with flawSensor := none, invalid := l.foldl (fun t i => Tbl.set false t i true) s.pwr.invalid }, flt := (s.markSensors l).flt } ∧
    (s.markSensors l).flt.failed = s.flt.failed := by
  unfold State.markSensors
  generalize hv : ({ s with pwr := { s.pwr with flawSensor := none, invalid := _ } } : State) = v
  obtain ⟨h1, h2⟩ := v.raiseSensors_frame l
  generalize v.raiseAll _ = u at h1 h2 ⊢
  refine ⟨by rw [h1, ← hv], by rw [h2, ← hv]⟩

/-- The sensors that a sample leaves live are those present, used and not invalid. -/
theorem State.mem_liveSensors (s : State) (i : Nat) : i ∈ s.liveSensors ↔
    i < 44 ∧ s.sensorPresent i = true ∧ (Tbl.find s.pwr.invalid i).isNone = true ∧ s.sensorUsed i = true := by
  unfold State.liveSensors
  rw [List.mem_filter, List.mem_range, Bool.and_eq_true, Bool.and_eq_true, and_assoc]

theorem State.reactHeat_effect (s : State) (q : List Int) (live : List Nat) : s.PowerKept { s.reactHeat q live with pwr := s.pwr } ∧
    (s.reactHeat q live).pwr.flawSensor = s.pwr.flawSensor ∧ (s.reactHeat q live).pwr.invalid = s.pwr.invalid ∧
    ((∃ i ∈ live, 115 * 16 ≤ nth 0 q i) → (s.reactHeat q live).pwr.emerg = true ∧
      (s.pwr.emerg = false → (s.reactHeat q live).pwr.slewTo = some 0 ∧ (s.reactHeat q live).pwr.raise = none ∧ (s.reactHeat q live).pwr.fast = true)) ∧
    ((∀ i ∈ live, nth 0 q i < 100 * 16) → (s.reactHeat q live).pwr.emerg = false) := by
  unfold State.reactHeat
  cases hf : live.find? fun i => decide (nth 0 q i ≥ 115 * 16) with
  | some i =>
    have hi : 115 * 16 ≤ nth 0 q i := by simpa using List.find?_some hf
    have hmem := List.mem_of_find?_eq_some hf
    have hcool : ¬∀ i ∈ live, nth 0 q i < 100 * 16 := fun h => by have := h i hmem; omega
    dsimp only
    cases he : s.pwr.emerg
    · rw [if_neg Bool.false_ne_true, State.raise_low _ _ (by show kindSev 62 < 2; decide)]
      exact ⟨⟨rfl, rfl, rfl, rfl⟩, rfl, rfl, fun _ => ⟨rfl, fun _ => ⟨rfl, rfl, rfl⟩⟩, fun h => absurd h hcool⟩
    · rw [if_pos rfl]
      exact ⟨⟨rfl, rfl, rfl, rfl⟩, rfl, rfl, fun _ => ⟨he, fun h => nomatch h⟩, fun h => absurd h hcool⟩
  | none =>
    have hnone : ¬∃ i ∈ live, 115 * 16 ≤ nth 0 q i := fun ⟨i, hm, hi⟩ => by
      have := List.find?_eq_none.mp hf i hm
      simp only [decide_eq_true_eq] at this
      omega
    dsimp only
    split
    · exact ⟨⟨rfl, rfl, rfl, rfl⟩, rfl, rfl, fun h => absurd h hnone, fun _ => rfl⟩
    · next hn =>
      refine ⟨⟨rfl, rfl, rfl, rfl⟩, rfl, rfl, fun h => absurd h hnone, fun h => ?_⟩
      cases he : s.pwr.emerg with
      | false => rfl
      | true => exact absurd (by rw [he, Bool.true_and, List.all_eq_true]; exact fun i hi => decide_eq_true (h i hi)) hn

/-- What a sample `q` leaves: the invalid sensors `l` beside those before, and the emergency. -/
structure State.Sampled (s t : State) (q : List Int) (l : List Nat) : Prop where
  kept : t.plate = s.plate ∧ t.hal = s.hal ∧ t.time = s.time
  flaw : t.pwr.flawSensor = none
  invalid : ∀ i, i ∈ l ∨ (Tbl.find s.pwr.invalid i).isSome → (Tbl.find t.pwr.invalid i).isSome
  hot : ∀ i, i < 44 → s.sensorPresent i = true → (Tbl.find s.pwr.invalid i).isNone → i ∉ l → s.sensorUsed i = true → 115 * 16 ≤ nth 0 q i →
    t.pwr.emerg = true ∧ (s.pwr.emerg = false → t.pwr.slewTo = some 0 ∧ t.pwr.raise = none ∧ t.pwr.fast = true)
  cool : (∀ i, i < 44 → nth 0 q i < 100 * 16) → t.pwr.emerg = false

theorem State.sensorSample_effect (s : State) (r : List Int) : s.Sampled (s.sensorSample r) (s.pwr.injectSensor r)
    (s.newInvalid (s.pwr.injectSensor r)) := by
  obtain ⟨top, ht⟩ := s.sensorSample_eq r
  generalize s.pwr.injectSensor r = q at ht ⊢
  generalize s.newInvalid q = l at ht ⊢
  obtain ⟨hm, hfail⟩ := s.markSensors_effect l
  rw [ht]
  generalize s.markSensors l = v at hm hfail ⊢
  generalize hw : ({ v with pwr := { v.pwr with tjMax := top } } : State) = w
  obtain ⟨⟨_, k1, k2, k3⟩, h2, h3, h4, h5⟩ := w.reactHeat_effect q v.liveSensors
  generalize w.reactHeat q v.liveSensors = t at *
  have hinv : v.pwr.invalid = l.foldl (fun t i => Tbl.set false t i true) s.pwr.invalid := by rw [hm]
  have hwe : w.pwr.emerg = s.pwr.emerg := by rw [← hw, hm]
  have hwi : w.pwr.invalid = v.pwr.invalid := by rw [← hw]
  refine ⟨⟨?_, ?_, ?_⟩, ?_, fun i hi => ?_, fun i h44 hp hv hn hu hq => ?_, fun hc => ?_⟩
  · exact k1.trans (by rw [← hw, hm])
  · exact k2.trans (by rw [← hw, hm])
  · exact k3.trans (by rw [← hw, hm])
  · exact h2.trans (by rw [← hw, hm])
  · rw [h3, hwi, hinv]
    exact (find_markInvalid i l _).mpr hi
  · rw [← hwe]
    refine h4 ⟨i, (v.mem_liveSensors i).mpr ⟨h44, ?_, ?_, ?_⟩, hq⟩
    · rw [hm]; exact hp
    · rw [hinv, Option.isNone_iff_eq_none, ← Option.not_isSome_iff_eq_none, find_markInvalid]
      rintro (h | h)
      · exact hn h
      · rw [Option.isNone_iff_eq_none] at hv
        rw [hv] at h
        exact nomatch h
    · unfold State.sensorUsed at hu ⊢
      rw [hfail]
      exact hu
  · exact h5 fun i hi => hc i ((v.mem_liveSensors i).mp hi).1

end Sys2Proof.Machine
end

section
/-! SUPPORT. Wear measurements, the fit of the energy model and the activity windows (R172, R313, R315, R316, R318). -/
namespace Sys2Proof.Machine

/-! ### Wear -/

theorem find_foldl_put (f : Nat → Nat × Nat) : ∀ (l : List Nat) (t : Tbl (Nat × Nat)) (k : Nat),
    k ∈ l ∨ Tbl.find t k = some (f k) → Tbl.find (l.foldl (fun t m => Tbl.put m (f m) t) t) k = some (f k)
  | [], t, k, h => h.resolve_left List.not_mem_nil
  | m :: l, t, k, h => by
    refine find_foldl_put f l _ k ?_
    by_cases hk : k = m
    · subst hk; exact .inr (Tbl.find_put_same _ _ _)
    · rw [Tbl.find_put_other _ _ hk]
      exact h.imp_left fun h => (List.mem_cons.mp h).resolve_left hk

theorem State.journalWear_frame (s : State) (h : HostView) (p o : Nat) (b : Bool) :
    s.journalWear h p o b = { s with boot := (s.journalWear h p o b).boot, fwWrites := (s.journalWear h p o b).fwWrites } := s.journal_frame h _

theorem State.foldPlan_frame (s : State) (h : HostView) :
    s.foldPlan h = { s with boot := (s.foldPlan h).boot, fwWrites := (s.foldPlan h).fwWrites } := by
  unfold State.foldPlan State.putEntry
  split
  · rfl
  · split <;> rfl

theorem Pwr.raiseOfs_frame (w : Pwr) (p : Nat) (quiet : Bool) : w.raiseOfs p quiet = { w with
    ofs := w.ofs.set p (min 40 (nth 0 w.ofs p + 5)), raiseHold := Tbl.put p 10 w.raiseHold, vset := some w.wordNow
    tx := (w.raiseOfs p quiet).tx, raise := (w.raiseOfs p quiet).raise } := by
  unfold Pwr.raiseOfs
  dsimp only
  split
  · rfl
  · split
    · rw [Pwr.beginRaise_frame]
    · rfl

/-- What the reaction to a drift changes: the offset or the withdrawn points, and no reading. -/
theorem State.reactDrift_effect (s : State) (h : HostView) (p m : Nat) :
    s.PowerKept { s.reactDrift h p m with pwr := s.pwr } ∧ (s.reactDrift h p m).pwr.wdata = s.pwr.wdata ∧
    (nth 0 s.pwr.ofs p < 40 → Tbl.get 0 s.pwr.raiseHold p = 0 → (s.reactDrift h p m).pwr.ofs = s.pwr.ofs.set p (min 40 (nth 0 s.pwr.ofs p + 5))) ∧
    (40 ≤ nth 0 s.pwr.ofs p → s.pwr.withdrawn p = false → (s.reactDrift h p m).pwr.retired = (s.pwr.retire p).retired) := by
  unfold State.reactDrift
  dsimp only
  by_cases ho : nth 0 s.pwr.ofs p ≥ 40
  · rw [if_pos ho]
    cases hw : s.pwr.withdrawn p
    · rw [if_neg Bool.false_ne_true]
      have hj := s.journalWear_frame h p (nth 0 s.pwr.ofs p) true
      generalize s.journalWear h p _ true = v at hj ⊢
      generalize hr : ({ v with pwr := v.pwr.retire p } : State) = w
      have hf := w.foldPlan_frame h
      generalize w.foldPlan h = u at hf ⊢
      have hu : u.plate = s.plate ∧ u.hal = s.hal ∧ u.time = s.time ∧ u.pwr = s.pwr.retire p := by
        rw [hf, ← hr, hj]; exact ⟨rfl, rfl, rfl, rfl⟩
      obtain ⟨h1, h2, h3, h4⟩ := hu
      have hraise := u.powerKept_raise_low (b := ⟨9, 3, 63, p * 65536 + m⟩) (by show kindSev 63 < 2; decide)
      generalize u.raise _ = t at hraise ⊢
      obtain ⟨k1, k2, k3, k4⟩ := hraise
      refine ⟨⟨rfl, k2.trans h1, k3.trans h2, k4.trans h3⟩, ?_, fun h => absurd ho (by omega), fun _ _ => ?_⟩
      · rw [k1, h4]; rfl
      · rw [k1, h4]
    · rw [if_pos rfl]
      exact ⟨⟨rfl, rfl, rfl, rfl⟩, rfl, fun h => absurd ho (by omega), fun _ h => nomatch h⟩
  · rw [if_neg ho]
    by_cases hh : Tbl.get 0 s.pwr.raiseHold p = 0
    · rw [if_neg (not_not_intro hh)]
      have hj := s.journalWear_frame h p (nth 0 s.pwr.ofs p + 5) (s.pwr.withdrawn p)
      generalize s.journalWear h p _ _ = v at hj ⊢
      have hro := v.pwr.raiseOfs_frame p v.alertOn
      generalize v.pwr.raiseOfs p v.alertOn = w at hro ⊢
      generalize hr : ({ v with pwr := w } : State) = x
      have hf := x.foldPlan_frame h
      generalize x.foldPlan h = u at hf ⊢
      have hu : u.plate = s.plate ∧ u.hal = s.hal ∧ u.time = s.time ∧ u.pwr = w := by
        rw [hf, ← hr, hj]; exact ⟨rfl, rfl, rfl, rfl⟩
      obtain ⟨h1, h2, h3, h4⟩ := hu
      refine ⟨⟨rfl, h1, h2, h3⟩, ?_, fun _ _ => ?_, fun h => absurd h ho⟩
      · rw [h4, hro, hj]
      · rw [h4, hro, hj]
    · rw [if_pos hh]
      exact ⟨⟨rfl, rfl, rfl, rfl⟩, rfl, fun _ h => absurd h hh, fun h => absurd h ho⟩

/-- The power manager with the readings of one wear measurement, none of them injected. -/
def State.wearRead (s : State) (temp : Int) (rs : List Nat) (mon : Nat) (drift : Int) : State :=
  { s with pwr := { s.pwr with
      flawWear := none, wdata := s.monitors.foldl (fun t m => Tbl.put m (s.pwr.op, nth 0 rs m) t) s.pwr.wdata
      raiseHold := if s.pwr.planInForce s.pwr.op then Tbl.set 0 s.pwr.raiseHold s.pwr.op (Tbl.get 0 s.pwr.raiseHold s.pwr.op - 1) else s.pwr.raiseHold
      wearMon := mon, wearDrift := drift } }

theorem State.measureWear_eq {s : State} (h : HostView) (temp : Int) (rs : List Nat) (hf : s.pwr.flawWear = none) : ∃ mon drift,
    (∀ e, topDrift (s.drifts s.pwr.op temp rs) = some e → 2 / 100 < e.2 → s.measureWear h temp rs = (s.wearRead temp rs mon drift).reactDrift h s.pwr.op e.1) ∧
    ((∀ e, topDrift (s.drifts s.pwr.op temp rs) = some e → e.2 ≤ 2 / 100) → s.measureWear h temp rs = s.wearRead temp rs mon drift) := by
  unfold State.measureWear
  rw [hf]
  dsimp only
  cases ht : topDrift (s.drifts s.pwr.op temp rs) with
  | none =>
    refine ⟨s.pwr.wearMon, s.pwr.wearDrift, (fun e he => nomatch he), fun _ => ?_⟩
    rfl
  | some e =>
    obtain ⟨m, d⟩ := e
    refine ⟨m, (d * 10000).floor, fun x hx hd => ?_, fun hd => ?_⟩
    · cases hx
      exact if_pos hd
    · exact if_neg (not_lt.mpr (hd _ rfl))

/-- What a wear measurement leaves (R315, R316, R318). -/
theorem State.measureWear_effect {s : State} (h : HostView) (temp : Int) (rs : List Nat) (hf : s.pwr.flawWear = none) :
    s.PowerKept { s.measureWear h temp rs with pwr := s.pwr } ∧
    (∀ k ∈ s.monitors, Tbl.find (s.measureWear h temp rs).pwr.wdata k = some (s.pwr.op, nth 0 rs k)) ∧
    ((∀ e, topDrift (s.drifts s.pwr.op temp rs) = some e → e.2 ≤ 2 / 100) →
      (s.measureWear h temp rs).pwr.ofs = s.pwr.ofs ∧ (s.measureWear h temp rs).pwr.retired = s.pwr.retired) ∧
    (∀ e, topDrift (s.drifts s.pwr.op temp rs) = some e → 2 / 100 < e.2 →
      (nth 0 s.pwr.ofs s.pwr.op < 40 → Tbl.get 0 s.pwr.raiseHold s.pwr.op ≤ (if s.pwr.planInForce s.pwr.op then 1 else 0) →
        (s.measureWear h temp rs).pwr.ofs = s.pwr.ofs.set s.pwr.op (min 40 (nth 0 s.pwr.ofs s.pwr.op + 5))) ∧
      (40 ≤ nth 0 s.pwr.ofs s.pwr.op → s.pwr.withdrawn s.pwr.op = false → (s.measureWear h temp rs).pwr.retired = (s.pwr.retire s.pwr.op).retired)) := by
  obtain ⟨mon, drift, hhigh, hlow⟩ := State.measureWear_eq h temp rs hf
  generalize s.measureWear h temp rs = u at *
  obtain ⟨v, hv⟩ : ∃ v, s.wearRead temp rs mon drift = v := ⟨_, rfl⟩
  have hkept : s.PowerKept { v with pwr := s.pwr } := by rw [← hv]; exact ⟨rfl, rfl, rfl, rfl⟩
  have hdata : ∀ k ∈ s.monitors, Tbl.find v.pwr.wdata k = some (s.pwr.op, nth 0 rs k) := by
    intro k hk
    rw [← hv]
    exact find_foldl_put (fun m => (s.pwr.op, nth 0 rs m)) _ _ _ (.inl hk)
  have hofs : v.pwr.ofs = s.pwr.ofs ∧ v.pwr.retired = s.pwr.retired := by rw [← hv]; exact ⟨rfl, rfl⟩
  have hhold : v.pwr.raiseHold = if s.pwr.planInForce s.pwr.op then Tbl.set 0 s.pwr.raiseHold s.pwr.op (Tbl.get 0 s.pwr.raiseHold s.pwr.op - 1)
      else s.pwr.raiseHold := by rw [← hv]; rfl
  rw [hv] at hhigh hlow
  cases ht : topDrift (s.drifts s.pwr.op temp rs) with
  | none =>
    have hu := hlow fun e he => nomatch ht.symm.trans he
    rw [hu]
    exact ⟨hkept, hdata, fun _ => hofs, fun e he => nomatch he⟩
  | some e =>
    by_cases hd : 2 / 100 < e.2
    · have hu := hhigh e ht hd
      obtain ⟨⟨_, k1, k2, k3⟩, h2, h3, h4⟩ := v.reactDrift_effect h s.pwr.op e.1
      rw [hu]
      generalize v.reactDrift h s.pwr.op e.1 = w at *
      obtain ⟨_, j1, j2, j3⟩ := hkept
      refine ⟨⟨rfl, k1.trans j1, k2.trans j2, k3.trans j3⟩, fun k hk => h2 ▸ hdata k hk, fun hl => absurd (hl e rfl) (not_le.mpr hd), fun x hx _ => ?_⟩
      cases hx
      refine ⟨fun ho hr => ?_, fun ho hw => ?_⟩
      · rw [hofs.1] at h3
        refine h3 ho ?_
        rw [hhold]
        cases hp : s.pwr.planInForce s.pwr.op <;> rw [hp] at hr
        · simpa using hr
        · simp only [if_true] at hr ⊢
          rw [Tbl.get_set_same]
          omega
      · rw [hofs.1] at h4
        have hwv : v.pwr.withdrawn s.pwr.op = false := by unfold Pwr.withdrawn at hw ⊢; rw [hofs.2]; exact hw
        rw [h4 ho hwv]
        unfold Pwr.retire
        dsimp only
        rw [hofs.2]
    · have hu := hlow fun x hx => by rw [ht] at hx; cases hx; exact not_lt.mp hd
      rw [hu]
      exact ⟨hkept, hdata, fun _ => hofs, fun x hx h2 => by cases hx; exact absurd h2 hd⟩

/-- A point is withdrawn with every point above it (R318). -/
theorem Pwr.withdrawn_retire {w : Pwr} {p q : Nat} (hp : p ≤ q) (hq : q < w.retired.length) : nth false (w.retire p).retired q = true := by
  unfold nth Pwr.retire
  simp [hq, hp]

theorem nth_set_same {l : List Nat} {p v : Nat} (hp : p < l.length) : nth 0 (l.set p v) p = v := by
  unfold nth
  simp [hp]

/-! ### The fit and the activity window -/

theorem State.energyModelFit_idle {s : State} (h : s.pwr.busOk = false ∨ s.pwr.samples = []) : s.energyModelFit = s := by
  unfold State.energyModelFit
  dsimp only
  refine if_pos ?_
  rcases h with h | h <;> simp [h]

theorem State.energyModelFit_effect {s : State} (hb : s.pwr.busOk = true) (hn : s.pwr.samples ≠ []) :
    s.energyModelFit = { s with pwr := { s.pwr with coef := s.energyModelFit.pwr.coef, cal := s.energyModelFit.pwr.cal }, free := s.energyModelFit.free } ∧
    (s.energyModelFit.pwr.cal = false → s.energyModelFit.pwr.coef = s.pwr.coef) ∧
    (s.energyModelFit.pwr.cal = true →
      ratSum (s.pwr.samples.map fun x => x.estimate s.energyModelFit.pwr.coef) - ratSum (s.pwr.samples.map (·.mj)) ≤ ratSum (s.pwr.samples.map (·.mj)) / 20 ∧
      ratSum (s.pwr.samples.map (·.mj)) - ratSum (s.pwr.samples.map fun x => x.estimate s.energyModelFit.pwr.coef) ≤ ratSum (s.pwr.samples.map (·.mj)) / 20) := by
  unfold State.energyModelFit
  dsimp only
  rw [if_neg (by simp [hb, hn])]
  generalize solveRows 7 0 (normalRows s.pwr.samples) [] = sol
  generalize sol.getD _ = coef
  generalize hok : (decide (ratSum (s.pwr.samples.map fun x => x.estimate coef) - ratSum (s.pwr.samples.map (·.mj)) ≤
    ratSum (s.pwr.samples.map (·.mj)) / 20) && decide (ratSum (s.pwr.samples.map (·.mj)) - ratSum (s.pwr.samples.map fun x => x.estimate coef) ≤
    ratSum (s.pwr.samples.map (·.mj)) / 20)) = ok
  cases ok
  · refine ⟨?_, fun _ => rfl, fun h => nomatch h⟩
    split <;> rfl
  · rw [Bool.and_eq_true, decide_eq_true_eq, decide_eq_true_eq] at hok
    refine ⟨?_, (fun h => nomatch h), fun _ => hok⟩
    split <;> rfl

/-- The level of an activity window (R172). -/
def windowLevel (l top : Nat) : Nat := if l < top then l + 1 else if top < l then l - 1 else l

/-- The next window's level stands, and its filler is counted. -/
def State.fillWindow (s : State) (p level top : Nat) : State :=
  let t := s.modLane p fun l => { l with level := level }
  let filler := windowCycles s.pwr.windowOp * level / 8 - windowCycles s.pwr.windowOp * top / 8
  if filler = 0 then t else t.tallyBlock fillerClass filler

/-- The next window counts to `RAMP`, with `d` its time (R312). -/
def State.rampWindow (s : State) (p : Nat) (d : Rat) : State :=
  let keys := match s.runsOn p with
    | some c => (131072 + c) :: ((s.phaseOf c).map (65536 + ·)).toList
    | none => []
  let w := s.pwr.accrueTo keys (fun k => decide (k = 3)) d
  { s with pwr := { w with act := { w.act with rampNs := w.act.rampNs + d } } }

theorem State.activityWindow_eq (s : State) (p work top : Nat) (h : (if s.pwr.emerg then 0 else min work s.pwr.duty) = top) :
    s.activityWindow p work = if windowLevel (s.lane p).level top = top then s.fillWindow p (windowLevel (s.lane p).level top) top
      else (s.fillWindow p (windowLevel (s.lane p).level top) top).rampWindow p ((windowCycles s.pwr.windowOp : Rat) * 1000 / s.pwr.mhz) := by
  subst h
  rfl

theorem State.fillWindow_frame (s : State) (p level top : Nat) : ∃ block, s.fillWindow p level top = { s.modLane p fun l => { l with level := level } with
    pwr := { s.pwr with act := { s.pwr.act with block := block } } } := by
  unfold State.fillWindow
  dsimp only
  split
  · exact ⟨s.pwr.act.block, rfl⟩
  · exact ⟨_, rfl⟩

theorem State.rampWindow_frame (s : State) (p : Nat) (d : Rat) : ∃ dur, s.rampWindow p d =
    { s with pwr := { s.pwr with act := { s.pwr.act with rampNs := s.pwr.act.rampNs + d }, scopeDur := dur } } := by
  unfold State.rampWindow
  dsimp only
  rw [Pwr.accrueTo_frame]
  exact ⟨_, rfl⟩

theorem State.activityWindow_effect (s : State) (p work top : Nat) (h : (if s.pwr.emerg then 0 else min work s.pwr.duty) = top) :
    s.activityWindow p work = { s with
      lanes := (s.activityWindow p work).lanes
      pwr := { s.pwr with act := (s.activityWindow p work).pwr.act, scopeDur := (s.activityWindow p work).pwr.scopeDur } } ∧
    (∀ q, q ≠ p → (s.activityWindow p work).lane q = s.lane q) ∧
    (s.activityWindow p work).lane p = { s.lane p with level := windowLevel (s.lane p).level top } ∧
    (s.activityWindow p work).pwr.act.rampNs = if windowLevel (s.lane p).level top = top then s.pwr.act.rampNs
      else s.pwr.act.rampNs + (windowCycles s.pwr.windowOp : Rat) * 1000 / s.pwr.mhz := by
  rw [s.activityWindow_eq p work top h]
  generalize windowLevel (s.lane p).level top = lv
  obtain ⟨block, hf⟩ := s.fillWindow_frame p lv top
  have hself : (s.fillWindow p lv top).lane p = { s.lane p with level := lv } := by
    rw [hf]; exact s.lane_modLane_same p fun l => { l with level := lv }
  have hother : ∀ q, q ≠ p → (s.fillWindow p lv top).lane q = s.lane q := fun q hq => by
    rw [hf]; exact s.lane_modLane_other (fun l => { l with level := lv }) hq
  have hshape : s.fillWindow p lv top = { s with lanes := (s.fillWindow p lv top).lanes, pwr := { s.pwr with act := { s.pwr.act with block := block } } } := by
    rw [hf]; rfl
  generalize s.fillWindow p lv top = v at hself hother hshape ⊢
  by_cases hl : lv = top
  · rw [if_pos hl, if_pos hl]
    exact ⟨by rw [hshape], hother, hself, by rw [hshape]⟩
  · rw [if_neg hl, if_neg hl]
    obtain ⟨dur, hr⟩ := v.rampWindow_frame p ((windowCycles s.pwr.windowOp : Rat) * 1000 / s.pwr.mhz)
    rw [hr]
    exact ⟨by rw [hshape], hother, hself, by rw [hshape]⟩

/-! ### The statement -/

theorem exec_controlInterval {s : State} (hs : s.works) : exec .controlInterval s = .next (s.keep (if s.manages then s.controlInterval else s)) :=
  (running_works _ hs : execControlInterval s = _)

theorem exec_sensorSample {s : State} (r : List Int) (h : HostView) (hs : s.works) : exec (.sensorSample r h) s =
    .next (s.keep (if (s.sensorSample r).ctl.fwReady then (s.sensorSample r).checkSensors h else s.sensorSample r)) :=
  (running_works _ hs : execSensorSample r h s = _)

theorem exec_wearMeasurement {s : State} (temp : Int) (rs : List Nat) (h : HostView) (hs : s.works) : exec (.wearMeasurement temp rs h) s =
    .next (s.keep (if s.manages && s.ctl.fwReady then s.measureWear h temp rs else s)) :=
  (running_works _ hs : execWearMeasurement temp rs h s = _)

theorem exec_energyModelFit {s : State} (hs : s.works) : exec .energyModelFit s = .next (s.keep (if s.manages then s.energyModelFit else s)) :=
  (running_works _ hs : execEnergyModelFit s = _)

theorem exec_activityWindow {s : State} (lane : Fin 10) (work : Fin 9) (hs : s.works) :
    exec (.activityWindow lane work) s = .next (s.keep (s.activityWindow lane.val work.val)) :=
  (running_works _ hs : execActivityWindow lane work s = _)

/-- Settles O48, from what each of the power manager's measurements leaves. -/
theorem powerMeasures : Obligations.PowerMeasures := by
  intro s temp r rs h lane work hs
  refine ⟨fun hi => ?_, fun hm hp => ?_, ?_, fun hm hfw hf ho hr => ?_, ?_, ?_⟩
  · rw [exec_controlInterval hs]
    rcases hi with hi | hi
    · rw [hi]; rfl
    · rw [State.controlInterval_idle hi, ite_self]; rfl
  · obtain ⟨he, hshape⟩ := State.controlInterval_effect hp
    rw [exec_controlInterval hs, if_pos hm]
    generalize s.controlInterval = u at he hshape ⊢
    refine ⟨s.keep u, _, rfl, rfl, he.total, he.prods, he.tjMax, he.hist, he.measured, he.unmeasured, he.vout, he.iout, he.ofs, he.pmb, he.emerg, ?_⟩
    rw [hshape]
    exact ⟨rfl, rfl, rfl, rfl, rfl, rfl⟩
  · have hsm := s.sensorSample_effect r
    have hck := (s.sensorSample r).powerKept_checkSensors h
    rw [exec_sensorSample r h hs]
    generalize s.sensorSample r = t at hsm hck ⊢
    obtain ⟨u, hu⟩ : ∃ u, (if t.ctl.fwReady then t.checkSensors h else t) = u := ⟨_, rfl⟩
    have hkept : t.PowerKept u := by
      rw [← hu]
      split
      · exact hck
      · exact .refl t
    obtain ⟨k1, k2, k3, k4⟩ := hkept
    obtain ⟨h1, h2, h3⟩ := hsm.kept
    have hflaw := hsm.flaw
    have hinv := hsm.invalid
    have hhot := hsm.hot
    have hcool := hsm.cool
    rw [← k1] at hflaw hinv hhot hcool
    rw [hu]
    refine ⟨s.keep u, s.pwr.injectSensor r, rfl, rfl, hflaw, hinv, fun i hi hp hv hn hf hq => hhot i hi hp hv hn ?_ hq, hcool,
      k2.trans h1, k3.trans h2, k4.trans h3⟩
    unfold State.sensorUsed
    rcases hf with hf | hf <;> simp [hf]
  · obtain ⟨⟨_, h1, h2, h3⟩, hdata, hlow, hhigh⟩ := State.measureWear_effect h temp rs hf
    rw [exec_wearMeasurement temp rs h hs, hm, hfw, if_pos (by rfl)]
    generalize s.measureWear h temp rs = u at h1 h2 h3 hdata hlow hhigh ⊢
    refine ⟨s.keep u, rfl, hdata, hlow, fun e he hd => ⟨fun h40 hh => ?_, fun h40 hw p hp hlen => ?_⟩, h1, h2, h3⟩
    · exact (congrArg (fun l => nth 0 l s.pwr.op) ((hhigh e he hd).1 h40 hh)).trans (nth_set_same ho)
    · exact (congrArg (fun l => nth false l p) ((hhigh e he hd).2 h40 hw)).trans (Pwr.withdrawn_retire hp hlen)
  · rw [exec_energyModelFit hs]
    by_cases hi : s.manages = false ∨ s.pwr.busOk = false ∨ s.pwr.samples = []
    · have hu : (if s.manages then s.energyModelFit else s) = s := by
        rcases hi with hi | hi
        · rw [hi]; rfl
        · rw [State.energyModelFit_idle hi, ite_self]
      rw [hu]
      refine ⟨s, rfl, rfl, fun _ => rfl, fun hm hb hn => ?_⟩
      rcases hi with hi | hi | hi
      · exact nomatch hm.symm.trans hi
      · exact nomatch hb.symm.trans hi
      · exact absurd hi hn
    · simp only [not_or, Bool.not_eq_false] at hi
      obtain ⟨hm, hb, hn⟩ := hi
      obtain ⟨hshape, hold, hnew⟩ := State.energyModelFit_effect hb hn
      rw [if_pos hm]
      generalize s.energyModelFit = u at hshape hold hnew ⊢
      refine ⟨s.keep u, rfl, ?_, fun hi => ?_, fun _ _ _ => ⟨hold, fun hc => ⟨_, _, rfl, rfl, hnew hc⟩⟩⟩
      · rw [hshape]; rfl
      · rw [hm, hb] at hi
        exact absurd (hi.resolve_left (fun h => nomatch h)) (fun h => hn (h.resolve_left fun h => nomatch h))
  · rw [exec_activityWindow lane work hs]
    obtain ⟨h1, h2, h3, h4⟩ := s.activityWindow_effect lane.val work.val _ rfl
    generalize s.activityWindow lane.val work.val = u at h1 h2 h3 h4 ⊢
    have hlev : ((s.keep u).lane lane.val).level = _ := congrArg Lane.level h3
    refine ⟨s.keep u, _, _, rfl, rfl, rfl, ?_, h2, h3, ?_⟩
    · rw [h1]; rfl
    · rw [hlev]
      exact h4

end Sys2Proof.Machine
end

section
/-! SUPPORT. The boot from `START` to `READY`, and its watchdog (R285, R354-R357, R359, R362, R364). -/
namespace Sys2Proof.Machine

/-! ### Records, steps and levels -/

/-- A record of a step changes the journal's own fields and firmware's writes. -/
theorem State.stepRecord_frame (s : State) (h : HostView) (o d : Nat) : ∃ jfail next w,
    s.stepRecord h o d = { s with boot := { s.boot with jfail := jfail, nextSeq := next }, fwWrites := w } := by
  unfold State.stepRecord
  generalize (⟨1, s.boot.step, s.boot.recLevel, o, d⟩ : RecBody) = r
  refine ⟨(s.journal h r).boot.jfail, (s.journal h r).boot.nextSeq, (s.journal h r).fwWrites, ?_⟩
  rw [← s.journal_boot h r]
  exact s.journal_frame h r

/-- What passing the step in hand changes. -/
theorem State.passStep_frame (s : State) (h : HostView) (alt : Bool) (d : Nat) : ∃ result jfail next w,
    s.passStep h alt d = { s with boot := { s.boot with result := result, jfail := jfail, nextSeq := next }, fwWrites := w } := by
  unfold State.passStep
  obtain ⟨jfail, next, w, hr⟩ := s.stepRecord_frame h (if alt then 2 else 1) d
  dsimp only
  rw [hr]
  exact ⟨_, jfail, next, w, rfl⟩

/-- A step other than the Burin test and the wear replan begins with its record alone. -/
theorem State.enterStep_frame (s : State) (h : HostView) {k : Nat} (level : Nat) (h5 : k ≠ 5) (h8 : k ≠ 8) : ∃ jfail next w, s.enterStep h k level =
    { s with boot := { s.boot with step := k, level := level, begun := true, jfail := jfail, nextSeq := next }, fwWrites := w } := by
  unfold State.enterStep
  dsimp only
  split
  · exact absurd rfl h5
  · exact absurd rfl h8
  · exact State.stepRecord_frame { s with boot := { s.boot with step := k, level := level, begun := true } } h 0 0

theorem State.nextLevel_frame (s : State) (h : HostView) (d : Nat) (h5 : s.boot.step ≠ 5) (h8 : s.boot.step ≠ 8) : ∃ jfail next w,
    s.nextLevel h d = { s with boot := { s.boot with level := s.boot.level + 1, begun := true, jfail := jfail, nextSeq := next }, fwWrites := w } := by
  unfold State.nextLevel
  obtain ⟨jfail, next, w, hr⟩ := s.stepRecord_frame h 3 d
  dsimp only
  rw [hr]
  obtain ⟨j2, n2, w2, h2⟩ := State.enterStep_frame { s with boot := { s.boot with jfail := jfail, nextSeq := next }, fwWrites := w } h
    (s.boot.level + 1) h5 h8
  exact ⟨j2, n2, w2, h2⟩

theorem State.beginStep_frame (s : State) (h : HostView) {k : Nat} (h5 : k ≠ 5) (h8 : k ≠ 8) (h9 : k ≠ 9) : ∃ level jfail next w, s.beginStep h k =
    { s with boot := { s.boot with step := k, level := level, begun := true, jfail := jfail, nextSeq := next }, fwWrites := w } := by
  unfold State.beginStep
  dsimp only
  rw [if_neg fun h => h9 h.1]
  exact ⟨_, s.enterStep_frame h _ h5 h8⟩

/-- A link training that is skipped leaves the link off, and `TIME_LOCK` begins. -/
theorem State.skipTrain_effect (s : State) (h : HostView) : (s.skipTrain h).boot.step = 10 ∧ (s.skipTrain h).link.st = 5 := by
  unfold State.skipTrain
  dsimp only
  generalize hv : ({ s with boot := { s.boot.outcome 9 3 with step := 9, level := 2 }, link := { s.link with st := 5 } } : State) = v
  have hst : v.link.st = 5 := by rw [← hv]
  obtain ⟨j, n, w, hr⟩ := v.stepRecord_frame h 4 0
  generalize v.stepRecord h 4 0 = u at hr ⊢
  generalize Boot.levelOf _ 10 = l
  obtain ⟨j2, n2, w2, h2⟩ := u.enterStep_frame h (k := 10) l (by decide) (by decide)
  rw [h2]
  exact ⟨rfl, by rw [hr]; exact hst⟩

/-! ### The wear replan begins (R299, R356) -/

theorem State.restorePlan_frame (s : State) (h : HostView) : ∃ pwr jfail, s.restorePlan h =
    { s with pwr := pwr, boot := { s.boot with jfail := jfail } } := by
  unfold State.restorePlan
  split
  · exact ⟨_, _, rfl⟩
  · split
    · exact ⟨_, _, rfl⟩
    · exact ⟨_, _, rfl⟩

theorem State.vrAlert_frame (s : State) : ∃ pwr free flt, s.vrAlert = { s with pwr := pwr, free := free, flt := flt } := by
  by_cases hb : s.pwr.pmb = 1
  · exact ⟨_, _, _, State.vrAlert_bus hb⟩
  · exact ⟨_, _, _, State.vrAlert_noBus hb⟩

theorem State.beginReplan_frame (s : State) (h : HostView) : ∃ pwr jfail free flt, s.beginReplan h =
    { s with pwr := pwr, boot := { s.boot with jfail := jfail }, free := free, flt := flt } := by
  unfold State.beginReplan
  obtain ⟨pwr, jfail, hr⟩ := s.restorePlan_frame h
  rw [hr]
  dsimp only
  split
  · exact ⟨_, jfail, s.free, s.flt, rfl⟩
  · generalize hv : ({ s with pwr := _, boot := { s.boot with jfail := jfail } } : State) = v
    obtain ⟨w, free, flt, ha⟩ := v.vrAlert_frame
    rw [ha, ← hv]
    exact ⟨w, jfail, free, flt, rfl⟩

/-- `WEAR_REPLAN` begins: nothing of the running image or the lanes changes. -/
theorem State.beginStep_replan (s : State) (h : HostView) : (s.beginStep h 8).boot.step = 8 ∧ (s.beginStep h 8).boot.fwver = s.boot.fwver ∧
    (s.beginStep h 8).boot.slotRunning = s.boot.slotRunning ∧ (s.beginStep h 8).boot.digest = s.boot.digest ∧ (s.beginStep h 8).lanes = s.lanes := by
  unfold State.beginStep
  dsimp only
  rw [if_neg fun h => absurd h.1 (by decide)]
  generalize s.boot.levelOf 8 = level
  have henter : s.enterStep h 8 level =
      (State.stepRecord { s with boot := { s.boot with step := 8, level := level, begun := true } } h 0 0).beginReplan h := rfl
  rw [henter]
  generalize hv : ({ s with boot := { s.boot with step := 8, level := level, begun := true } } : State) = v
  obtain ⟨j, n, w, hr⟩ := v.stepRecord_frame h 0 0
  generalize v.stepRecord h 0 0 = u at hr ⊢
  obtain ⟨pwr, jfail, free, flt, hp⟩ := u.beginReplan_frame h
  rw [hp, hr, ← hv]
  exact ⟨rfl, rfl, rfl, rfl, rfl⟩

/-! ### The ends of the steps -/

theorem State.bootStep_done {s : State} (h : HostView) (e : StepEnd) (hd : s.boot.done = true) : s.bootStep h e = s := if_pos hd

section
variable {s : State} (h : HostView) (e : StepEnd) (hd : s.boot.done = false)
include hd

theorem State.bootStep_early (hk : s.boot.step = 1 ∨ s.boot.step = 2 ∨ s.boot.step = 3) : s.bootStep h e = s.endEarly h e.ok := by
  unfold State.bootStep
  rw [hd, if_neg Bool.false_ne_true]
  rcases hk with hk | hk | hk <;> simp only [hk]

theorem State.bootStep_plates (hk : s.boot.step = 4) : s.bootStep h e = s.endPlates h e := by
  unfold State.bootStep
  rw [hd, if_neg Bool.false_ne_true]
  simp only [hk]

theorem State.bootStep_verify (hk : s.boot.step = 7) : s.bootStep h e = s.endVerify h := by
  unfold State.bootStep
  rw [hd, if_neg Bool.false_ne_true]
  simp only [hk]

theorem State.bootStep_train (hk : s.boot.step = 9) : s.bootStep h e = s.endTrain h e.ok := by
  unfold State.bootStep
  rw [hd, if_neg Bool.false_ne_true]
  simp only [hk]

theorem State.bootStep_time (hk : s.boot.step = 10) : s.bootStep h e = s.endTime h e.ok := by
  unfold State.bootStep
  rw [hd, if_neg Bool.false_ne_true]
  simp only [hk]

theorem State.bootStep_ready (hk : s.boot.step = 11) : s.bootStep h e = s.endReady h e.ok := by
  unfold State.bootStep
  rw [hd, if_neg Bool.false_ne_true]
  simp only [hk]

end

theorem State.endEarly_fails (s : State) (h : HostView) : s.endEarly h false = s.bootStop := rfl

theorem State.endEarly_passes {s : State} (h : HostView) (hk : s.boot.step < 3) : s.endEarly h true =
    { s with boot := { s.boot.outcome s.boot.step 1 with step := s.boot.step + 1, level := 0 } } := if_pos hk

/-- A Plate march that fails goes on at level 1, and the short one stops the boot. -/
theorem State.endPlates_fails {s : State} (h : HostView) {e : StepEnd} (he : e.ok = false) (hk : s.boot.step = 4) :
    (s.endPlates h e).boot.bistRows = BitVec.ofNat 16 e.rows ∧
    (s.boot.level = 0 → (s.endPlates h e).boot.step = 4 ∧ (s.endPlates h e).boot.level = 1 ∧ (s.endPlates h e).boot.stop = s.boot.stop) ∧
    (s.boot.level ≠ 0 → (s.endPlates h e).boot.stop = true) := by
  obtain ⟨v, hv⟩ : ∃ v : State, { s with boot := { s.boot with bistRows := BitVec.ofNat 16 e.rows } } = v := ⟨_, rfl⟩
  have hend : s.endPlates h e = if v.boot.level = 0 then v.nextLevel h e.rows else (v.stepRecord h 3 e.rows).bootStop := by
    rw [← hv]
    exact if_neg (by rw [he]; exact Bool.false_ne_true)
  rw [hend]
  have hvb : v.boot.bistRows = BitVec.ofNat 16 e.rows ∧ v.boot.step = 4 ∧ v.boot.level = s.boot.level ∧ v.boot.stop = s.boot.stop := by
    rw [← hv]; exact ⟨rfl, hk, rfl, rfl⟩
  obtain ⟨h1, h2, h3, h4⟩ := hvb
  by_cases hl : s.boot.level = 0
  · rw [if_pos (h3.trans hl)]
    obtain ⟨j, n, w, hn⟩ := v.nextLevel_frame h e.rows (by omega) (by omega)
    rw [hn]
    exact ⟨h1, fun _ => ⟨h2, by show v.boot.level + 1 = 1; omega, h4⟩, fun hn => absurd hl hn⟩
  · rw [if_neg fun h => hl (h3.symm.trans h)]
    obtain ⟨j, n, w, hn⟩ := v.stepRecord_frame h 3 e.rows
    rw [hn]
    exact ⟨h1, fun hn => absurd hn hl, fun _ => rfl⟩

/-- The verified image runs. -/
theorem State.endVerify_passes {s : State} (h : HostView) {img : List Byte} (hi : s.boot.image = some img) (hv : verifyImage s.otp.keyHash img = 0) :
    (s.endVerify h).boot.step = 8 ∧ (s.endVerify h).boot.fwver = BitVec.ofNat 32 (fieldLE img 8 4) ∧
    (s.endVerify h).boot.slotRunning = decide (s.boot.slot = 1) ∧ (s.endVerify h).boot.digest = some (imageDigest img, imageDigest img) ∧
    (s.endVerify h).lanes = s.lanes := by
  unfold State.endVerify
  rw [hi]
  dsimp only
  rw [if_neg (not_not_intro hv)]
  obtain ⟨result, j, n, w, hp⟩ := s.passStep_frame h (decide (s.boot.level ≠ 0)) 0
  generalize s.passStep h _ 0 = u at hp ⊢
  have hslot : u.boot.slot = s.boot.slot := by rw [hp]; rfl
  have hlanes : u.lanes = s.lanes := by rw [hp]
  rw [hslot]
  generalize hx : ({ u with boot := { u.boot with slotRunning := _, digest := _, fwver := _ } } : State) = x
  obtain ⟨k1, k2, k3, k4, k5⟩ := x.beginStep_replan h
  generalize x.beginStep h 8 = y at *
  refine ⟨k1, k2.trans ?_, k3.trans ?_, k4.trans ?_, k5.trans ?_⟩
  · rw [← hx]
  · rw [← hx]
  · rw [← hx]
  · rw [← hx]; exact hlanes

theorem State.endTrain_skips {s : State} (h : HostView) (hl : 1 ≤ s.boot.level) : (s.endTrain h false).boot.step = 10 ∧ (s.endTrain h false).link.st = 5 := by
  unfold State.endTrain
  rw [if_neg Bool.false_ne_true, if_neg (by omega)]
  exact State.skipTrain_effect _ h

theorem State.endTime_fails (s : State) (h : HostView) : (s.endTime h false).boot.stop = true := rfl

/-- The time unit starts (R285). -/
theorem State.endTime_passes (s : State) (h : HostView) : (s.endTime h true).time.run = true ∧ (s.endTime h true).time.tclkOk = true ∧
    (s.endTime h true).time.tsLock = true ∧ (s.endTime h true).time.ns = 0 ∧ (s.endTime h true).time.frac = 0 ∧ (s.endTime h true).boot.step = 11 := by
  unfold State.endTime
  rw [if_neg (by decide)]
  dsimp only
  generalize hv : ({ s.passStep h false 0 with time := _ } : State) = v
  obtain ⟨l, j, n, w, hb⟩ := v.beginStep_frame h (k := 11) (by decide) (by decide) (by decide)
  rw [hb, ← hv]
  exact ⟨rfl, rfl, rfl, rfl, rfl, rfl⟩

/-- Firmware takes commands (R364). -/
theorem State.endReady_passes (s : State) (h : HostView) : (s.endReady h true).boot.done = true ∧ (s.endReady h true).ctl.fwReady = true ∧
    s.endReady h true = { s with boot := (s.endReady h true).boot, ctl := { s.ctl with fwReady := true }, fwWrites := (s.endReady h true).fwWrites } := by
  unfold State.endReady
  rw [if_neg (by decide)]
  dsimp only
  obtain ⟨result, j, n, w, hp⟩ := s.passStep_frame h false 0
  rw [hp]
  exact ⟨rfl, rfl, rfl⟩

/-! ### The statement -/

theorem exec_bootStepDone {s : State} (e : StepEnd) (h : HostView) (hs : s.works) : exec (.bootStepDone e h) s = .next (s.keep (s.bootStep h e)) :=
  (running_works _ hs : execBootStepDone e h s = _)

theorem exec_bootWatchdogExpiry {s : State} (hs : s.works) : exec .bootWatchdogExpiry s = .next (s.keep (if s.boot.done then s
    else if s.boot.restarts ≥ 3 then s.bootStop else s.internalRestart)) :=
  (running_works _ hs : execBootWatchdogExpiry s = _)

theorem exec_bootStart {s : State} (hs : s.live) : exec .bootStart s = .next (s.keep s.bootStart) := (gated_live _ hs : execBootStart s = _)

/-- Settles O49, step by step. -/
theorem bootSequence : Obligations.BootSequence := by
  intro s e h hs
  rw [exec_bootStart hs]
  refine ⟨fun hst => ?_, fun hst => ?_, fun ha hd => ?_, fun ha hd => ?_⟩
  · rw [State.bootStart, if_pos hst]; rfl
  · rw [State.bootStart, hst]; rfl
  · rw [exec_bootStepDone e h ⟨hs, ha⟩, exec_bootWatchdogExpiry ⟨hs, ha⟩, State.bootStep_done h e hd, if_pos hd]
    exact ⟨rfl, rfl⟩
  · have hstop : s.boot.stop = false := by
      unfold State.alive at ha
      simp only [Bool.and_eq_true, Bool.not_eq_true'] at ha
      exact ha.1.2
    rw [exec_bootStepDone e h ⟨hs, ha⟩, exec_bootWatchdogExpiry ⟨hs, ha⟩, if_neg (by rw [hd]; exact Bool.false_ne_true)]
    refine ⟨fun hk he => ?_, fun hk he => ?_, fun hk he => ?_, fun hk img hi hv => ?_, fun hk he hl => ?_, fun hk he => ?_, fun hk he => ?_,
      fun hk he => ?_, fun hr => ?_, fun hr => ?_⟩
    · rw [State.bootStep_early h e hd (hk.imp_right .inl), he, State.endEarly_passes h (by omega)]; rfl
    · rw [State.bootStep_early h e hd hk, he]; rfl
    · obtain ⟨h1, h2, h3⟩ := State.endPlates_fails h he hk
      rw [State.bootStep_plates h e hd hk]
      rw [hstop] at h2
      exact ⟨_, rfl, h1, h2, h3⟩
    · rw [State.bootStep_verify h e hd hk]
      exact ⟨_, rfl, State.endVerify_passes h hi hv⟩
    · rw [State.bootStep_train h e hd hk, he]
      exact ⟨_, rfl, State.endTrain_skips h hl⟩
    · rw [State.bootStep_time h e hd hk, he]
      exact ⟨_, rfl, s.endTime_passes h⟩
    · rw [State.bootStep_time h e hd hk, he]
      exact ⟨_, rfl, s.endTime_fails h⟩
    · obtain ⟨h1, h2, h3⟩ := s.endReady_passes h
      rw [State.bootStep_ready h e hd hk, he]
      refine ⟨_, rfl, h1, h2, ?_⟩
      generalize s.endReady h true = u at h3 ⊢
      rw [h3]
      rfl
    · rw [if_pos hr]; rfl
    · rw [if_neg (by omega)]
      exact ⟨_, rfl, rfl, rfl, rfl, rfl, rfl, rfl, rfl, rfl, rfl, rfl, rfl, rfl, rfl, rfl⟩

end Sys2Proof.Machine
end

section
/-! SUPPORT. The fetch engine's instructions and `WAIT` (R82, R83, R85, R93, R94, R99, Table FYUSH-1). -/
namespace Sys2Proof.Machine

/-! ### What passing on leaves (R108) -/

/-- Stream `y` is `x` after the instructions `l`, which the execute engine alone performs, have been passed on. -/
structure Stream.Passed (x y : Stream) (l : List QInsn) : Prop where
  xq : y.xq = x.xq ++ l
  own : ∀ q ∈ l, q.i.fetches = false
  rs : y.rs = l.foldl (fun r q => r.apply q.i) x.rs
  stays : l = [] → y.fpc = x.fpc ∧ y.reps = x.reps
  rest : y = { x with fpc := y.fpc, reps := y.reps, rs := y.rs, xq := y.xq }

theorem Stream.Passed.refl (x : Stream) : x.Passed x [] :=
  ⟨(List.append_nil _).symm, (fun _ h => nomatch h), rfl, fun _ => ⟨rfl, rfl⟩, rfl⟩

/-- One more instruction is passed on. -/
theorem Stream.Passed.snoc {x y : Stream} {l : List QInsn} (h : x.Passed y l) {i : FInsn} (hi : i.fetches = false) (pc : Nat) (reps : List Rep) :
    x.Passed { y with fpc := pc, reps := reps, rs := y.rs.apply i, xq := y.xq ++ [⟨i, y.fpc, 0⟩] } (l ++ [⟨i, y.fpc, 0⟩]) := by
  refine ⟨?_, fun q hq => ?_, ?_, fun hn => ?_, ?_⟩
  · show y.xq ++ _ = _
    rw [h.xq, List.append_assoc]
  · rcases List.mem_append.mp hq with hq | hq
    · exact h.own q hq
    · rw [List.mem_singleton.mp hq]; exact hi
  · show y.rs.apply i = _
    rw [List.foldl_append, ← h.rs]
    rfl
  · exact absurd hn (List.append_ne_nil_of_right_ne_nil _ (List.cons_ne_nil _ _))
  · rw [h.rest]

/-- Passing on leaves everything but the streams, and of a stream only what it passes. -/
theorem State.passOn_passed {s : State} {c : Nat} {x : Stream} (p : Nat) (hx : s.stream c = some x) : ∃ y l,
    (s.passOn p).stream c = some y ∧ x.Passed y l ∧ s.passOn p = { s with fw := { s.fw with streams := (s.passOn p).fw.streams } } := by
  refine State.passOn_induct (P := fun t => ∃ y l, t.stream c = some y ∧ x.Passed y l ∧ t = { s with fw := { s.fw with streams := t.fw.streams } })
    p ?_ ⟨x, [], hx, .refl x, rfl⟩
  rintro t d z i pc reps ⟨y, l, hy, hp, hs⟩ hz hi
  have hshape : t.setStream d { z with fpc := pc, reps := reps, rs := z.rs.apply i, xq := z.xq ++ [⟨i, z.fpc, 0⟩] } = { s with fw := { s.fw with
      streams := (t.setStream d { z with fpc := pc, reps := reps, rs := z.rs.apply i, xq := z.xq ++ [⟨i, z.fpc, 0⟩] }).fw.streams } } := by
    generalize ({ z with fpc := pc, reps := reps, rs := z.rs.apply i, xq := z.xq ++ [⟨i, z.fpc, 0⟩] } : Stream) = z'
    unfold State.setStream
    rw [hs]
  by_cases hd : c = d
  · subst hd
    obtain rfl : z = y := Option.some.inj (hz.symm.trans hy)
    exact ⟨_, _, State.stream_setStream_same .., hp.snoc hi pc reps, hshape⟩
  · exact ⟨y, l, (State.stream_setStream_other t _ hd).trans hy, hp, hshape⟩

/-- A stream that the fetch engine does not run stands. -/
theorem State.passOn_other {s : State} {d : Nat} (p : Nat) (hf : ∀ e, s.fetchStream p = some e → e.1 ≠ d) : (s.passOn p).stream d = s.stream d := by
  unfold State.passOn
  split
  next c x hx =>
    split
    · rfl
    · refine State.passN_induct (P := fun t => t.stream d = s.stream d) c (fun t x i pc reps h _ _ => ?_) 64 s rfl
      exact (State.stream_setStream_other t _ (hf _ hx).symm).trans h
  · rfl

/-! ### The stream that the fetch engine runs -/

theorem State.stream_of_fetchStream {s : State} {p c : Nat} {x : Stream} (h : s.fetchStream p = some (c, x)) : s.stream c = some x := by
  unfold State.fetchStream at h
  simp only [Option.bind_eq_some_iff, Option.map_eq_some_iff, Prod.mk.injEq] at h
  obtain ⟨e, _, y, hy, rfl, rfl⟩ := h
  exact hy

/-- A change of one stream that keeps whether its fetching has ended leaves the stream that the fetch engine runs. -/
theorem State.fetchStream_kept {s t : State} {p c : Nat} {x : Stream} (h : s.fetchStream p = some (c, x)) (hl : t.lanes = s.lanes)
    (hc : ∀ d, (t.stream d).map Stream.fetchEnd = (s.stream d).map Stream.fetchEnd) : ∀ e, t.fetchStream p = some e → e.1 = c := by
  have hentry : t.fetchEntry p = s.fetchEntry p := by
    unfold State.fetchEntry State.lane
    rw [hl]
    refine congrFun (congrArg List.find? (funext fun e => ?_)) _
    have := hc e.sctx
    cases hs : s.stream e.sctx <;> cases ht : t.stream e.sctx <;> rw [hs, ht] at this <;> simp_all
  rintro ⟨d, y⟩ hd
  unfold State.fetchStream at h hd
  rw [hentry] at hd
  simp only [Option.bind_eq_some_iff, Option.map_eq_some_iff, Prod.mk.injEq] at h hd
  obtain ⟨e, he, _, _, rfl, _⟩ := h
  obtain ⟨e', he', _, _, rfl, _⟩ := hd
  rw [Option.some.inj (he.symm.trans he')]

/-! ### The rows of the fetch engine -/

/-- The row of an instruction lets the fetch engine perform it, and does nothing else. -/
theorem exec_fetchRow {s : State} {lane : Fin 10} {h : HostView} {i : FInsn} {k : Instr} (hs : s.works) (hk : i.fetchRow lane h = some k) :
    ∃ is : FInsn → Bool, is i = true ∧ exec k s = .next (s.keep (fetchInsn lane.val is s)) := by
  have hrun : ∀ is : FInsn → Bool, running s (fetchInsn lane.val is) = .next (s.keep (fetchInsn lane.val is s)) := fun is => running_works _ hs
  cases i with
  | emit | drain | wait | post | deadline => exact nomatch hk
  | swap w kind =>
    cases w with
    | true => exact nomatch hk
    | false => cases hk; exact ⟨_, rfl, hrun _⟩
  | _ => cases hk; exact ⟨_, rfl, hrun _⟩

/-- What performing an instruction keeps of its stream. -/
theorem Stream.performFetch_frame (x : Stream) (i : FInsn) : x.performFetch i = { x with
    fpc := (advance i x.fpc x.reps).1, reps := (advance i x.fpc x.reps).2, rs := x.rs.apply i
    pending := (x.performFetch i).pending, fetchEnd := (x.performFetch i).fetchEnd
    xq := x.xq ++ if i.executes then [⟨i, x.fpc, 0⟩] else [] } := by
  unfold Stream.performFetch
  dsimp only
  cases i.executes
  · simp only [Bool.false_eq_true, if_false, List.append_nil]
  · simp only [if_true]

theorem Stream.performFetch_fetchEnd (x : Stream) {i : FInsn} (h : ∀ b, i ≠ .endRun b) : (x.performFetch i).fetchEnd = x.fetchEnd := by
  cases i with
  | endRun b => exact absurd rfl (h b)
  | _ => rfl

section
variable {s : State} {p c : Nat} {x : Stream} {i : FInsn} {is : FInsn → Bool}

/-- The fetch engine performs the instruction at its counter and passes on. -/
theorem fetchInsn_does (hx : s.fetchStream p = some (c, x)) (hi : s.insnAt x x.fpc = some i) (his : is i = true) (hl : (s.lane p).fetching = true)
    (he : x.emitting = false) (hq : i.executes = true → x.xq.length < 64) : fetchInsn p is s = (s.setStream c (x.performFetch i)).passOn p := by
  unfold fetchInsn
  rw [hx]
  dsimp only
  rw [hi]
  dsimp only
  refine if_pos ?_
  rw [his, hl, he]
  cases hxe : i.executes
  · rfl
  · simpa using hq hxe

theorem State.insnAt_bad {pc : Nat} (h : s.cellBad x pc = true) : s.insnAt x pc = none := if_pos h

theorem State.programFault_raises {s : State} {p c : Nat} {x : Stream} (hl : (s.lane p).fetching = true) (he : x.emitting = false)
    (hb : s.cellBad x x.fpc = true) : s.programFault p c x = (s.laneFault p).raise ⟨0, p, 27, formatP c x⟩ :=
  if_pos (by rw [hl, he, hb]; rfl)

theorem State.keep_laneFault (s : State) (p : Nat) (b : Burgee) : s.keep ((s.laneFault p).raise b) = (s.laneFault p).raise b := by
  have hfault : s.ShellKept (s.laneFault p) := by
    unfold State.laneFault
    split
    · rw [State.modXfer, State.modStream_frame]; rfl
    · rfl
  exact hfault.trans (State.shellKept_raise _ _)

end

/-! ### `WAIT` (R94) -/

/-- The stream that goes on from a `WAIT` whose Halyard shows `t`. -/
def Stream.pastWait (x : Stream) (w : HalCond) (t : Nat) : Stream :=
  Stream.performFetch (if w.rel then { x with cursors := setNth x.cursors w.cur (BitVec.ofNat 16 t) } else x) (.wait w)

theorem Stream.pastWait_effect (x : Stream) (w : HalCond) (t : Nat) : (x.pastWait w t).fetchEnd = x.fetchEnd ∧ (x.pastWait w t).xfers = x.xfers ∧
    (x.pastWait w t).cursors = if w.rel then setNth x.cursors w.cur (BitVec.ofNat 16 t) else x.cursors := by
  unfold Stream.pastWait
  rw [Stream.performFetch_fetchEnd _ fun b => by simp, Stream.performFetch_frame]
  split <;> exact ⟨rfl, rfl, rfl⟩

/-- A check of a Halyard without errors finds nothing. -/
theorem State.halCheck_clean {s : State} {i : Nat} (h : Tbl.get 0 s.hal.upset i = 0) : s.halCheck i = s := by
  unfold State.halCheck
  simp only [h]

section
variable {s : State} {p c : Nat} {x : Stream} {w : HalCond}

theorem fetchWait_meets (hx : s.fetchStream p = some (c, x)) (hi : s.insnAt x x.fpc = some (.wait w)) (hl : (s.lane p).fetching = true)
    (he : x.emitting = false) (hu : Tbl.get 0 s.hal.upset w.hal = 0) (hm : (s.halMeets w x.cursors).2 = true) :
    fetchWait p s = ((s.setStream c (x.pastWait w (s.halMeets w x.cursors).1)).learnOrder c w.hal).passOn p := by
  have hcheck := State.halCheck_clean hu
  unfold fetchWait
  rw [hx]
  dsimp only
  rw [hi]
  dsimp only
  rw [if_neg (by rw [hl, he]; decide), hcheck]
  rcases hmt : s.halMeets w x.cursors with ⟨t, m⟩
  rw [hmt] at hm
  cases hm
  rfl

theorem fetchWait_waits (hx : s.fetchStream p = some (c, x)) (hi : s.insnAt x x.fpc = some (.wait w)) (hl : (s.lane p).fetching = true)
    (he : x.emitting = false) (hu : Tbl.get 0 s.hal.upset w.hal = 0) (hm : (s.halMeets w x.cursors).2 = false) : fetchWait p s = s.showWait p := by
  have hcheck := State.halCheck_clean hu
  unfold fetchWait
  rw [hx]
  dsimp only
  rw [hi]
  dsimp only
  rw [if_neg (by rw [hl, he]; decide), hcheck]
  rcases hmt : s.halMeets w x.cursors with ⟨t, m⟩
  rw [hmt] at hm
  cases hm
  rfl

theorem fetchWait_bad (hx : s.fetchStream p = some (c, x)) (hb : s.cellBad x x.fpc = true) : fetchWait p s = s.programFault p c x := by
  unfold fetchWait
  rw [hx]
  dsimp only
  rw [State.insnAt_bad hb]

theorem fetchInsn_bad {is : FInsn → Bool} (hx : s.fetchStream p = some (c, x)) (hb : s.cellBad x x.fpc = true) :
    fetchInsn p is s = s.programFault p c x := by
  unfold fetchInsn
  rw [hx]
  dsimp only
  rw [State.insnAt_bad hb]

end

/-- A lane that shows `WAIT` keeps its queue and its stops. -/
theorem State.showWait_effect (s : State) (p : Nat) : s.showWait p = { s with lanes := (s.showWait p).lanes } ∧
    ∀ q, ((s.showWait p).lane q).queue = (s.lane q).queue ∧ ((s.showWait p).lane q).stops = (s.lane q).stops := by
  unfold State.showWait
  split
  · exact ⟨rfl, fun q => ⟨rfl, rfl⟩⟩
  · refine ⟨rfl, fun q => ?_⟩
    by_cases hq : q = p
    · subst hq; rw [State.lane_modLane_same]; exact ⟨rfl, rfl⟩
    · rw [State.lane_modLane_other _ _ hq]; exact ⟨rfl, rfl⟩

/-! ### The statement -/

theorem exec_wait {s : State} (lane : Fin 10) (hs : s.works) : exec (.wait lane) s = .next (s.keep (fetchWait lane.val s)) :=
  (running_works _ hs : execWait lane s = _)

/-- The fetch engine goes on in stream `c`, which it leaves as `y`, and passes on: what stands then. -/
theorem State.goesOn {s t : State} {p c : Nat} {x y : Stream} (hx : s.fetchStream p = some (c, x)) (ht : t = { s with fw := { s.fw with streams := t.fw.streams } })
    (hy : t.stream c = some y) (ho : ∀ d, d ≠ c → t.stream d = s.stream d) : ∃ z l, (t.passOn p).stream c = some z ∧ y.Passed z l ∧
      t.passOn p = { s with fw := { s.fw with streams := (t.passOn p).fw.streams } } ∧
      (y.fetchEnd = x.fetchEnd → ∀ d, d ≠ c → (t.passOn p).stream d = s.stream d) := by
  obtain ⟨z, l, hz, hp, hshape⟩ := State.passOn_passed p hy
  refine ⟨z, l, hz, hp, by rw [hshape, ht], fun hend d hd => ?_⟩
  have hkept : ∀ d, (t.stream d).map Stream.fetchEnd = (s.stream d).map Stream.fetchEnd := by
    intro d
    by_cases hd : d = c
    · subst hd
      rw [hy, State.stream_of_fetchStream hx, Option.map_some, Option.map_some, hend]
    · rw [ho d hd]
  have hlanes : t.lanes = s.lanes := by rw [ht]
  refine (State.passOn_other p fun e he => ?_).trans (ho d hd)
  rw [State.fetchStream_kept hx hlanes hkept e he]
  exact fun h => hd h.symm

/-- Settles O50: the instruction takes effect, and passing on adds the execute engine's own behind it. -/
theorem fetchInstructions : Obligations.FetchInstructions := by
  intro s lane h i hs
  refine ⟨fun c x cmd hx hi hl he => ⟨fun hk hq => ?_, fun w t hw hu ht => ?_⟩, fun d y hy hb hl he => ?_⟩
  · obtain ⟨is, his, hex⟩ := exec_fetchRow hs hk
    rw [hex, fetchInsn_does hx hi his hl he hq]
    obtain ⟨z, l, hz, hp, hshape, hother⟩ := State.goesOn (t := s.setStream c (x.performFetch i)) hx rfl
      (State.stream_setStream_same _ _ _) fun d hd => State.stream_setStream_other s _ hd
    have hpf := x.performFetch_frame i
    have hend : (∀ b, i ≠ .endRun b) → (x.performFetch i).fetchEnd = x.fetchEnd := x.performFetch_fetchEnd
    have hmark : ∀ b, i = .endRun b → (x.performFetch i).fetchEnd = true := fun b hb => by rw [hb]; rfl
    have hpace : ∀ a, i = .pace a → (x.performFetch i).pending = if a = x.rs.pace then x.pending else [] := fun a ha => by rw [ha]; rfl
    generalize x.performFetch i = y at *
    generalize State.passOn _ lane.val = u at hz hshape hother ⊢
    have hrest := hp.rest
    refine ⟨s.keep u, z, l, rfl, by rw [hshape]; rfl, hz, ?_, hp.own, ?_, fun hn => ?_, ?_, ?_, ?_, ?_, ?_, fun hb => ⟨?_, hother (hend hb)⟩,
      fun b hb => ?_, fun a ha => ?_⟩
    · rw [hp.xq, hpf]
    · rw [hp.rs, hpf]
    · obtain ⟨h1, h2⟩ := hp.stays hn
      rw [h1, h2, hpf]
    · rw [hrest, hpf]
    · rw [hrest, hpf]
    · rw [hrest, hpf]
    · rw [hrest, hpf]
    · rw [hrest, hpf]
    · rw [hrest]; exact hend hb
    · rw [hrest]; exact hmark b hb
    · rw [hrest]; exact hpace a ha
  · subst hw ht
    rw [exec_wait lane hs]
    refine ⟨fun hm => ?_, fun hm => ?_⟩
    · rw [fetchWait_meets hx hi hl he hu hm]
      obtain ⟨hend, hxf, hcur⟩ := x.pastWait_effect w (s.halMeets w x.cursors).1
      generalize x.pastWait w (s.halMeets w x.cursors).1 = y at hend hxf hcur ⊢
      obtain ⟨z, l, hz, hp, hshape, hother⟩ := State.goesOn (t := (s.setStream c y).learnOrder c w.hal) hx
        (by unfold State.learnOrder; rw [State.modStream_frame]; rfl)
        (by
          unfold State.learnOrder
          rw [State.stream_modStream_same, State.stream_setStream_same]
          rfl)
        (fun d hd => by
          unfold State.learnOrder
          rw [State.stream_modStream_other _ _ hd, State.stream_setStream_other _ _ hd])
      generalize State.passOn _ lane.val = u at hz hshape hother ⊢
      have hrest := hp.rest
      exact ⟨s.keep u, z, rfl, by rw [hshape]; rfl, hz, by rw [hrest]; exact hxf, by rw [hrest]; exact hcur, hother hend⟩
    · rw [fetchWait_waits hx hi hl he hu hm]
      obtain ⟨h1, h2⟩ := s.showWait_effect lane.val
      generalize s.showWait lane.val = u at h1 h2 ⊢
      exact ⟨s.keep u, rfl, by rw [h1]; rfl, h2⟩
  · refine ⟨fun k hk => ?_, ?_⟩
    · obtain ⟨is, _, hex⟩ := exec_fetchRow hs hk
      rw [hex, fetchInsn_bad hy hb, State.programFault_raises hl he hb, State.keep_laneFault]
    · rw [exec_wait lane hs, fetchWait_bad hy hb, State.programFault_raises hl he hb, State.keep_laneFault]

end Sys2Proof.Machine
end

section
/-! SUPPORT. The execute engine's instructions, `POST` and `END` (R95, R97, R98, R102, R104, R107, R171, R227). -/
namespace Sys2Proof.Machine

/-! ### What an add to a Halyard changes of the streams and beside the Halyards -/

theorem State.onlyXfers_withhold (s : State) (f : TxFrame) : s.OnlyXfers (s.withhold f) := by
  refine foldl_keeps (fun u => s.OnlyXfers u) _ (fun u o hu => hu.trans (u.onlyXfers_modXfer _ _ _)) f.owners _ ?_
  refine State.OnlyXfers.trans ?_ (State.onlyXfers_raise _ _)
  exact .of_fw rfl

theorem State.onlyXfers_pumpN (n : Nat) : ∀ s : State, s.OnlyXfers (s.pumpN n) := by
  induction n with
  | zero => exact fun s => .of_fw rfl
  | succ n ih =>
    intro s
    unfold State.pumpN
    split
    · exact .of_fw rfl
    next f rest _ =>
      split
      · dsimp only
        refine State.OnlyXfers.trans ?_ (ih _)
        split
        · exact State.OnlyXfers.trans (t := { s with link := { s.link with waitQ := rest } }) (.of_fw rfl) (State.onlyXfers_withhold _ f)
        · exact .of_fw rfl
      · exact .of_fw rfl

theorem State.onlyXfers_closeWrite (s : State) : s.OnlyXfers s.closeWrite := by
  unfold State.closeWrite
  split
  · exact .of_fw rfl
  next o _ =>
    exact State.OnlyXfers.trans (t := { s with link := { s.link with open_ := none, waitQ := s.link.waitQ ++ [o.frame] } })
      (.of_fw rfl) (State.onlyXfers_pumpN _ _)

theorem State.onlyXfers_egress (s : State) (f : TxFrame) : s.OnlyXfers (s.egress f) := by
  have hclose : s.OnlyXfers (if f.type = 5 ∨ f.type = 2 then s.closeWrite else s) := by
    split
    · exact s.onlyXfers_closeWrite
    · exact .of_fw rfl
  unfold State.egress
  dsimp only
  generalize (if f.type = 5 ∨ f.type = 2 then s.closeWrite else s) = u at hclose ⊢
  exact (hclose.trans (State.OnlyXfers.of_fw (t := { u with link := { u.link with waitQ := u.link.waitQ ++ [f] } }) rfl)).trans (State.onlyXfers_pumpN _ _)

theorem State.onlyXfers_relayAdd (s : State) (i a : Nat) : s.OnlyXfers (s.relayAdd i a) := by
  unfold State.relayAdd
  split
  · exact s.onlyXfers_egress _
  · exact .of_fw rfl

theorem find_map_val {α : Type} (f : Nat → α → α) (k : Nat) : ∀ t : Tbl α, Tbl.find (t.map fun e => (e.1, f e.1 e.2)) k = (Tbl.find t k).map (f k)
  | [] => rfl
  | (j, v) :: t => by
    by_cases hj : j = k
    · subst hj; simp [Tbl.find]
    · simp [Tbl.find, hj, find_map_val f k t]

theorem State.onlyXfers_armSkew (s : State) : s.OnlyXfers s.armSkew := by
  refine ⟨rfl, fun c => ⟨fun x => x.xfers.map (s.skewed c x), ?_⟩⟩
  exact find_map_val (fun c x => { x with xfers := x.xfers.map (s.skewed c x) }) c s.fw.streams

theorem State.onlyXfers_halAdd (s : State) (i a : Nat) (b : Bool) : s.OnlyXfers (s.halAdd i a b) := by
  refine (s.onlyXfers_halCheck i).trans ?_
  unfold State.halAdd
  dsimp only
  generalize s.halCheck i = t
  split
  · exact .of_fw rfl
  · have harm : t.OnlyXfers (t.setHword i ((t.hword i).add a)).armSkew :=
      State.OnlyXfers.trans (t := t.setHword i ((t.hword i).add a)) (.of_fw rfl) (State.onlyXfers_armSkew _)
    split
    · exact harm.trans (State.onlyXfers_relayAdd _ _ _)
    · exact harm

/-- Only Halyards' storage and what entry to the safe state moves change. -/
theorem State.safeShape_halCheck (s : State) (i : Nat) : State.SafeShape { s with hal := (s.halCheck i).hal } (s.halCheck i) := by
  unfold State.halCheck
  split
  · rfl
  · rw [State.raise_hal]; exact State.safeShape_raise _ _
  · rw [State.raise_hal]; exact State.safeShape_raise _ _

@[simp] theorem State.halCheck_evOutQ (s : State) (i : Nat) : (s.halCheck i).hal.evOutQ = s.hal.evOutQ := by
  unfold State.halCheck
  split <;> simp

/-- An add leaves the Plates, the power manager, the time unit and the event-out crossing. -/
theorem State.halAdd_rest (s : State) (i a : Nat) (b : Bool) : (s.halAdd i a b).plate = s.plate ∧ (s.halAdd i a b).pwr = s.pwr ∧
    (s.halAdd i a b).time = s.time ∧ (s.halAdd i a b).hal.evOutQ = s.hal.evOutQ := by
  have hcheck := s.safeShape_halCheck i
  have hq := s.halCheck_evOutQ i
  unfold State.halAdd
  dsimp only
  generalize s.halCheck i = t at hcheck hq ⊢
  split
  · rw [hcheck]; exact ⟨rfl, rfl, rfl, hq⟩
  · split
    · have hrelay := State.safeShape_relayAdd (t.setHword i ((t.hword i).add a)).armSkew (t.hword i).peer.toNat a
      rw [hrelay]
      refine ⟨?_, ?_, ?_, hq⟩ <;> (rw [hcheck]; rfl)
    · refine ⟨?_, ?_, ?_, hq⟩ <;> (rw [hcheck]; rfl)

/-! ### The execute engine's instruction -/

theorem State.execHead_stream {s : State} {p c : Nat} {x : Stream} {q : QInsn} (h : s.execHead p = some (c, x, q)) :
    s.execStream p = some (c, x) ∧ s.stream c = some x ∧ x.st = .active ∧ ∃ l, x.xq = q :: l := by
  unfold State.execHead at h
  split at h
  next d y hy =>
    split at h
    next r l hl =>
      split at h
      next hst =>
        cases h
        refine ⟨hy, ?_, hst, l, hl⟩
        unfold State.execStream at hy
        simp only [Option.bind_eq_some_iff, Option.map_eq_some_iff, Prod.mk.injEq] at hy
        obtain ⟨e, _, z, hz, rfl, rfl⟩ := hy
        exact hz
      · exact nomatch h
    · exact nomatch h
  · exact nomatch h

/-- The instruction of stream `c`, which stands as `x`, leaves the queue, and the fetch engine passes on. -/
theorem State.popInsn_effect {s : State} {c : Nat} {x : Stream} (p : Nat) (hx : s.stream c = some x) : ∃ y l, (s.popInsn p c).stream c = some y ∧
    Stream.Passed { x with xq := x.xq.drop 1 } y l ∧ s.popInsn p c = { s with fw := { s.fw with streams := (s.popInsn p c).fw.streams } } := by
  unfold State.popInsn
  generalize hm : (s.modStream c fun x => { x with xq := x.xq.drop 1 }) = t
  have htc : t.stream c = some { x with xq := x.xq.drop 1 } := by
    rw [← hm, State.stream_modStream_same, hx]; rfl
  obtain ⟨y, l, hy, hp, hs⟩ := State.passOn_passed p htc
  refine ⟨y, l, hy, hp, ?_⟩
  rw [hs, ← hm, State.modStream_frame]

theorem exec_execRow {s : State} {lane : Fin 10} {i : FInsn} {k : Instr} (hs : s.works) (hk : i.execRow lane = some k) :
    ∃ is : FInsn → Bool, is i = true ∧ exec k s = .next (s.keep (stateInsn lane.val is s)) := by
  have hrun : ∀ is : FInsn → Bool, running s (stateInsn lane.val is) = .next (s.keep (stateInsn lane.val is s)) := fun is => running_works _ hs
  cases i with
  | xform | scale | deadline | phase => cases hk; exact ⟨_, rfl, hrun _⟩
  | swap w kind =>
    cases w with
    | false => exact nomatch hk
    | true => cases hk; exact ⟨_, rfl, hrun _⟩
  | _ => exact nomatch hk

/-- The execute engine performs the instruction at the head of its queue. -/
theorem stateInsn_does {s : State} {p c : Nat} {x : Stream} {q : QInsn} {is : FInsn → Bool} (hh : s.execHead p = some (c, x, q)) (his : is q.i = true)
    (hl : (s.lane p).holding = false) (ha : x.awaitsFit = false) :
    stateInsn p is s = (s.setStream c { x with xrs := x.xrs.apply q.i }).popInsn p c := by
  unfold stateInsn
  rw [hh]
  dsimp only
  exact if_pos (by rw [his, hl, ha]; rfl)

/-! ### `POST` (R95, R227) -/

/-- The posted value joins the Halyard, and with `EV` its line joins the event-out crossing. -/
def State.postTo (s : State) (c : Nat) (ev : Bool) (line hal add : Nat) : State :=
  let t := (s.postOrder c hal).halAdd hal add false
  if ev then { t with hal := { t.hal with evOutQ := t.hal.evOutQ ++ [BitVec.ofNat 6 line] } } else t

theorem postInsn_does {s : State} {p c : Nat} {x : Stream} {q : QInsn} {ev : Bool} {line hal add : Nat} (hh : s.execHead p = some (c, x, q))
    (hq : q.i = .post ev line hal add) (hl : (s.lane p).holding = false) (hf : (s.lane p).queue.head? = (s.lane p).execEntry)
    (hw : x.writesOpen = false) (ha : s.abandoning c x = false) (hroom : ev = true → x.idx = 0 → s.hal.evOutQ.length < evOutRoom) :
    postInsn p s = if x.idx ≠ 0 then s.popInsn p c else (s.postTo c ev line hal add).popInsn p c := by
  unfold postInsn
  rw [hh]
  dsimp only
  rw [hq]
  dsimp only
  refine if_neg ?_
  rw [hl, hf, hw, ha]
  cases ev
  · simp
  · by_cases h0 : x.idx = 0
    · simpa [h0] using hroom rfl h0
    · simp [h0]

theorem State.postOrder_frame (s : State) (c i : Nat) : s.postOrder c i = { s with hal := { s.hal with knows := (s.postOrder c i).hal.knows } } := by
  unfold State.postOrder
  split <;> rfl

/-- What a post changes. -/
theorem State.postTo_effect (s : State) (c : Nat) (ev : Bool) (line hal add : Nat) : s.OnlyXfers (s.postTo c ev line hal add) ∧
    (s.postTo c ev line hal add).plate = s.plate ∧ (s.postTo c ev line hal add).pwr = s.pwr ∧ (s.postTo c ev line hal add).time = s.time ∧
    (s.postTo c ev line hal add).hal.evOutQ = s.hal.evOutQ ++ (if ev then [BitVec.ofNat 6 line] else []) ∧
    (∀ k, k ≠ hal → (s.postTo c ev line hal add).hword k = s.hword k) ∧
    (s.halDead hal = false → Tbl.get 0 s.hal.upset hal ≤ 1 → (s.postTo c ev line hal add).hword hal = (s.hword hal).add add) ∧
    (s.halDead hal = true → (s.postTo c ev line hal add).hword hal = s.hword hal ∧
      (s.postTo c ev line hal add).hal.discarded = s.hal.discarded + 1) := by
  have hord := s.postOrder_frame c hal
  unfold State.postTo
  dsimp only
  generalize s.postOrder c hal = v at hord ⊢
  have hv : v.fw = s.fw ∧ v.plate = s.plate ∧ v.pwr = s.pwr ∧ v.time = s.time ∧ v.hal.evOutQ = s.hal.evOutQ ∧ v.hal.words = s.hal.words ∧
      v.hal.discarded = s.hal.discarded ∧ v.halDead hal = s.halDead hal ∧ Tbl.get 0 v.hal.upset hal = Tbl.get 0 s.hal.upset hal := by
    rw [hord]; exact ⟨rfl, rfl, rfl, rfl, rfl, rfl, rfl, rfl, rfl⟩
  obtain ⟨v1, v2, v3, v4, v5, v6, v7, v8, v9⟩ := hv
  have hx := v.onlyXfers_halAdd hal add false
  obtain ⟨r1, r2, r3, r4⟩ := v.halAdd_rest hal add false
  have hother : ∀ k, k ≠ hal → (v.halAdd hal add false).hword k = s.hword k := by
    intro k hk
    rw [← State.hword_of_words_eq v6 k]
    cases hd : (v.halCheck hal).halDead hal
    · rw [State.halDead_update, Bool.or_eq_false_iff, decide_eq_false_iff_not] at hd
      exact State.hword_of_words_other (State.halAdd_words hd.1 (by omega) add false) hk
    · exact State.hword_of_words_eq (State.halAdd_dead hd add false).1 k
  have hlive : s.halDead hal = false → Tbl.get 0 s.hal.upset hal ≤ 1 → (v.halAdd hal add false).hword hal = (s.hword hal).add add := by
    intro hd hu
    rw [State.hword_of_words_same (State.halAdd_words (v8.trans hd) (by omega) add false), State.hword_of_words_eq v6]
  have hdead : s.halDead hal = true → (v.halAdd hal add false).hword hal = s.hword hal ∧ (v.halAdd hal add false).hal.discarded = s.hal.discarded + 1 := by
    intro hd
    obtain ⟨d1, d2⟩ := State.halAdd_dead (s := v) (i := hal) (by rw [State.halDead_update, v8, hd]; rfl) add false
    exact ⟨State.hword_of_words_eq (d1.trans v6) hal, d2.trans (by rw [v7])⟩
  generalize v.halAdd hal add false = t at hx r1 r2 r3 r4 hother hlive hdead ⊢
  have hfw := (State.OnlyXfers.of_fw v1).trans hx
  cases ev
  · exact ⟨hfw, r1.trans v2, r2.trans v3, r3.trans v4, (r4.trans v5).trans (List.append_nil _).symm, hother, hlive, hdead⟩
  · exact ⟨hfw.trans (.of_fw rfl), r1.trans v2, r2.trans v3, r3.trans v4, congrArg (· ++ _) (r4.trans v5), hother, hlive, hdead⟩

/-! ### `END` (R102, R104, R107) -/

/-- The stream whose run ends. -/
def Stream.ended (x : Stream) (park : Bool) : Stream :=
  let y := if x.idx = 0 then x.count 1 1 else x
  { y with st := if park then .parked else .bound, xq := [], reserve := if park then y.reserve else [] }

theorem endInsn_does {s : State} {h : HostView} {p c : Nat} {x : Stream} {q : QInsn} {park : Bool} (hh : s.execHead p = some (c, x, q))
    (hq : q.i = .endRun park) (hl : (s.lane p).holding = false) (ht : x.tl = none) (hx : x.xfers = []) (ho : s.othersEnded c x = true) :
    endInsn h p s = s.endRun h p c park := by
  obtain ⟨hs, _, hst, l, hxq⟩ := State.execHead_stream hh
  unfold endInsn
  rw [hs]
  dsimp only
  rw [if_neg (by rw [hl, hst, hx]; decide), ht]
  dsimp only
  rw [hxq]
  dsimp only
  rw [hq]
  dsimp only
  exact if_pos ho

/-- Firmware queues descriptors of runnable streams alone (R261). -/
theorem State.nextToQueue_runnable {s : State} {n c : Nat} {q : List DescEntry} (h : s.nextToQueue n q = some c) :
    ((s.stream c).map Stream.runnable).getD false = true := by
  have hmem : c ∈ s.takeOrder n := by
    unfold State.nextToQueue at h
    dsimp only at h
    split at h
    next d hd =>
      cases h
      exact List.mem_of_find?_eq_some hd
    · split at h
      next d hd =>
        split at h
        · exact nomatch h
        · cases h
          rw [hd]
          exact List.mem_singleton_self _
      · exact nomatch h
  unfold State.takeOrder at hmem
  dsimp only at hmem
  have hfilter : c ∈ (s.runlistOf n).filter fun c => ((s.stream c).map Stream.runnable).getD false := by
    rcases List.mem_append.mp hmem with h | h <;> exact List.mem_of_mem_filter h
  exact (List.mem_filter.mp hfilter).2

theorem State.mem_refillN (s : State) (n : Nat) : ∀ (k : Nat) (q : List DescEntry) (e : DescEntry), e ∈ s.refillN n k q →
    e ∈ q ∨ ((s.stream e.sctx).map Stream.runnable).getD false = true := by
  intro k
  induction k with
  | zero => exact fun q e he => .inl he
  | succ k ih =>
    intro q e he
    unfold State.refillN at he
    split at he
    · exact .inl he
    · split at he
      next c hc =>
        rcases ih _ _ he with h | h
        · rcases List.mem_append.mp h with h | h
          · exact .inl h
          · right
            rw [List.mem_singleton.mp h]
            exact State.nextToQueue_runnable hc
        · exact .inr h
      · exact .inl he

/-- Every descriptor of stream `c` that lane `p` holds has ended. -/
def State.AllEnded (s : State) (p c : Nat) : Prop := ∀ e ∈ (s.lane p).queue, e.sctx = c → e.ended = true

/-- Filling queues adds no descriptor of a stream that is not runnable. -/
theorem State.AllEnded.refill {s : State} {p c : Nat} (h : s.AllEnded p c) (hc : ((s.stream c).map Stream.runnable).getD false = false) (n : Nat) :
    (s.refill n).AllEnded p c := by
  unfold State.refill
  split
  · exact h
  next p' _ =>
    split
    · exact h
    · intro e he hec
      by_cases hp : p = p'
      · subst hp
        rw [State.lane_modLane_same] at he
        rcases s.mem_refillN n 4 _ e he with hm | hr
        · exact h e hm hec
        · rw [hec, hc] at hr
          exact nomatch hr
      · rw [State.lane_modLane_other _ _ hp] at he
        exact h e he hec

theorem State.dropEnded_frame (s : State) (p : Nat) : s.dropEnded p = { s with lanes := (s.dropEnded p).lanes } := rfl

theorem State.AllEnded.dropEnded {s : State} {p c : Nat} (h : s.AllEnded p c) : (s.dropEnded p).AllEnded p c := by
  intro e he hec
  unfold State.dropEnded at he
  rw [State.lane_modLane_same] at he
  exact h e (List.mem_of_mem_filter he) hec

/-- Marking the descriptors begun, and taking those not begun off the queue, ends every descriptor of the stream. -/
theorem endedQueue {c n : Nat} {q : List DescEntry} {e : DescEntry} (he : e ∈ (q.map fun e => if e.sctx = c ∧ e.begun ∧ !e.ended then
    { e with ended := true, upTo := n } else e).filter fun e => !(decide (e.sctx = c) && !e.begun)) (hc : e.sctx = c) : e.ended = true := by
  obtain ⟨hm, hk⟩ := List.mem_filter.mp he
  obtain ⟨d, _, hd⟩ := List.mem_map.mp hm
  simp only [hc, decide_true, Bool.true_and, Bool.not_not] at hk
  split at hd
  · rw [← hd]
  next hn =>
    subst hd
    by_contra hf
    exact hn ⟨hc, hk, by simpa using hf⟩

/-- Filling a queue changes lanes alone. -/
theorem State.refill_frame (s : State) (n : Nat) : s.refill n = { s with lanes := (s.refill n).lanes } := by
  unfold State.refill
  split
  · rfl
  · split <;> rfl

/-- The descriptor of a stream ends: its position is saved; while it stays runnable it goes to the end of its run list, else its descriptors and its place
in the run list go (R261). -/
theorem State.endDescriptor_effect {s : State} {c : Nat} {x : Stream} (p : Nat) (hx : s.stream c = some x) :
    s.FwShape (s.endDescriptor p c) ∧ (∃ occs, (s.endDescriptor p c).stream c = some { x.savePos with occs := occs }) ∧
    (∀ d, d ≠ c → (s.endDescriptor p c).stream d = s.stream d) ∧
    (x.runnable = true → ∃ l, (s.endDescriptor p c).runlistOf x.lane = l ++ [c]) ∧
    (x.runnable = false → c ∉ (s.endDescriptor p c).runlistOf x.lane ∧ (s.endDescriptor p c).AllEnded p c) := by
  unfold State.endDescriptor
  rw [hx]
  dsimp only
  generalize hv : (s.modLane p fun l => { l with queue := l.queue.map fun e =>
      if e.sctx = c ∧ e.begun = true ∧ (!e.ended) = true then { e with ended := true, upTo := x.firstOpen } else e }) = v
  have hvs : ∀ d, v.stream d = s.stream d := fun d => by rw [← hv]; rfl
  have hvq : (v.lane p).queue = (s.lane p).queue.map fun e => if e.sctx = c ∧ e.begun = true ∧ (!e.ended) = true then
      { e with ended := true, upTo := x.firstOpen } else e := by rw [← hv, State.lane_modLane_same]
  have hsv : s.FwShape v := by rw [← hv]; exact ⟨rfl, rfl⟩
  generalize hw : (v.modStream c Stream.savePos).endOccs c = w
  have hclose := (v.modStream c Stream.savePos).closeOccs_shape c fun o => o.last.isSome
  have hvw : v.FwShape w := by rw [← hw]; exact (v.fwShape_modStream c _).trans hclose.1
  have hwl : w.lanes = v.lanes := by
    rw [← hw]
    exact hclose.2.1.trans (by rw [State.modStream_frame])
  have hwx : w.stream c = some { x.savePos with occs := x.savePos.occs.filter fun o => !o.last.isSome } := by
    rw [← hw]
    refine (State.stream_closeOccs _ c (fun o => o.last.isSome) c).trans ?_
    rw [State.stream_modStream_same, hvs, hx]
    exact congrArg some (if_pos rfl)
  have hwo : ∀ d, d ≠ c → w.stream d = s.stream d := by
    intro d hd
    rw [← hw]
    refine (State.stream_closeOccs _ c (fun o => o.last.isSome) d).trans ?_
    rw [State.stream_modStream_other _ _ hd, hvs]
    simp only [hd, if_false, Option.map_id']
  generalize hy : ({ x.savePos with occs := x.savePos.occs.filter fun o => !o.last.isSome } : Stream) = y at hwx
  have hyr : y.runnable = x.runnable := by rw [← hy]; rfl
  have hyl : y.lane = x.lane := by rw [← hy]; rfl
  have hdel := w.queueShape_delist c
  have hnot := State.notMem_delist_self hwx
  have htl : (w.delist c).lanes = w.lanes := by unfold State.delist; split <;> rfl
  rw [hyl] at hnot
  generalize w.delist c = t at hdel hnot htl ⊢
  have htq : (t.lane p).queue = (v.lane p).queue := by unfold State.lane; rw [htl, hwl]
  generalize hz : (if x.runnable = true then t.enlist c
    else t.modLane p fun l => { l with queue := l.queue.filter fun e => !(decide (e.sctx = c) && !e.begun) }) = z
  have htz : t.QueueShape z := by
    rw [← hz]
    split
    · exact t.queueShape_enlist c
    · rfl
  have hshape : t.QueueShape ((z.dropEnded p).refill x.lane) :=
    (htz.trans (t := z) (u := z.dropEnded p) rfl).trans ((z.dropEnded p).queueShape_refill x.lane)
  have hrun : ((z.dropEnded p).refill x.lane).fw = z.fw := by rw [State.refill_frame]; rfl
  have hzx : (z.dropEnded p).stream c = some y := by
    have hzs : z.stream c = t.stream c := htz.stream c
    exact hzs.trans ((hdel.stream c).trans hwx)
  refine ⟨((hsv.trans hvw).trans (.of_queueShape hdel)).trans (.of_queueShape hshape), ⟨x.savePos.occs.filter fun o => !o.last.isSome, ?_⟩, fun d hd => ?_,
    fun hr => ?_, fun hr => ⟨?_, ?_⟩⟩
  · rw [hshape.stream, hdel.stream, hwx, ← hy]
  · rw [hshape.stream, hdel.stream, hwo d hd]
  · refine ⟨t.runlistOf x.lane, ?_⟩
    unfold State.runlistOf at hnot ⊢
    rw [hrun, ← hz, if_pos hr]
    unfold State.enlist
    rw [hdel.stream, hwx]
    dsimp only
    rw [if_neg (by unfold State.runlistOf; rw [hyl]; simpa using hnot), hyl]
    exact Tbl.get_set_same _ _ _ _
  · unfold State.runlistOf at hnot ⊢
    rw [hrun, ← hz, if_neg (by rw [hr]; exact Bool.false_ne_true)]
    exact hnot
  · have hzend : z.AllEnded p c := by
      intro e he hec
      rw [← hz, if_neg (by rw [hr]; exact Bool.false_ne_true), State.lane_modLane_same] at he
      dsimp only at he
      rw [htq, hvq] at he
      exact endedQueue he hec
    refine hzend.dropEnded.refill ?_ x.lane
    rw [hzx]
    exact hyr.trans hr

/-- The run of a stream ends (R102, R104). -/
theorem State.endRun_effect {s : State} {c : Nat} {x : Stream} (h : HostView) (p : Nat) (park : Bool) (hx : s.stream c = some x) :
    s.FwShape (s.endRun h p c park) ∧ (s.endRun h p c park).AllEnded p c ∧ c ∉ (s.endRun h p c park).runlistOf x.lane ∧
    ∃ occs pos sent owed, (s.endRun h p c park).stream c = some { x.ended park with occs := occs, savedPos := pos, statsSent := sent, owed := owed } := by
  obtain ⟨v, hv⟩ : ∃ v, (s.modStream c fun x => x.ended park) = v := ⟨_, rfl⟩
  have hend : s.endRun h p c park = match (v.endDescriptor p c).stream c with
      | some x => if x.idx = 0 then (v.endDescriptor p c).record h c else v.endDescriptor p c
      | none => v.endDescriptor p c := by subst hv; rfl
  have hvx : v.stream c = some (x.ended park) := by
    rw [← hv, State.stream_modStream_same, hx]
    rfl
  have hrun : (x.ended park).runnable = false := by
    unfold Stream.runnable Stream.ended
    cases park <;> rfl
  have hlane : (x.ended park).lane = x.lane := by unfold Stream.ended; dsimp only; split <;> rfl
  have hsv : s.FwShape v := by rw [← hv]; exact s.fwShape_modStream c _
  obtain ⟨h1, ⟨occs, h4⟩, _, _, h23⟩ := State.endDescriptor_effect p hvx
  obtain ⟨h3, h2⟩ := h23 hrun
  rw [hlane] at h3
  rw [hend]
  generalize v.endDescriptor p c = w at h1 h2 h3 h4 ⊢
  rw [h4]
  dsimp only
  split
  · obtain ⟨r1, r2, _, r4⟩ := w.putRecord_shape h c none Stream.positionWords
    have hrec := State.stream_putRecord h4 h none Stream.positionWords
    unfold State.record
    generalize w.putRecord h c none Stream.positionWords = u at r1 r2 r4 hrec ⊢
    refine ⟨(hsv.trans h1).trans r1, ?_, ?_, occs, _, _, _, hrec⟩
    · unfold State.AllEnded State.lane at h2 ⊢
      rw [r2]
      exact h2
    · unfold State.runlistOf at h3 ⊢
      rw [r4]
      exact h3
  · exact ⟨hsv.trans h1, h2, h3, occs, _, _, _, h4⟩

/-! ### The statement -/

theorem exec_post {s : State} (lane : Fin 10) (hs : s.works) : exec (.post lane) s = .next (s.keep (postInsn lane.val s)) :=
  (running_works _ hs : execPost lane s = _)

theorem exec_endRun {s : State} (lane : Fin 10) (h : HostView) (hs : s.works) : exec (.endRun lane .execute h) s = .next (s.keep (endInsn h lane.val s)) :=
  (running_works _ hs : execEndRun lane .execute h s = _)

/-- Settles O52: the rule of each of the execute engine's instructions, and what taking it off the queue leaves. -/
theorem executeInstructions : Obligations.ExecuteInstructions := by
  intro s lane h c x q cmd hs hh hl
  obtain ⟨_, hx, _, _⟩ := State.execHead_stream hh
  refine ⟨fun hk ha => ?_, fun ev line hal add hq hf hw ha hroom => ?_, fun park hq ht hxf ho => ?_⟩
  · obtain ⟨is, his, hex⟩ := exec_execRow hs hk
    rw [hex, stateInsn_does hh his hl ha]
    obtain ⟨y, l, hy, hp, hshape⟩ := State.popInsn_effect lane.val (State.stream_setStream_same s c { x with xrs := x.xrs.apply q.i })
    generalize State.popInsn _ lane.val c = u at hy hshape ⊢
    have hrest := hp.rest
    refine ⟨s.keep u, y, l, rfl, ?_, hy, ?_, hp.xq, hp.own, ?_, ?_, ?_⟩
    · rw [hshape]; rfl
    · rw [hrest]
    · rw [hrest]
    · rw [hrest]
    · rw [hrest]
  · rw [exec_post lane hs, postInsn_does hh hq hl hf hw ha hroom]
    obtain ⟨⟨_, hst⟩, hplate, hpwr, htime, hout, hother, hlive, hdead⟩ := s.postTo_effect c ev line hal add
    by_cases h0 : x.idx = 0
    · rw [if_neg (not_not_intro h0)]
      obtain ⟨g, hg⟩ := hst c
      rw [hx] at hg
      generalize s.postTo c ev line hal add = v at *
      obtain ⟨y, l, hy, hp, hshape⟩ := State.popInsn_effect lane.val hg
      generalize State.popInsn _ lane.val c = u at hy hshape ⊢
      refine ⟨s.keep u, y, l, rfl, hy, hp.xq, ?_⟩
      have hu : u.plate = v.plate ∧ u.pwr = v.pwr ∧ u.time = v.time ∧ u.hal = v.hal := by rw [hshape]; exact ⟨rfl, rfl, rfl, rfl⟩
      obtain ⟨u1, u2, u3, u4⟩ := hu
      have hword : ∀ k, u.hword k = v.hword k := State.hword_of_words_eq (by rw [u4])
      refine ⟨u1.trans hplate, u2.trans hpwr, u3.trans htime, fun hn => absurd h0 hn, fun _ => ⟨?_, fun k hk => (hword k).trans (hother k hk),
        fun hd hu => (hword hal).trans (hlive hd hu), fun hd => ⟨(hword hal).trans (hdead hd).1, ?_⟩⟩⟩
      · exact (congrArg Hal.evOutQ u4).trans hout
      · exact (congrArg Hal.discarded u4).trans (hdead hd).2
    · rw [if_pos h0]
      obtain ⟨y, l, hy, hp, hshape⟩ := State.popInsn_effect lane.val hx
      generalize State.popInsn _ lane.val c = u at hy hshape ⊢
      refine ⟨s.keep u, y, l, rfl, hy, hp.xq, ?_, ?_, ?_, fun _ => ?_, fun h => absurd h h0⟩ <;> (rw [hshape]; rfl)
  · rw [exec_endRun lane h hs, endInsn_does hh hq hl ht hxf ho]
    obtain ⟨h1, h2, h3, occs, pos, sent, owed, h4⟩ := State.endRun_effect h lane.val park hx
    have hhal := h1.hal
    have hplate := h1.plate
    generalize s.endRun h lane.val c park = u at *
    have hreserve : (if x.idx = 0 then x.count 1 1 else x).reserve = x.reserve := by split <;> rfl
    refine ⟨s.keep u, _, rfl, h4, rfl, ?_, rfl, ?_, ?_, fun h0 => ?_, h3, h2, hhal, hplate⟩
    · unfold Stream.ended; dsimp only; rw [hreserve]
    · unfold Stream.ended; dsimp only; split <;> rfl
    · unfold Stream.ended; dsimp only; split <;> rfl
    · unfold Stream.ended Stream.stat
      dsimp only
      rw [if_pos h0]
      exact Tbl.get_set_same _ _ _ _

end Sys2Proof.Machine
end

section
/-! SUPPORT. Refutes `Transfers`: a `DRAIN` whose units are all out waits for the reads of its `EMIT`. -/
namespace Sys2Proof.Machine

/-- A transfer whose one write unit is out, while its `EMIT` has not issued its last read. -/
def readingXfer : Transfer := { Transfer.begin 0 .start (quietStream 5).snapshot 0 0 with wrNext := 1 }

/-- The stream of that transfer. -/
def readingStream : Stream :=
  { quietStream 5 with st := .active, emitting := true, xq := [⟨.drain, 1, 0⟩], xfers := [readingXfer], nextXfer := 1 }

/-- Lane 0 stands at the `DRAIN` of that transfer. -/
def readingDrain : State := { State.reset with
  life := { State.reset.life with started := true }
  fw := { State.reset.fw with
    streams := [(5, readingStream)] }
  lanes := [(0, { Lane.reset with queue := [⟨5, true, false, false, 0, [], 0, [], []⟩] })] }

theorem readingDrain_works : readingDrain.works := by unfold State.works State.live; decide +kernel

/-- The `DRAIN` before its units are computed: all of them are out. -/
def readingUnits : State := (readingDrain.ageRequests 0).modLane 0 fun l => { l with xst := if l.xst ≤ 3 then 2 else l.xst }

theorem readingUnits_out : State.drainUnits 0 5 0 2 readingUnits = (readingUnits, true) := by
  unfold State.drainUnits
  have hx : readingUnits.xferOf 5 0 = some (readingStream, readingXfer) := by decide +kernel
  rw [hx]
  exact if_pos (by decide)

/-- The engine waits: the transfer has not issued its last write. -/
theorem readingDrain_waits : exec (.drain 0) readingDrain = .next (readingDrain.keep (drainInsn 0 readingDrain)) ∧
    (((readingDrain.keep (drainInsn 0 readingDrain)).stream 5).bind fun y => (y.xfer 0).map Transfer.wrIssued) = some false :=
  ⟨(running_works _ readingDrain_works : execDrain 0 readingDrain = _), by decide +kernel⟩

/-- Refutes O53: a `DRAIN` whose units are all computed and issued stays at the head of the queue while its `EMIT` has not issued its last read. -/
theorem not_transfers : ¬ Obligations.Transfers := by
  intro h
  obtain ⟨hexec, hopen⟩ := readingDrain_waits
  obtain ⟨_, hdrain, _⟩ := h readingDrain 0 5 readingStream readingDrain_works
  obtain ⟨u, y, hu, hy, hissued, _⟩ := hdrain ⟨.drain, 1, 0⟩ readingXfer readingUnits readingUnits (readingDrain.ageRequests 0) rfl (by decide +kernel) rfl
    (by decide +kernel) (by decide +kernel) (by decide +kernel) (by decide +kernel) rfl readingUnits_out (fun e he => by
      have hx : readingUnits.xferOf 5 0 = some (readingStream, readingXfer) := by decide +kernel
      rw [← Option.some.inj (hx.symm.trans he)]
      rfl)
  obtain rfl : readingDrain.keep (drainInsn 0 readingDrain) = u := Host.Outcome.next.inj (hexec.symm.trans hu)
  rw [hy, Option.bind_some, Option.map_eq_some_iff] at hopen
  obtain ⟨t, ht, hf⟩ := hopen
  rw [hissued t ht] at hf
  exact nomatch hf

end Sys2Proof.Machine
end

section
/-! SUPPORT. Lane pauses, descriptors, quanta, admission and stream records (R107, R127, R232, R261, R262, R266). -/
namespace Sys2Proof.Machine

/-! ### The host's pause (R127, R266) -/

/-- Filling the queue of a logical lane changes no lane but its own, and of that lane its queue. -/
theorem State.lane_refill (s : State) (n p : Nat) : ∃ q, (s.refill n).lane p = { s.lane p with queue := q } ∧ (s.physOf n ≠ some p → q = (s.lane p).queue) := by
  unfold State.refill
  split
  · exact ⟨_, rfl, fun _ => rfl⟩
  next p' hp' =>
    split
    · exact ⟨_, rfl, fun _ => rfl⟩
    · by_cases hp : p = p'
      · subst hp
        rw [State.lane_modLane_same]
        exact ⟨_, rfl, fun h => absurd hp' h⟩
      · rw [State.lane_modLane_other _ _ hp]
        exact ⟨_, rfl, fun _ => rfl⟩

/-- A lane whose last stop goes holds no more. -/
theorem Lane.unstop_holding {l : Lane} {x : Stop} (h : (l.unstop x).stops = []) : (l.unstop x).holding = false := by
  rw [Lane.unstop_stops] at h
  unfold Lane.unstop
  dsimp only
  split
  · show decide _ = false
    rw [h]
    rfl
  next hh => simpa using hh

/-- A stop goes: of the other lanes only the one that takes the queue changes, and that is the lane itself. -/
theorem State.unstop_effect {s : State} {p n : Nat} (x : Stop) (hl : s.logicalOf p = some n) (hp : s.physOf n = some p) :
    s.unstop p x = { s with lanes := (s.unstop p x).lanes } ∧ (∀ q, q ≠ p → (s.unstop p x).lane q = s.lane q) ∧
    ((s.unstop p x).lane p).stops = (s.lane p).stops.filter (fun y => decide (y ≠ x)) ∧
    (((s.unstop p x).lane p).stops = [] → ((s.unstop p x).lane p).holding = false) := by
  have hstops := s.stops_unstop p x
  refine ⟨?_, ?_, hstops, ?_⟩
  all_goals
    unfold State.unstop
    dsimp only
    generalize hv : (if (s.lane p).holding && !((s.modLane p fun l => l.unstop x).lane p).holding then
        (s.modLane p fun l => l.unstop x).modLane p fun l => { l with xst := (s.modLane p fun l => l.unstop x).leaveXst p }
      else s.modLane p fun l => l.unstop x) = v
    have hvs : v = { s with lanes := v.lanes } := by rw [← hv]; split <;> rfl
    have hvl : v.logicalOf p = some n := by rw [hvs]; exact hl
    have hvp : v.physOf n = some p := by rw [hvs]; exact hp
    rw [hvl]
    dsimp only
  · rw [v.refill_frame n, hvs]
  · intro q hq
    obtain ⟨k, h1, h2⟩ := v.lane_refill n q
    rw [h1, h2 (by rw [hvp]; exact fun h => hq (Option.some.inj h).symm), ← hv]
    split
    · rw [State.lane_modLane_other _ _ hq, State.lane_modLane_other _ _ hq]
    · rw [State.lane_modLane_other _ _ hq]
  · obtain ⟨k, h1, _⟩ := v.lane_refill n p
    rw [h1]
    show (v.lane p).stops = [] → (v.lane p).holding = false
    rw [← hv]
    split
    · rw [State.lane_modLane_same, State.lane_modLane_same]
      exact Lane.unstop_holding
    · rw [State.lane_modLane_same]
      exact Lane.unstop_holding

theorem Lane.stop_effect (l : Lane) (x : Stop) : (l.stop x).queue = l.queue ∧ (l.stop x).stops.contains x = true ∧ (l.stop x).holding = l.holding ∧
    (l.stops.contains x = false → (l.stop x).draining = (l.draining || !l.holding)) := by
  refine ⟨?_, by simpa using l.mem_stop x, ?_, fun h => ?_⟩
  all_goals unfold Lane.stop
  · split <;> rfl
  · split <;> rfl
  · rw [if_neg (by rw [h]; exact Bool.false_ne_true)]

/-! ### Descriptors (R107, R340) and quanta (R261) -/

section
variable {s : State} {p : Nat} {e : DescEntry}

theorem laneDescriptor_refuses (hn : (s.lane p).nextEntry = some e) (hf : (s.lane p).fetching = true) (he : s.fetchEntry p = none)
    (ha : (s.lane p).queue.any (fun d => decide (d.sctx = e.sctx) && d.begun && !d.ended) = false) (hs : e.sound = false) :
    laneDescriptor p s = s.refuseDescriptor p e := by
  unfold laneDescriptor
  dsimp only
  rw [hn]
  dsimp only
  rw [if_neg (by rw [hf, he, ha]; decide), hs]
  rfl

theorem laneDescriptor_takes (hn : (s.lane p).nextEntry = some e) (hf : (s.lane p).fetching = true) (he : s.fetchEntry p = none)
    (ha : (s.lane p).queue.any (fun d => decide (d.sctx = e.sctx) && d.begun && !d.ended) = false) (hs : e.sound = true) :
    laneDescriptor p s = ((s.setLane p { s.lane p with queue := beginFirst (s.lane p).queue, used := true }).restartOccs e.sctx).passOn p := by
  unfold laneDescriptor
  dsimp only
  rw [hn]
  dsimp only
  rw [if_neg (by rw [hf, he, ha]; decide), hs]
  rfl

end

/-- Passing on changes the streams alone. -/
theorem State.passOn_frame (s : State) (p : Nat) : s.passOn p = { s with fw := { s.fw with streams := (s.passOn p).fw.streams } } := by
  refine State.passOn_induct (P := fun t => t = { s with fw := { s.fw with streams := t.fw.streams } }) p ?_ rfl
  intro t d z i pc reps hs _ _
  generalize ({ z with fpc := pc, reps := reps, rs := z.rs.apply i, xq := z.xq ++ [⟨i, z.fpc, 0⟩] } : Stream) = z'
  unfold State.setStream
  rw [hs]

/-- The first unended descriptor of the lane is marked expired. -/
def State.markExpired (s : State) (p c : Nat) : State :=
  s.setLane p { s.lane p with queue := (s.lane p).queue.map fun d => if d.sctx = c ∧ d.begun ∧ !d.ended then { d with expired := true } else d }

theorem quantumExpiry_some {s : State} {p : Nat} {e : DescEntry} {x : Stream} (he : (s.lane p).execEntry = some e) (hx : s.stream e.sctx = some x) :
    quantumExpiry p s = if (s.lane p).stops = [] ∧ x.headXfer.isNone ∧ !x.emitting then (s.markExpired p e.sctx).endDescriptor p e.sctx
      else s.markExpired p e.sctx := by
  unfold quantumExpiry
  dsimp only
  rw [he]
  dsimp only
  have hx' : (s.markExpired p e.sctx).stream e.sctx = some x := hx
  generalize hm : State.setLane s p _ = m
  have hmm : s.markExpired p e.sctx = m := hm
  rw [hmm] at hx'
  rw [hx', hmm]

/-- The host pauses a lane in service: the lane has that stop. -/
theorem lanePause_effect {s : State} {n p : Nat} (hn : n < s.nLanes) (hp : s.physOf n = some p) :
    s.lanePause n = { s with ctl := { s.ctl with pause := setBit s.ctl.pause n true }, lanes := (s.lanePause n).lanes } ∧
    (∀ q, q ≠ p → (s.lanePause n).lane q = s.lane q) ∧ ((s.lanePause n).lane p).queue = (s.lane p).queue ∧
    ((s.lanePause n).lane p).stops.contains .hostPause = true ∧ ((s.lanePause n).lane p).holding = (s.lane p).holding ∧
    ((s.lane p).stops.contains .hostPause = false →
      ((s.lanePause n).lane p).draining = ((s.lane p).draining || !(s.lane p).holding)) := by
  have hv : s.lanePause n = ({ s with ctl := { s.ctl with pause := setBit s.ctl.pause n true } } : State).stopLane p .hostPause := by
    unfold State.lanePause
    rw [if_neg (by omega)]
    dsimp only
    rw [show ({ s with ctl := { s.ctl with pause := setBit s.ctl.pause n true } } : State).physOf n = some p from hp]
  rw [hv]
  obtain ⟨h1, h2, h3, h4⟩ := (s.lane p).stop_effect .hostPause
  refine ⟨rfl, fun q hq => State.lane_stopLane_other _ _ hq, ?_⟩
  rw [State.lane_stopLane_same]
  exact ⟨h1, h2, h3, h4⟩

/-- The host ends the pause of a lane in service: the lane has that stop no more. -/
theorem laneUnpause_effect {s : State} {n p : Nat} (hn : n < s.nLanes) (hp : s.physOf n = some p) (hl : s.logicalOf p = some n) :
    s.laneUnpause n = { s with ctl := { s.ctl with pause := setBit s.ctl.pause n false }, lanes := (s.laneUnpause n).lanes } ∧
    (∀ q, q ≠ p → (s.laneUnpause n).lane q = s.lane q) ∧
    ((s.laneUnpause n).lane p).stops = (s.lane p).stops.filter (fun y => decide (y ≠ .hostPause)) ∧
    (((s.laneUnpause n).lane p).stops = [] → ((s.laneUnpause n).lane p).holding = false) := by
  have hv : s.laneUnpause n = ({ s with ctl := { s.ctl with pause := setBit s.ctl.pause n false } } : State).unstop p .hostPause := by
    unfold State.laneUnpause
    rw [if_neg (by omega)]
    dsimp only
    rw [show ({ s with ctl := { s.ctl with pause := setBit s.ctl.pause n false } } : State).physOf n = some p from hp]
  rw [hv]
  exact State.unstop_effect (s := { s with ctl := { s.ctl with pause := setBit s.ctl.pause n false } }) .hostPause hl hp

/-- A refused descriptor leaves the lane's queue, with kind 28 raised. -/
theorem refuseDescriptor_effect (s : State) (p : Nat) (e : DescEntry) :
    (s.refuseDescriptor p e).flt.safe = true ∧ (s.refuseDescriptor p e).flt.pulse = true ∧
    ((s.refuseDescriptor p e).lane p).queue = (s.lane p).queue.erase e ∧ (s.refuseDescriptor p e).plate = s.plate ∧
    (s.refuseDescriptor p e).hal = s.hal ∧ (s.refuseDescriptor p e).time = s.time := by
  unfold State.refuseDescriptor
  generalize hv : (s.modLane p fun l => { l with queue := l.queue.erase e }) = v
  have hq : (v.lane p).queue = (s.lane p).queue.erase e := by rw [← hv, State.lane_modLane_same]
  have hrest : v.plate = s.plate ∧ v.hal = s.hal ∧ v.time = s.time := by rw [← hv]; exact ⟨rfl, rfl, rfl⟩
  obtain ⟨hplate, hhal, htime⟩ := hrest
  generalize hb : (⟨0, p, 28, ((s.stream e.sctx).map (formatP e.sctx)).getD 0⟩ : Burgee) = b
  obtain ⟨_, _, _, _, hhigh, _⟩ := v.raise_effect b
  obtain ⟨hsafe, hpulse⟩ := hhigh (by rw [← hb]; show 2 ≤ kindSev 28; decide)
  obtain ⟨_, _, _, hkeep⟩ := v.stopsOn_raise (A := fun _ => True) b
  exact ⟨hsafe, hpulse, (hkeep p trivial).2.trans hq, (v.raise_plate b).trans hplate, (v.raise_hal b).trans hhal, (v.raise_time b).trans htime⟩

/-- A descriptor that is taken counts as begun. -/
theorem takeDescriptor_effect (s : State) (p c : Nat) (l : Lane) :
    ((s.setLane p l).restartOccs c).passOn p = { s with lanes := (((s.setLane p l).restartOccs c).passOn p).lanes,
                                                        fw := { s.fw with streams := (((s.setLane p l).restartOccs c).passOn p).fw.streams } } ∧
    (((s.setLane p l).restartOccs c).passOn p).lanes = (s.setLane p l).lanes := by
  have hrestart : (s.setLane p l).restartOccs c = { s.setLane p l with fw := { s.fw with streams := ((s.setLane p l).restartOccs c).fw.streams } } := by
    unfold State.restartOccs
    rw [State.modStream_frame]
    rfl
  have hpass := ((s.setLane p l).restartOccs c).passOn_frame p
  rw [hpass, hrestart]
  exact ⟨rfl, rfl⟩

theorem State.lane_markExpired_other (s : State) {p q : Nat} (c : Nat) (h : q ≠ p) : (s.markExpired p c).lane q = s.lane q :=
  State.lane_setLane_other _ _ h

/-- The quantum of a stream that stands between transfers expires: its descriptor ends. -/
theorem quantumExpiry_ends {s : State} {p : Nat} {e : DescEntry} {x : Stream} (he : (s.lane p).execEntry = some e) (hx : s.stream e.sctx = some x)
    (hs : (s.lane p).stops = []) (ht : x.headXfer = none) (hm : x.emitting = false) :
    (x.runnable = true → ∃ l, (quantumExpiry p s).runlistOf x.lane = l ++ [e.sctx]) ∧
    (x.runnable = false → e.sctx ∉ (quantumExpiry p s).runlistOf x.lane) ∧
    (∃ y : Stream, (quantumExpiry p s).stream e.sctx = some y ∧ y = { x with savedPos := x.positionWords, occs := y.occs }) ∧
    (∀ d, d ≠ e.sctx → (quantumExpiry p s).stream d = s.stream d) ∧ (quantumExpiry p s).plate = s.plate ∧ (quantumExpiry p s).hal = s.hal := by
  rw [quantumExpiry_some he hx, if_pos (by rw [hs, ht, hm]; decide)]
  have hx' : (s.markExpired p e.sctx).stream e.sctx = some x := hx
  obtain ⟨hshape, ⟨o, ho⟩, hother, hrun, hnot⟩ := State.endDescriptor_effect p hx'
  exact ⟨hrun, fun h => (hnot h).1, ⟨_, ho, rfl⟩, hother, hshape.plate, hshape.hal⟩

/-! ### Admission (R232) -/

/-- A member takes its positions and becomes Active and runnable. -/
def State.admitMember (l : List Nat) (c depth : Nat) (s : State) (i : Nat) : State :=
  let s := s.modStream (c + i) fun y => { y with reserve := (l.drop (i * depth)).take depth, st := .active }
  match s.stream (c + i) with
  | some y => if y.runnable then s.makeRunnable (c + i) else s
  | none => s

theorem State.admitMember_effect (l : List Nat) (c depth : Nat) (s : State) (i : Nat) :
    (s.modStream (c + i) fun y => { y with reserve := (l.drop (i * depth)).take depth, st := .active }).QueueShape (s.admitMember l c depth i) := by
  unfold State.admitMember
  dsimp only
  split
  · split
    · exact State.queueShape_makeRunnable _ _
    · exact .refl _
  · exact .refl _

/-- The members below `n` have been admitted. -/
theorem State.admitMembers_effect (l : List Nat) (c depth : Nat) (s : State) : ∀ n : Nat,
    (((List.range n).foldl (State.admitMember l c depth) s) = { s with
      fw := { s.fw with streams := ((List.range n).foldl (State.admitMember l c depth) s).fw.streams, runlist := ((List.range n).foldl (State.admitMember l c depth) s).fw.runlist },
      lanes := ((List.range n).foldl (State.admitMember l c depth) s).lanes }) ∧
    (∀ d, (∀ i, i < n → d ≠ c + i) → ((List.range n).foldl (State.admitMember l c depth) s).stream d = s.stream d) ∧
    (∀ i, i < n → ∀ z, s.stream (c + i) = some z → ((List.range n).foldl (State.admitMember l c depth) s).stream (c + i) =
      some { z with reserve := (l.drop (i * depth)).take depth, st := .active }) := by
  intro n
  induction n with
  | zero => exact ⟨rfl, fun _ _ => rfl, fun i hi => absurd hi (by omega)⟩
  | succ n ih =>
    obtain ⟨h1, h2, h3⟩ := ih
    rw [List.range_succ, List.foldl_append, List.foldl_cons, List.foldl_nil]
    generalize (List.range n).foldl (State.admitMember l c depth) s = v at h1 h2 h3 ⊢
    have hstep := v.admitMember_effect l c depth n
    generalize v.admitMember l c depth n = w at hstep ⊢
    refine ⟨?_, fun d hd => ?_, fun i hi z hz => ?_⟩
    · rw [hstep, State.modStream_frame, h1]
    · rw [hstep.stream, State.stream_modStream_other _ _ (hd n (by omega))]
      exact h2 d fun i hi => hd i (by omega)
    · rw [hstep.stream]
      by_cases hin : i = n
      · subst hin
        rw [State.stream_modStream_same, h2 _ (fun j hj => by omega), hz]
        rfl
      · rw [State.stream_modStream_other _ _ (by omega)]
        exact h3 i (by omega) z hz

section
variable {s : State} {c : Nat} {rest : List Nat} {x : Stream} {place : List Nat}

theorem State.admitHead_waits (hq : s.fw.admitQ = c :: rest) (hx : s.stream c = some x) (h : s.reservePlaces place (x.g * x.depth) = none) :
    s.admitHead place = s := by
  unfold State.admitHead
  obtain ⟨f, hf⟩ : ∃ f, State.reservePlaces s place = f := ⟨_, rfl⟩
  rw [hf] at h ⊢
  rw [hq]
  dsimp only
  rw [hx]
  dsimp only
  rw [h]

theorem State.admitHead_admits {l : List Nat} (hq : s.fw.admitQ = c :: rest) (hx : s.stream c = some x)
    (h : s.reservePlaces place (x.g * x.depth) = some l) : s.admitHead place =
      (List.range x.g).foldl (State.admitMember l c x.depth) { s with fw := { s.fw with admitQ := rest } } := by
  unfold State.admitHead
  obtain ⟨f, hf⟩ : ∃ f, State.reservePlaces s place = f := ⟨_, rfl⟩
  rw [hf] at h ⊢
  rw [hq]
  dsimp only
  rw [hx]
  dsimp only
  rw [h]
  rfl

end

/-! ### The record timer (R262) -/

/-- What a table finds stands in it. -/
theorem mem_of_find {α : Type} {k : Nat} {v : α} : ∀ {t : Tbl α}, Tbl.find t k = some v → (k, v) ∈ t
  | [], h => nomatch h
  | (j, w) :: t, h => by
    unfold Tbl.find at h
    split at h
    next hj =>
      obtain rfl := hj
      obtain rfl := Option.some.inj h
      exact List.mem_cons_self
    · exact List.mem_cons_of_mem _ (mem_of_find h)

/-- What the record timer does for one stream. -/
def State.timeRecord (h : HostView) (s : State) (c : Nat) : State :=
  match s.stream c with
  | some x => if x.idx = 0 && decide (x.st = .active) && s.countsChanged c then s.putRecord h c none Stream.savedPos else s
  | none => s

theorem exec_streamRecordTimer {s : State} (hs : s.works) (h : HostView) : exec (.streamRecordTimer h) s =
    .next (s.keep (if !s.ctl.fwReady then s else ((s.payRecords h).fw.streams.map (·.1)).foldl (State.timeRecord h) (s.payRecords h))) := by
  have hexec : exec (.streamRecordTimer h) s = _ := (running_works _ hs : execStreamRecordTimer h s = _)
  exact hexec

/-- No record is due that no stream owes. -/
theorem State.payRecords_none {s : State} (h : HostView) (ho : ∀ e ∈ s.fw.streams, e.2.owed = false) : s.payRecords h = s := by
  unfold State.payRecords
  rw [List.filter_eq_nil_iff.mpr fun e he => by rw [ho e he]; exact Bool.false_ne_true]
  rfl

/-- A stream whose counts stand has no record written. -/
theorem State.timeRecord_clean {s : State} (h : HostView) (hc : ∀ e ∈ s.fw.streams, e.2.stats = e.2.statsSent) (c : Nat) : s.timeRecord h c = s := by
  have hsame : s.countsChanged c = false := by
    unfold State.countsChanged
    refine List.any_eq_false.mpr fun d _ => ?_
    cases hd : s.stream d with
    | none => exact Bool.false_ne_true
    | some y =>
      have hy : y.stats = y.statsSent := hc _ (mem_of_find hd)
      simp [hy]
  unfold State.timeRecord
  split
  · rw [hsame, Bool.and_false]; rfl
  · rfl

/-- The record of the only stream, an Active one. -/
theorem State.timeRecord_one {s : State} {h : HostView} {c : Nat} {x : Stream} (hs : s.fw.streams = [(c, x)]) (hi : x.idx = 0) (ha : x.st = .active)
    (ho : x.owed = false) (hst : x.stats ≠ x.statsSent) (hb : (hostBad s.build.cfg.ports h x.recAddr 192).isSome = false) :
    s.timeRecord h c = (({ s with fw := { s.fw with streams := [(c, { x with statsSent := x.stats })] } }).fwWrite x.recAddr
      (s.recordBytes c x 2 x.savedPos)) := by
  have hx : s.stream c = some x := by unfold State.stream; rw [hs]; simp [Tbl.find]
  have hother : ∀ d, d ≠ c → s.stream d = none := fun d hd => by unfold State.stream; rw [hs]; simp [Tbl.find, Ne.symm hd]
  have hgroup := State.group_of_stream hx
  have hchanged : s.countsChanged c = true := by
    unfold State.countsChanged
    rw [hgroup, List.any_cons, hx]
    simp [hst]
  have hheld : s.heldGroup c = false := by
    unfold State.heldGroup
    refine List.any_eq_false.mpr fun d _ => ?_
    by_cases hd : d = c
    · subst hd; rw [hx]; simp [ha]
    · rw [hother d hd]; exact Bool.false_ne_true
  have hmod : ∃ z, s.modGroup c (fun y => { y with statsSent := y.stats }) = { s with fw := { s.fw with streams := [(c, z)] } } := by
    unfold State.modGroup
    refine foldl_keeps (fun u : State => ∃ z, u = { s with fw := { s.fw with streams := [(c, z)] } }) _ (fun u d hu => ?_) _ _ ⟨x, by rw [← hs]⟩
    obtain ⟨z, rfl⟩ := hu
    by_cases hd : d = c
    · subst hd
      exact ⟨{ z with statsSent := z.stats }, by simp [State.modStream, State.stream, State.setStream, Tbl.find, Tbl.put]⟩
    · exact ⟨z, by simp [State.modStream, State.stream, Tbl.find, Ne.symm hd]⟩
  obtain ⟨z, hz⟩ := hmod
  unfold State.timeRecord
  rw [hx]
  dsimp only
  rw [if_pos (by rw [hchanged, hi, ha]; rfl)]
  unfold State.putRecord
  rw [hx]
  dsimp only
  have howed : ({ x with savedPos := x.savedPos, statsSent := x.stats, owed := false } : Stream) = { x with statsSent := x.stats } := by rw [← ho]
  have hset : ({ s with fw := { s.fw with streams := [(c, z)] } } : State).setStream c { x with statsSent := x.stats } =
      { s with fw := { s.fw with streams := [(c, { x with statsSent := x.stats })] } } := by
    unfold State.setStream
    dsimp only
    rw [show Tbl.put c { x with statsSent := x.stats } [(c, z)] = [(c, { x with statsSent := x.stats })] by simp [Tbl.put]]
  have hcode : (none : Option Nat).getD ((if false = true then SState.held else x.st).code) = 2 := by rw [ha]; rfl
  rw [hheld, hb, hz, howed, hset, hcode, if_neg Bool.false_ne_true]

/-! ### The commands -/

section
variable {s : State}

theorem exec_streamRecordTimer_idle (hs : s.works) (h : HostView)
    (hi : s.ctl.fwReady = false ∨ (∀ e ∈ s.fw.streams, e.2.owed = false ∧ e.2.stats = e.2.statsSent)) : exec (.streamRecordTimer h) s = .next s := by
  rw [exec_streamRecordTimer hs]
  rcases hi with hr | hc
  · rw [hr]; rfl
  · have hpay : s.payRecords h = s := State.payRecords_none h fun e he => (hc e he).1
    have hfold : (s.fw.streams.map (·.1)).foldl (State.timeRecord h) s = s :=
      foldl_keeps (fun u => u = s) _ (fun u c hu => by rw [hu]; exact State.timeRecord_clean h (fun e he => (hc e he).2) c) _ _ rfl
    rw [hpay, hfold, ite_self]
    rfl

theorem exec_streamRecordTimer_one (hs : s.works) {h : HostView} (hr : s.ctl.fwReady = true) {c : Nat} {x : Stream} (hone : s.fw.streams = [(c, x)])
    (hi : x.idx = 0) (ha : x.st = .active) (ho : x.owed = false) (hst : x.stats ≠ x.statsSent)
    (hb : (hostBad s.build.cfg.ports h x.recAddr 192).isSome = false) : exec (.streamRecordTimer h) s =
      .next (({ s with fw := { s.fw with streams := [(c, { x with statsSent := x.stats })] } }).fwWrite x.recAddr
        (s.recordBytes c x 2 x.savedPos)) := by
  have hpay : s.payRecords h = s := State.payRecords_none h fun e he => by
    rw [hone, List.mem_singleton] at he
    rw [he]
    exact ho
  rw [exec_streamRecordTimer hs, hr, hpay, hone, List.map_cons, List.map_nil, List.foldl_cons, List.foldl_nil,
    State.timeRecord_one hone hi ha ho hst hb]
  rfl

theorem exec_streamAdmission (hs : s.works) (hr : s.ctl.fwReady = true) (place : List Nat) :
    exec (.streamAdmission place) s = .next (s.keep (s.admitHead place)) := by
  have hexec : exec (.streamAdmission place) s = _ := (running_works _ hs : execStreamAdmission place s = _)
  rw [hexec, hr]
  rfl

end

/-- Settles O54: each command of a lane's queue is one of the operations above. -/
theorem laneQueues : Obligations.LaneQueues := by
  unfold Obligations.LaneQueues
  intro s n lane place h hs
  have hpause : exec (.lanePause n) s = _ := (running_works _ hs : execLanePause n s = _)
  have hunpause : exec (.laneUnpause n) s = _ := (running_works _ hs : execLaneUnpause n s = _)
  have hdesc : exec (.laneDescriptor lane) s = _ := (running_works _ hs : execLaneDescriptor lane s = _)
  have hquant : exec (.quantumExpiry lane) s = _ := (running_works _ hs : execQuantumExpiry lane s = _)
  refine ⟨fun hn => ?_, fun p hn hp hl => ⟨?_, ?_⟩, fun e he hf hfe hany => ⟨fun hbad => ?_, fun hok => ?_⟩, fun he => ?_,
    fun e x he hx => ⟨fun hbusy => ?_, fun hstop hhead hemit => ?_⟩, fun c rest x hr hq hx => ⟨fun hl => ?_, fun l hl => ?_⟩,
    exec_streamRecordTimer_idle hs h, fun c x hr hone hi ha ho hst hb => exec_streamRecordTimer_one hs hr hone hi ha ho hst hb⟩
  case refine_1 =>
    rw [hpause, hunpause]
    unfold State.lanePause State.laneUnpause
    rw [if_pos hn, if_pos hn]
    exact ⟨rfl, rfl⟩
  case refine_2 =>
    obtain ⟨hframe, hrest⟩ := lanePause_effect hn hp
    have hkeep : s.keep (s.lanePause n.val) = s.lanePause n.val := by rw [hframe]; rfl
    exact ⟨_, by rw [hpause, hkeep], hframe, hrest⟩
  case refine_3 =>
    obtain ⟨hframe, hrest⟩ := laneUnpause_effect hn hp hl
    have hkeep : s.keep (s.laneUnpause n.val) = s.laneUnpause n.val := by rw [hframe]; rfl
    exact ⟨_, by rw [hunpause, hkeep], hframe, hrest⟩
  case refine_4 =>
    have hkeep := State.shellKept_raise (s.modLane lane.val fun l => { l with queue := l.queue.erase e })
      ⟨0, lane.val, 28, ((s.stream e.sctx).map (formatP e.sctx)).getD 0⟩
    rw [laneDescriptor_refuses he hf hfe hany hbad] at hdesc
    exact ⟨_, hdesc.trans (congrArg Host.Outcome.next hkeep), refuseDescriptor_effect s lane.val e⟩
  case refine_5 =>
    obtain ⟨hframe, hlanes⟩ := takeDescriptor_effect s lane.val e.sctx { s.lane lane.val with queue := beginFirst (s.lane lane.val).queue, used := true }
    rw [laneDescriptor_takes he hf hfe hany hok] at hdesc
    generalize ((s.setLane lane.val { s.lane lane.val with queue := beginFirst (s.lane lane.val).queue, used := true }).restartOccs e.sctx).passOn lane.val = u
      at hframe hlanes hdesc
    have hlane : ∀ q, u.lane q = (s.setLane lane.val { s.lane lane.val with queue := beginFirst (s.lane lane.val).queue, used := true }).lane q :=
      fun q => congrArg (fun l => Tbl.get Lane.reset l q) hlanes
    have hkeep : s.keep u = u := by rw [hframe]; rfl
    refine ⟨u, hdesc.trans (congrArg _ hkeep), hframe, fun q hq => ?_, ?_⟩
    · rw [hlane, State.lane_setLane_other _ _ hq]
    · rw [hlane, State.lane_setLane_same]
  case refine_6 =>
    rw [hquant]
    unfold quantumExpiry
    dsimp only
    rw [he]
    rfl
  case refine_7 =>
    have hnot : ¬((s.lane lane.val).stops = [] ∧ x.headXfer.isNone ∧ !x.emitting) := by
      rintro ⟨h1, h2, h3⟩
      rcases hbusy with h | h | h
      · exact h h1
      · exact h (Option.isNone_iff_eq_none.mp h2)
      · rw [h] at h3; exact nomatch h3
    rw [quantumExpiry_some he hx, if_neg hnot] at hquant
    exact ⟨_, hquant, rfl, fun q hq => State.lane_markExpired_other s _ hq, State.lane_setLane_same _ _ _⟩
  case refine_8 =>
    obtain ⟨hshape, _⟩ := State.endDescriptor_effect lane.val (show (s.markExpired lane.val e.sctx).stream e.sctx = some x from hx)
    have hkeep : s.keep (quantumExpiry lane.val s) = quantumExpiry lane.val s := by
      rw [quantumExpiry_some he hx, if_pos (by rw [hstop, hhead, hemit]; decide), hshape.1]
      rfl
    exact ⟨_, hquant.trans (congrArg _ hkeep), quantumExpiry_ends he hx hstop hhead hemit⟩
  case refine_9 =>
    rw [exec_streamAdmission hs hr, State.admitHead_waits hq hx hl]
    rfl
  case refine_10 =>
    obtain ⟨hframe, hother, hmember⟩ := State.admitMembers_effect l c x.depth { s with fw := { s.fw with admitQ := rest } } x.g
    rw [exec_streamAdmission hs hr, State.admitHead_admits hq hx hl]
    generalize (List.range x.g).foldl (State.admitMember l c x.depth) { s with fw := { s.fw with admitQ := rest } } = u at hframe hother hmember ⊢
    have hkeep : s.keep u = u := by rw [hframe]; rfl
    refine ⟨u, by rw [hkeep], ?_, hmember, fun d hd => hother d fun i hi => by omega, ?_, ?_, ?_⟩ <;> rw [hframe]

end Sys2Proof.Machine
end

section
/-! SUPPORT. Holds, lane reports, deadline misses and the skew bound (R97, R118, R119, R127, R133, R138, R139, R238, R239). -/
namespace Sys2Proof.Machine

/-! ### A lane that holds with an empty queue (R118, R119) -/

/-- The stream is Held for an error. -/
def State.HeldInError (s : State) (c : Nat) : Prop := ∃ y : Stream, s.stream c = some y ∧ y.st = .held ∧ HeldBy.error ∈ y.heldBy

/-- A stream held for a list of reasons is Held once the list has one, and loses no reason. -/
theorem Stream.hold_effect (x : Stream) (bs : List HeldBy) :
    (HeldBy.error ∈ bs → (x.hold bs).st = .held ∧ HeldBy.error ∈ (x.hold bs).heldBy) ∧
    (x.st = .held → HeldBy.error ∈ x.heldBy → (x.hold bs).st = .held ∧ HeldBy.error ∈ (x.hold bs).heldBy) := by
  unfold Stream.hold
  dsimp only
  by_cases hb : bs = []
  · rw [if_pos hb, hb]
    exact ⟨fun h => (nomatch h), fun h1 h2 => ⟨h1, h2⟩⟩
  · rw [if_neg hb]
    have hmem : ∀ e, e ∈ bs ∨ e ∈ x.heldBy → e ∈ (x.heldBy ++ bs).eraseDups := fun e he =>
      List.mem_eraseDups.mpr (List.mem_append.mpr he.symm)
    split
    · split <;> exact ⟨fun h => ⟨rfl, hmem _ (.inl h)⟩, fun _ h => ⟨rfl, hmem _ (.inr h)⟩⟩
    · exact ⟨fun h => ⟨rfl, hmem _ (.inl h)⟩, fun _ h => ⟨rfl, hmem _ (.inr h)⟩⟩

/-- One stream takes the reasons of the hold and saves its position. -/
def State.holdStream (bs : List HeldBy) (s : State) (c : Nat) : State :=
  s.modStream c fun x => (x.hold (bs.filter (s.holdsFor c))).savePos

/-- Streams held for reasons that an error is one of are Held for it. -/
theorem State.heldInError_holdStreams {bs : List HeldBy} (hb : HeldBy.error ∈ bs) : ∀ (l : List Nat) (s : State),
    (∀ c ∈ l, ∃ x, s.stream c = some x) → ∀ c, c ∈ l ∨ s.HeldInError c → (l.foldl (State.holdStream bs) s).HeldInError c
  | [], _, _, _, h => h.elim (fun h => nomatch h) id
  | a :: l, s, hl, c, h => by
    have hmem : HeldBy.error ∈ bs.filter (s.holdsFor a) := List.mem_filter.mpr ⟨hb, rfl⟩
    refine State.heldInError_holdStreams hb l (s.holdStream bs a) (fun d hd => ?_) c ?_
    · obtain ⟨x, hx⟩ := hl d (List.mem_cons_of_mem _ hd)
      by_cases hda : d = a
      · subst hda
        exact ⟨_, by rw [State.holdStream, State.stream_modStream_same, hx]; rfl⟩
      · exact ⟨x, by rw [State.holdStream, State.stream_modStream_other _ _ hda, hx]⟩
    · by_cases hca : c = a
      · subst hca
        obtain ⟨x, hx⟩ := hl c List.mem_cons_self
        obtain ⟨h1, h2⟩ := (x.hold_effect _).1 hmem
        exact .inr ⟨(x.hold (bs.filter (s.holdsFor c))).savePos, by rw [State.holdStream, State.stream_modStream_same, hx]; rfl, h1, h2⟩
      · refine h.imp (fun h => (List.mem_cons.mp h).resolve_left hca) fun ⟨y, hy, h12⟩ => ⟨y, ?_, h12⟩
        rw [State.holdStream, State.stream_modStream_other _ _ hca, hy]

/-- `t` differs from `s` at most in the streams and the run lists. -/
def State.RunsOnly (s t : State) : Prop := t = { s with fw := { s.fw with streams := t.fw.streams, runlist := t.fw.runlist } }

theorem State.RunsOnly.trans {s t u : State} (h : s.RunsOnly t) (k : t.RunsOnly u) : s.RunsOnly u := by
  unfold State.RunsOnly at *; rw [k, h]

theorem State.RunsOnly.foldl {α : Type} {f : State → α → State} (hf : ∀ (s : State) a, s.RunsOnly (f s a)) (l : List α) (s : State) :
    s.RunsOnly (l.foldl f s) :=
  foldl_keeps (fun u => s.RunsOnly u) f (fun u a hu => hu.trans (hf u a)) l s rfl

theorem State.runsOnly_modStream (s : State) (c : Nat) (f : Stream → Stream) : s.RunsOnly (s.modStream c f) := by
  rw [State.modStream_frame]; rfl

theorem State.RunsOnly.lane {s t : State} (h : s.RunsOnly t) (p : Nat) : t.lane p = s.lane p := by rw [h]; rfl

theorem State.RunsOnly.keep_modLane {s t : State} (h : s.RunsOnly t) (p : Nat) (f : Lane → Lane) : s.keep (t.modLane p f) = t.modLane p f := by
  rw [h]; rfl

theorem State.runsOnly_delist (s : State) (c : Nat) : s.RunsOnly (s.delist c) := by
  unfold State.delist
  split <;> rfl

/-- A Held stream leaves its run list. -/
def State.delistHeld (s : State) (c : Nat) : State :=
  match s.stream c with
  | some x => if x.st = .held then s.delist c else s
  | none => s

theorem State.delistHeld_effect (s : State) (c : Nat) : s.RunsOnly (s.delistHeld c) ∧ ∀ d, (s.delistHeld c).stream d = s.stream d := by
  unfold State.delistHeld
  split
  · split
    · exact ⟨s.runsOnly_delist c, (s.queueShape_delist c).stream⟩
    · exact ⟨rfl, fun _ => rfl⟩
  · exact ⟨rfl, fun _ => rfl⟩

/-- The streams of a lane that holds, as they stand in the hold. -/
def State.holdStreams (s : State) (p : Nat) : State :=
  let cs := s.laneStreams p
  let fresh := (s.lane p).freshStops
  let t := if fresh.contains .safe then cs.foldl (fun s c => s.modStream c Stream.safeErrors) s else s
  cs.foldl State.delistHeld (cs.foldl (State.holdStream (fresh.filterMap Stop.heldBy)) t)

/-- A key that stands in a table is found. -/
theorem find_of_mem {α : Type} {e : Nat × α} : ∀ {t : Tbl α}, e ∈ t → ∃ v, Tbl.find t e.1 = some v
  | (j, w) :: t, h => by
    unfold Tbl.find
    split
    · exact ⟨w, rfl⟩
    next hj => exact find_of_mem ((List.mem_cons.mp h).resolve_left fun h => hj (by rw [h]))

/-- A stream that a stop concerns is bound. -/
theorem State.stream_of_laneStreams {s : State} {p c : Nat} (hq : (s.lane p).queue = []) (hc : c ∈ s.laneStreams p) : ∃ x, s.stream c = some x := by
  unfold State.laneStreams at hc
  rw [hq] at hc
  obtain ⟨e, he, rfl⟩ := List.mem_map.mp ((List.mem_append.mp hc).resolve_left fun h => nomatch List.mem_eraseDups.mp h)
  exact find_of_mem (List.mem_filter.mp he).1

theorem State.holdStreams_effect {s : State} {p : Nat} (hq : (s.lane p).queue = []) : s.RunsOnly (s.holdStreams p) ∧
    (Stop.error ∈ (s.lane p).freshStops → ∀ c ∈ s.laneStreams p, (s.holdStreams p).HeldInError c) := by
  have hbound : ∀ c ∈ s.laneStreams p, ∃ x, s.stream c = some x := fun c hc => State.stream_of_laneStreams hq hc
  unfold State.holdStreams
  dsimp only
  generalize s.laneStreams p = cs at hbound ⊢
  generalize hbs : (s.lane p).freshStops.filterMap Stop.heldBy = bs
  generalize ht : (if (s.lane p).freshStops.contains .safe then cs.foldl (fun s c => s.modStream c Stream.safeErrors) s else s) = t
  have hst : s.RunsOnly t := by
    rw [← ht]
    split
    · exact .foldl (fun s c => s.runsOnly_modStream c _) _ _
    · rfl
  have htb : ∀ c ∈ cs, ∃ x, t.stream c = some x := by
    intro c hc
    rw [← ht]
    split
    · refine foldl_keeps (fun u : State => ∃ x, u.stream c = some x) _ (fun u d hu => ?_) _ _ (hbound c hc)
      obtain ⟨x, hx⟩ := hu
      by_cases hcd : c = d
      · subst hcd; exact ⟨_, by rw [State.stream_modStream_same, hx]; rfl⟩
      · exact ⟨x, by rw [State.stream_modStream_other _ _ hcd, hx]⟩
    · exact hbound c hc
  have hhold : t.RunsOnly (cs.foldl (State.holdStream bs) t) := .foldl (fun s c => s.runsOnly_modStream c _) _ _
  refine ⟨(hst.trans hhold).trans (.foldl (fun s c => (s.delistHeld_effect c).1) _ _), fun he c hc => ?_⟩
  have hb : HeldBy.error ∈ bs := by rw [← hbs]; exact List.mem_filterMap.mpr ⟨_, he, rfl⟩
  refine foldl_keeps (fun u : State => u.HeldInError c) _ (fun u d hu => ?_) _ _ (State.heldInError_holdStreams hb cs t htb c (.inl hc))
  obtain ⟨y, hy, h12⟩ := hu
  exact ⟨y, by rw [(u.delistHeld_effect d).2, hy], h12⟩

/-- A halt of a lane that runs no stream raises no Burgee. -/
theorem State.haltBurgee_idle {s : State} {p : Nat} (h : s.execStream p = none) (x : Stop) : s.haltBurgee p x = s := by
  unfold State.haltBurgee
  rw [h]
  cases x
  case halt b => cases b <;> rfl
  all_goals rfl

/-- A lane with nothing queued and no late tile holds: its streams take their status, the lane shows why it holds. -/
theorem State.holdLane_emptyQueue {s : State} {p : Nat} (hq : (s.lane p).queue = []) (hf : ∀ c x, s.stream c = some x → ∀ t ∈ x.xfers, t.failed = none) :
    s.holdLane p = (s.holdStreams p).modLane p fun l => { l with
      draining := false, holding := true, skip := none, xst := holdXst l.stops l.xst
      report := l.report ++ (s.holdStreams p).holdReports p (s.laneStreams p) (s.lane p).freshStops, reported := l.stops, beats := s.laneBeats p } := by
  have hlate : ∀ c, s.failLate p c = s := by
    intro c
    unfold State.failLate
    cases hc : s.stream c with
    | none => rfl
    | some x =>
      cases ht : x.headXfer with
      | none => simp [ht]
      | some t => simp [ht, hf c x hc t (List.mem_of_find?_eq_some ht)]
  have hlates : (s.laneStreams p).foldl (fun s c => s.failLate p c) s = s :=
    foldl_keeps (fun u => u = s) _ (fun u c hu => by rw [hu]; exact hlate c) _ _ rfl
  unfold State.holdLane
  dsimp only
  rw [hlates]
  have hrun := (State.holdStreams_effect hq).1.lane p
  generalize hv : ((s.holdStreams p).modLane p fun l => { l with
      draining := false, holding := true, skip := none, xst := holdXst l.stops l.xst
      report := l.report ++ (s.holdStreams p).holdReports p (s.laneStreams p) (s.lane p).freshStops, reported := l.stops, beats := s.laneBeats p }) = v
  have hidle : v.execStream p = none := by
    unfold State.execStream Lane.execEntry
    rw [← hv, State.lane_modLane_same]
    dsimp only
    rw [hrun, hq]
    rfl
  have hkeep : ∀ l : List Stop, l.foldl (fun s x => s.haltBurgee p x) v = v := fun l =>
    foldl_keeps (fun u => u = v) _ (fun u x hu => by rw [hu]; exact State.haltBurgee_idle hidle x) _ _ rfl
  exact (congrArg (fun w => (s.lane p).freshStops.foldl (fun s x => s.haltBurgee p x) w) hv).trans (hkeep _)

/-- A lane none of whose requests waits has none to age. -/
theorem State.ageRequests_quiet {s : State} {p : Nat} (h : s.laneQuiet p = true) : s.ageRequests p = s := by
  have hports : ∀ e ∈ s.ports, (e.2.reads.all fun r => r.2.parts.all fun x => !(x.owner.ofLane p)) = true ∧
      (e.2.writes.all fun w => w.2.cells.all fun x => !(x.owner.ofLane p)) = true := by
    intro e he
    unfold State.laneQuiet at h
    simp only [Bool.and_eq_true] at h
    have hall := List.all_eq_true.mp h.1.1.2 e he
    simp only [Bool.and_eq_true] at hall
    exact ⟨hall.1.1.1.1.1, hall.1.1.1.2⟩
  unfold State.ageRequests
  have hmap : (s.ports.map fun e => (e.1, { e.2 with
      reads := e.2.reads.map fun r => (r.1, if r.2.parts.any fun x => x.owner.ofLane p then { r.2 with fresh := false } else r.2)
      writes := e.2.writes.map fun w => (w.1, if w.2.cells.any fun x => x.owner.ofLane p then { w.2 with fresh := false } else w.2) })) = s.ports := by
    refine (List.map_congr_left fun e he => ?_).trans (List.map_id _)
    obtain ⟨hr, hw⟩ := hports e he
    have hreads : (e.2.reads.map fun r => (r.1, if r.2.parts.any fun x => x.owner.ofLane p then { r.2 with fresh := false } else r.2)) = e.2.reads := by
      refine (List.map_congr_left fun r hr' => ?_).trans (List.map_id _)
      have hnone := List.all_eq_true.mp hr r hr'
      rw [if_neg (by rw [List.any_eq_true]; rintro ⟨x, hx, ho⟩; have := List.all_eq_true.mp hnone x hx; rw [ho] at this; exact nomatch this)]
      rfl
    have hwrites : (e.2.writes.map fun w => (w.1, if w.2.cells.any fun x => x.owner.ofLane p then { w.2 with fresh := false } else w.2)) = e.2.writes := by
      refine (List.map_congr_left fun w hw' => ?_).trans (List.map_id _)
      have hnone := List.all_eq_true.mp hw w hw'
      rw [if_neg (by rw [List.any_eq_true]; rintro ⟨x, hx, ho⟩; have := List.all_eq_true.mp hnone x hx; rw [ho] at this; exact nomatch this)]
      rfl
    rw [hreads, hwrites]
    rfl
  rw [hmap]

theorem State.stream_of_execStream {s : State} {p c : Nat} {x : Stream} (h : s.execStream p = some (c, x)) : s.stream c = some x := by
  unfold State.execStream at h
  simp only [Option.bind_eq_some_iff, Option.map_eq_some_iff, Prod.mk.injEq] at h
  obtain ⟨e, _, y, hy, rfl, rfl⟩ := h
  exact hy

theorem State.execStream_emptyQueue {s : State} {p : Nat} (hq : (s.lane p).queue = []) : s.execStream p = none := by
  unfold State.execStream Lane.execEntry
  rw [hq]
  rfl

/-- A lane with nothing queued holds once its last response is in, or for a new reason. -/
theorem laneDrainDone_holds {s : State} {p : Nat} (hq : (s.lane p).queue = [])
    (h : (s.lane p).draining = true ∧ s.laneQuiet p = true ∨ (s.lane p).draining = false ∧ (s.lane p).holding = true ∧ (s.lane p).freshStops ≠ []) :
    laneDrainDone p s = s.holdLane p := by
  unfold laneDrainDone
  dsimp only
  rcases h with ⟨hd, hquiet⟩ | ⟨hd, hh, hf⟩
  · have htl : tl64 p s = s := by
      unfold tl64
      rw [State.ageRequests_quiet hquiet]
      dsimp only
      rw [State.execStream_emptyQueue hq]
    have hdry : runDry p 256 (tl64 p s) = s := by
      rw [htl]
      unfold runDry State.execHead
      rw [State.execStream_emptyQueue hq]
    rw [if_pos hd, hdry, if_pos (by rw [hd, hquiet]; rfl)]
  · rw [if_neg (by rw [hd]; exact Bool.false_ne_true), if_pos (by rw [hh]; simp [hf])]

theorem laneDrainDone_idle {s : State} {p : Nat} (hd : (s.lane p).draining = false) (h : (s.lane p).holding = false ∨ (s.lane p).freshStops = []) :
    laneDrainDone p s = s := by
  unfold laneDrainDone
  dsimp only
  rw [if_neg (by rw [hd]; exact Bool.false_ne_true), if_neg]
  rcases h with h | h <;> rw [h]
  · exact Bool.false_ne_true
  · simp

/-! ### Lane reports (R119, R133) -/

/-- Asynchronous replies wait on. -/
def State.AsyncKept (s t : State) : Prop := s.FwShape t ∧ ∀ a ∈ s.ctl.async, a ∈ t.ctl.async

theorem State.AsyncKept.trans {s t u : State} (h : s.AsyncKept t) (k : t.AsyncKept u) : s.AsyncKept u :=
  ⟨h.1.trans k.1, fun a ha => k.2 a (h.2 a ha)⟩

theorem State.AsyncKept.foldl {α : Type} {f : State → α → State} (hf : ∀ (s : State) a, s.AsyncKept (f s a)) (l : List α) (s : State) :
    s.AsyncKept (l.foldl f s) :=
  foldl_keeps (fun u => s.AsyncKept u) f (fun u a hu => hu.trans (hf u a)) l s ⟨.refl s, fun _ h => h⟩

theorem Ctl.async_promote {a : Async} (n : Nat) : ∀ c : Ctl, a ∈ c.async → a ∈ (c.promote n).async := by
  induction n with
  | zero => exact fun _ h => h
  | succ n ih =>
    intro c h
    unfold Ctl.promote
    split
    · exact h
    · split
      · exact ih _ (List.mem_append_left _ h)
      · exact h

theorem State.asyncKept_putRecord (s : State) (h : HostView) (c : Nat) (st : Option Nat) (pos : Stream → List Nat) :
    s.AsyncKept (s.putRecord h c st pos) := by
  refine ⟨(s.putRecord_shape h c st pos).1, ?_⟩
  unfold State.putRecord
  cases s.stream c with
  | none => exact fun _ h => h
  | some x =>
    have hmod : ((s.modGroup c fun y => { y with statsSent := y.stats }).setStream c
        { x with savedPos := pos x, statsSent := x.stats, owed := false }).ctl = s.ctl := by
      rw [s.modGroup_frame]; rfl
    intro a ha
    rw [← hmod] at ha
    dsimp only
    split
    · exact Ctl.async_promote _ _ ha
    · exact ha

theorem State.asyncKept_payRecords (s : State) (h : HostView) : s.AsyncKept (s.payRecords h) :=
  .foldl (fun s c => s.asyncKept_putRecord h c none _) _ s

/-- Every stream stands in the same epoch on the same lane. -/
def State.WhoKept (s t : State) : Prop := ∀ d x, s.stream d = some x → ∃ z, t.stream d = some z ∧ whoWord d z = whoWord d x

theorem State.WhoKept.trans {s t u : State} (h : s.WhoKept t) (k : t.WhoKept u) : s.WhoKept u := fun d x hx => by
  obtain ⟨z, hz, h1⟩ := h d x hx
  obtain ⟨w, hw, h2⟩ := k d z hz
  exact ⟨w, hw, h2.trans h1⟩

theorem State.whoKept_putRecord (s : State) (h : HostView) (c : Nat) (st : Option Nat) (pos : Stream → List Nat) : s.WhoKept (s.putRecord h c st pos) := by
  intro d x hx
  by_cases hd : d = c
  · subst hd
    exact ⟨_, State.stream_putRecord hx h st pos, rfl⟩
  · unfold State.putRecord
    cases s.stream c with
    | none => exact ⟨x, hx, rfl⟩
    | some y =>
      have hmod : ∃ z, ((s.modGroup c fun y => { y with statsSent := y.stats }).setStream c
          { y with savedPos := pos y, statsSent := y.stats, owed := false }).stream d = some z ∧ whoWord d z = whoWord d x := by
        rw [State.stream_setStream_other _ _ hd, State.stream_modGroup, hx]
        split <;> exact ⟨_, rfl, rfl⟩
      dsimp only
      split <;> exact hmod

/-- What a record of a lane's streams leaves: the replies that wait, and who the streams are. -/
theorem State.recordAll_kept (h : HostView) (cs : List Nat) (s : State) : s.AsyncKept (s.recordAll h cs) ∧ s.WhoKept (s.recordAll h cs) := by
  refine foldl_keeps (fun u : State => s.AsyncKept u ∧ s.WhoKept u) _ (fun u c hu => ?_) _ _ ⟨⟨.refl s, fun _ h => h⟩, fun d x hx => ⟨x, hx, rfl⟩⟩
  unfold State.recordOf
  split
  · exact ⟨hu.1.trans (u.asyncKept_putRecord h _ none _), hu.2.trans (u.whoKept_putRecord h _ none _)⟩
  · exact hu

/-- News of a loss leaves the `PAGE` replies that wait. -/
theorem State.tellLoss_effect (s : State) : s.tellLoss = { s with ctl := { s.ctl with async := s.tellLoss.ctl.async }, link := s.tellLoss.link } ∧
    ∀ a ∈ s.ctl.async, a.kind = .page → a ∈ s.tellLoss.ctl.async := by
  unfold State.tellLoss
  split
  · split
    · exact ⟨rfl, fun _ h _ => h⟩
    · exact ⟨rfl, fun a ha hk => List.mem_append_left _ (List.mem_filter.mpr ⟨ha, by rw [hk]; decide⟩)⟩
  · exact ⟨rfl, fun _ h _ => h⟩

theorem State.detachAdvance_other {s : State} (h : HostView) (hd : ∀ a b, s.ctl.hand ≠ some (.waiting a b .detach)) : s.detachAdvance h = s := by
  unfold State.detachAdvance
  split
  next a b hh => exact absurd hh (hd a b)
  · rfl

/-- The words of a `PAGE` reply (R133). -/
def pageWords (f : PageFault) (who : Nat) : List Nat :=
  [who, f.addr % 2 ^ 32, f.addr / 2 ^ 32 % 2 ^ 20 + (if f.write then 2 ^ 24 else 0) + f.reason * 2 ^ 28]

/-- Firmware reports a page fault. -/
theorem laneReport_page {s : State} {h : HostView} {p : Nat} {f : PageFault} {cs : List (Nat × Nat × Bool)} {resp reason addr : Nat}
    {rest : List LaneReport} {x : Stream} (hr : s.ctl.fwReady = true) (hl : (s.lane p).report = .held (.page f) cs resp reason addr :: rest)
    (hx : s.stream f.sctx = some x) (hd : ∀ a b, s.ctl.hand ≠ some (.waiting a b .detach)) :
    s.ShellKept (laneReport h p s) ∧ (⟨.page, toWords (pageWords f (whoWord f.sctx x))⟩ : Async) ∈ (laneReport h p s).ctl.async ∧
    (laneReport h p s).plate = s.plate ∧ (laneReport h p s).hal = s.hal := by
  generalize hv : (s.modLane p fun l => { l with report := rest }) = v
  have hvx : v.stream f.sctx = some x := by rw [← hv]; exact hx
  have hvs : s.FwShape v := by rw [← hv]; exact ⟨rfl, rfl⟩
  obtain ⟨⟨hshape, _⟩, hwho⟩ := State.recordAll_kept h (cs.map fun e => e.1) v
  obtain ⟨z, hz, hzx⟩ := hwho _ _ hvx
  generalize hw : v.recordAll h (cs.map fun e => e.1) = w at hshape hz
  have htake : v.takeReport h p (.held (.page f) cs resp reason addr) = w.pageReply (pageWords f (whoWord f.sctx x)) := by
    unfold State.takeReport
    dsimp only
    rw [hw, hz]
    dsimp only
    rw [hzx]
    rfl
  have hreport : laneReport h p s = (((w.pageReply (pageWords f (whoWord f.sctx x))).tellLoss).payRecords h).detachAdvance h := by
    unfold laneReport
    rw [if_neg (by rw [hr]; decide), hl]
    dsimp only
    rw [hv, htake]
  have hsw := hvs.trans hshape
  rw [hreport]
  generalize ha : (⟨.page, toWords (pageWords f (whoWord f.sctx x))⟩ : Async) = a
  have hpage : a ∈ (w.pageReply (pageWords f (whoWord f.sctx x))).ctl.async := by
    rw [← ha]; exact List.mem_append_right _ (List.mem_singleton_self _)
  have hpfr : w.pageReply (pageWords f (whoWord f.sctx x)) =
      { w with ctl := { w.ctl with async := (w.pageReply (pageWords f (whoWord f.sctx x))).ctl.async } } := rfl
  generalize w.pageReply (pageWords f (whoWord f.sctx x)) = y at hpage hpfr
  obtain ⟨htell, hkept⟩ := y.tellLoss_effect
  have hy := hkept a hpage (by rw [← ha])
  generalize y.tellLoss = y' at htell hy
  obtain ⟨hpay, hasync⟩ := y'.asyncKept_payRecords h
  have hlast := hasync a hy
  generalize y'.payRecords h = u at hpay hlast
  have hwhand : w.ctl.hand = s.ctl.hand := by rw [hsw.2]
  have hhand : u.ctl.hand = s.ctl.hand := by rw [hpay.2, htell, hpfr]; exact hwhand
  rw [State.detachAdvance_other h (by rw [hhand]; exact hd)]
  refine ⟨?_, hlast, ?_, ?_⟩
  · show s.keep u = u
    rw [hpay.1, htell, hpfr, hsw.1]
    rfl
  · rw [hpay.plate, htell, hpfr, ← hsw.plate]
  · rw [hpay.hal, htell, hpfr, ← hsw.hal]

/-! ### Deadlines (R97, R138, R139) -/

/-- The miss of a stream's oldest late transfer is marked: nothing else of the stream changes. -/
theorem Stream.takeMiss_frame {x y : Stream} {now : Nat} (h : x.takeMiss now = some y) : y = { x with xfers := y.xfers, undone := y.undone } := by
  unfold Stream.takeMiss at h
  split at h
  · rw [← Option.some.inj h]; rfl
  · split at h
    · rw [← Option.some.inj h]
    · exact nomatch h

/-- A `WIDE_RERUN` or `DEADLINE` reply waits, or is counted as dropped. -/
theorem State.queueAsync_frame (s : State) (a : Async) :
    s.queueAsync a = { s with ctl := { s.ctl with async := (s.queueAsync a).ctl.async, dropped := (s.queueAsync a).ctl.dropped } } := by
  unfold State.queueAsync
  dsimp only
  split <;> rfl

theorem State.deadlineReply_frame (s : State) (c : Nat) (x : Stream) : s.deadlineReply c x =
    { s.setStream c { x with missUnsent := 0, missReplied := some s.now } with ctl := (s.deadlineReply c x).ctl } := by
  unfold State.deadlineReply
  rw [State.queueAsync_frame]

/-- A stream's miss is counted. -/
def Stream.countMiss (y : Stream) : Stream := ({ y with missUnsent := y.missUnsent + 1 }).count 8 1

theorem deadlineMiss_none {s : State} {c : Nat} {x : Stream} (hx : s.stream c = some x) (h : x.idx ≠ 0 ∨ x.takeMiss s.now = none) : deadlineMiss c s = s := by
  have hnone : (if x.idx = 0 then x.takeMiss s.now else none) = none := by
    by_cases hi : x.idx = 0
    · rw [if_pos hi]; exact h.resolve_left fun h => h hi
    · rw [if_neg hi]
  unfold deadlineMiss
  rw [hx]
  dsimp only
  rw [hnone]

theorem deadlineMiss_some {s : State} {c : Nat} {x y : Stream} {b : Burgee} (hx : s.stream c = some x) (hi : x.idx = 0)
    (hy : x.takeMiss s.now = some y) (hb : b = ⟨0, (s.physOf x.lane).getD 0, 32, formatP c y⟩) :
    deadlineMiss c s = if s.ctl.fwReady && y.countMiss.replyDue s.now then
      ({ s.setStream c y.countMiss with flt := (s.flt.enter b).note b } : State).deadlineReply c y.countMiss
      else { s.setStream c y.countMiss with flt := (s.flt.enter b).note b } := by
  have hlane : y.lane = x.lane := by rw [Stream.takeMiss_frame hy]
  have hraise : (s.setStream c y.countMiss).raise ⟨0, (s.physOf y.lane).getD 0, 32, formatP c y.countMiss⟩ =
      { s.setStream c y.countMiss with flt := (s.flt.enter b).note b } := by
    rw [State.raise_low _ _ (by show kindSev 32 < 2; decide), hlane, hb]
    rfl
  rw [← hraise]
  unfold deadlineMiss
  rw [hx]
  dsimp only
  rw [if_pos hi, hy]
  rfl

/-- A miss is counted and raised; firmware that has sent no reply of the stream sends one. -/
theorem deadlineMiss_effect {s : State} {c : Nat} {x y : Stream} {b : Burgee} (hx : s.stream c = some x) (hi : x.idx = 0)
    (hy : x.takeMiss s.now = some y) (hb : b = ⟨0, (s.physOf x.lane).getD 0, 32, formatP c y⟩) : ∃ z : Stream,
    deadlineMiss c s = { s with ctl := (deadlineMiss c s).ctl, flt := (s.flt.enter b).note b, fw := { s.fw with streams := (deadlineMiss c s).fw.streams } } ∧
    (deadlineMiss c s).stream c = some z ∧ z.stat 8 = satAdd32 (x.stat 8) 1 ∧ z.xfers = y.xfers ∧
    (s.ctl.fwReady = true → x.missReplied = none → z.missUnsent = 0 ∧ z.missReplied = some s.now) ∧
    (s.ctl.fwReady = false → z.missUnsent = x.missUnsent + 1 ∧ (deadlineMiss c s).ctl = s.ctl) := by
  have hfr := Stream.takeMiss_frame hy
  have hstat : y.countMiss.stat 8 = satAdd32 (x.stat 8) 1 := by
    rw [hfr]
    exact Tbl.get_set_same _ _ _ _
  have hunsent : y.countMiss.missUnsent = x.missUnsent + 1 := by rw [hfr]; rfl
  rw [deadlineMiss_some hx hi hy hb]
  by_cases hdue : (s.ctl.fwReady && y.countMiss.replyDue s.now) = true
  · rw [if_pos hdue, State.deadlineReply_frame]
    refine ⟨{ y.countMiss with missUnsent := 0, missReplied := some s.now }, rfl, State.stream_setStream_same _ _ _, hstat, rfl, fun _ _ => ⟨rfl, rfl⟩, fun h => ?_⟩
    rw [h] at hdue
    exact nomatch hdue
  · rw [if_neg hdue]
    refine ⟨y.countMiss, rfl, State.stream_setStream_same _ _ _, hstat, rfl, fun hr hn => absurd ?_ hdue, fun _ => ⟨hunsent, rfl⟩⟩
    have hrep : y.countMiss.missReplied = none := by rw [hfr]; exact hn
    unfold Stream.replyDue
    rw [hr, hrep, hunsent]
    simp

/-! ### The skew bound (R238, R239) -/

/-- An evicted member counts as such, any other stands. -/
theorem Bunting.evict_members (b : Bunting) (i k : Nat) :
    (b.evict i).members[k]? = (b.members[k]?).map fun m => if k = i then { m with evicted := true } else m := by
  unfold Bunting.evict
  rw [List.getElem?_mapIdx]

theorem Bunting.evict_length (b : Bunting) (i : Nat) : (b.evict i).members.length = b.members.length := List.length_mapIdx

theorem State.stream_leaveParty (s : State) (g i : Nat) {c : Nat} {x : Stream} (hx : s.stream c = some x) : ∃ y, (s.leaveParty g i).stream c = some y := by
  have hmem : (c, x) ∈ s.fw.streams := mem_of_find hx
  unfold State.leaveParty
  exact find_of_mem (List.mem_map_of_mem hmem)

/-- A member of a live Bunting is evicted. -/
theorem State.evictMember_effect {s : State} {g c : Nat} {b : Bunting} {x : Stream} (p i : Nat) (hb : Tbl.find s.fw.buntings g = some b)
    (hx : s.stream c = some x) : s.ShellKept (s.evictMember p c g i) ∧ Tbl.find (s.evictMember p c g i).fw.buntings g = some (b.evict i) ∧
    (∃ y, (s.evictMember p c g i).stream c = some y) ∧ (s.evictMember p c g i).plate = s.plate ∧ (s.evictMember p c g i).hal = s.hal := by
  unfold State.evictMember
  rw [hb, hx]
  dsimp only
  have hleave : (({ s with fw := { s.fw with buntings := Tbl.put g (b.evict i) s.fw.buntings } } : State).leaveParty g i) =
      { s with fw := { s.fw with buntings := Tbl.put g (b.evict i) s.fw.buntings
                                 streams := (({ s with fw := { s.fw with buntings := Tbl.put g (b.evict i) s.fw.buntings } } : State).leaveParty g i).fw.streams } } := rfl
  obtain ⟨y, hy⟩ := ({ s with fw := { s.fw with buntings := Tbl.put g (b.evict i) s.fw.buntings } } : State).stream_leaveParty g i (c := c) (x := x) hx
  generalize ({ s with fw := { s.fw with buntings := Tbl.put g (b.evict i) s.fw.buntings } } : State).leaveParty g i = v at hleave hy ⊢
  generalize hburgee : (⟨0, p, 34, formatP c x⟩ : Burgee) = e
  rw [State.raise_low _ _ (by rw [← hburgee]; show kindSev 34 < 2; decide), State.faultReply_frame]
  have hstream : (v.modStream c fun x => x.count 27 1).stream c = some (y.count 27 1) := by rw [State.stream_modStream_same, hy]; rfl
  have hmod := v.modStream_frame c fun x => x.count 27 1
  generalize v.modStream c (fun x => x.count 27 1) = w at hstream hmod ⊢
  refine ⟨?_, ?_, ⟨_, hstream⟩, ?_, ?_⟩
  · rw [hmod, hleave]; rfl
  · rw [hmod, hleave]; exact Tbl.find_put_same _ _ _
  · rw [hmod, hleave]
  · rw [hmod, hleave]

/-- The members of a list that are evicted one after another. -/
theorem State.evictMembers_effect (p : Nat) {g c : Nat} : ∀ (l : List Nat) {s : State} {b : Bunting} {x : Stream}, Tbl.find s.fw.buntings g = some b →
    s.stream c = some x → s.ShellKept (l.foldl (fun s i => s.evictMember p c g i) s) ∧
    (∃ b', Tbl.find (l.foldl (fun s i => s.evictMember p c g i) s).fw.buntings g = some b' ∧ b'.members.length = b.members.length ∧
      ∀ k, b'.members[k]? = (b.members[k]?).map fun m => if k ∈ l then { m with evicted := true } else m) ∧
    (l.foldl (fun s i => s.evictMember p c g i) s).plate = s.plate ∧ (l.foldl (fun s i => s.evictMember p c g i) s).hal = s.hal
  | [], s, b, x, hb, _ => ⟨rfl, ⟨b, hb, rfl, fun k => by simp⟩, rfl, rfl⟩
  | i :: l, s, b, x, hb, hx => by
    obtain ⟨h1, h2, ⟨y, h3⟩, h4, h5⟩ := State.evictMember_effect p i hb hx
    obtain ⟨k1, ⟨b', k2, kl, k3⟩, k4, k5⟩ := State.evictMembers_effect p l h2 h3
    refine ⟨h1.trans k1, ⟨b', k2, kl.trans (b.evict_length i), fun k => ?_⟩, k4.trans h4, k5.trans h5⟩
    rw [k3, b.evict_members, Option.map_map]
    refine congrArg (fun f => (b.members[k]?).map f) (funext fun m => ?_)
    by_cases hk : k = i
    · simp [hk]
    · simp [hk]

/-- At the skew bound the members that take part and have not granted are evicted. -/
theorem buntingSkew_evicts {s : State} {p c : Nat} {x : Stream} {t : Transfer} {t0 g : Nat} {b : Bunting} (hc : s.execStream p = some (c, x))
    (ht : x.headXfer = some t) (hg : g = x.handleOf t.rs.wr) (hfrom : t.skewFrom = some t0) (hb : Tbl.find s.fw.buntings g = some b)
    (hstop : (s.lane p).stops = []) (hlate : b.skew ≤ (s.now + 2 ^ 64 - t0) % 2 ^ 64) : ∃ out : List Nat,
    buntingSkew p s = out.foldl (fun s i => s.evictMember p c g i) (s.modXfer c t.id fun t => { t with skewFrom := none }) ∧
    ∀ i m, b.members[i]? = some m → (i ∈ out ↔ i ∈ b.partyOf t ∧ s.memberGrants m = false) := by
  unfold buntingSkew
  rw [hc]
  dsimp only
  rw [ht]
  dsimp only
  rw [hfrom, ← hg, hb]
  dsimp only
  have hgo : ¬((decide ((s.lane p).stops ≠ []) || decide ((s.now + 2 ^ 64 - t0) % 2 ^ 64 < b.skew)) = true) := by
    rw [hstop]
    simpa using hlate
  rw [if_neg hgo]
  refine ⟨_, rfl, fun i m hm => ?_⟩
  rw [List.mem_filter, hm]
  simp

/-- Settles O55: the hold of a lane, its reports, the misses and the skew timer, each by its effect above. -/
theorem laneStops : Obligations.LaneStops := by
  unfold Obligations.LaneStops
  intro s lane h sctx hs
  have hdrain : exec (.laneDrainDone lane) s = _ := (running_works _ hs : execLaneDrainDone lane s = _)
  have hreport : exec (.laneReport lane h) s = _ := (running_works _ hs : execLaneReport lane h s = _)
  have hmiss : exec (.deadlineMiss sctx) s = _ := (running_works _ hs : execDeadlineMiss sctx s = _)
  have hreply : exec (.deadlineReplyTimer sctx) s = .next (s.keep _) := (running_works _ hs : execDeadlineReplyTimer sctx s = _)
  have hskew : exec (.buntingSkewTimer lane) s = _ := (running_works _ hs : execBuntingSkewTimer lane s = _)
  refine ⟨fun hd hi => ?_, fun hdone hq hf => ?_, fun hidle => ?_, fun f cs resp reason addr rest x hr hl hx hhand => ?_, fun hnone => ⟨?_, ?_⟩,
    fun x hx => ⟨fun hno => ?_, fun y b hi hy hb => ?_, fun hno => ?_, fun hr hdue => ?_⟩, fun hnone => ?_,
    fun c x t t0 b g hc ht hg hfrom hb hstop hlate => ?_⟩
  case refine_1 => rw [hdrain, laneDrainDone_idle hd hi]; rfl
  case refine_2 =>
    obtain ⟨hruns, herror⟩ := State.holdStreams_effect hq
    rw [laneDrainDone_holds hq hdone, State.holdLane_emptyQueue hq hf] at hdrain
    have hlane := hruns.lane lane.val
    generalize s.holdStreams lane.val = v at hruns herror hlane hdrain
    refine ⟨_, hdrain.trans (congrArg _ (hruns.keep_modLane _ _)), ?_⟩
    rw [State.lane_modLane_same, hlane]
    refine ⟨rfl, rfl, rfl, rfl, rfl, herror, ?_, ?_, ?_, ?_⟩ <;> rw [hruns] <;> rfl
  case refine_3 =>
    rw [hreport]
    unfold laneReport
    rcases hidle with hr | hl
    · rw [hr]; rfl
    · rw [hl, ite_self]; rfl
  case refine_4 =>
    obtain ⟨hkeep, hpage, hplate, hhal⟩ := laneReport_page (h := h) hr hl hx hhand
    exact ⟨_, hreport.trans (congrArg _ hkeep), hpage, hplate, hhal⟩
  case refine_5 =>
    rw [hmiss]
    unfold deadlineMiss
    rw [Option.isNone_iff_eq_none.mp hnone]
    rfl
  case refine_6 =>
    rw [hreply, Option.isNone_iff_eq_none.mp hnone]
    rfl
  case refine_7 => rw [hmiss, deadlineMiss_none hx hno]; rfl
  case refine_8 =>
    obtain ⟨z, hframe, hz, hstat, hxfers, hsent, hunsent⟩ := deadlineMiss_effect hx hi hy hb
    generalize deadlineMiss sctx.toNat s = u at hframe hz hsent hunsent hmiss
    have hkeep : s.keep u = u := by rw [hframe]; rfl
    refine ⟨u, z, hmiss.trans (congrArg _ hkeep), hz, hstat, hxfers, ?_, hsent, hunsent, ?_, ?_, ?_⟩ <;> rw [hframe]
  case refine_9 =>
    rw [hreply, hx]
    dsimp only
    rw [if_neg (by rcases hno with h | h <;> rw [h] <;> simp)]
    rfl
  case refine_10 =>
    rw [hreply, hx]
    dsimp only
    rw [if_pos (by rw [hr, hdue]; rfl)]
    have hframe := s.deadlineReply_frame sctx.toNat x
    generalize s.deadlineReply sctx.toNat x = u at hframe
    have hkeep : s.keep u = u := by rw [hframe]; rfl
    refine ⟨u, by rw [hkeep], ?_, ?_, ?_⟩
    · rw [hframe]; exact State.stream_setStream_same _ _ _
    · rw [hframe]; rfl
    · rw [hframe]; rfl
  case refine_11 =>
    rw [hskew]
    unfold buntingSkew
    rw [hnone]
    rfl
  case refine_12 =>
    obtain ⟨out, hout, hmem⟩ := buntingSkew_evicts hc ht hg hfrom hb hstop hlate
    have hx := State.stream_of_execStream hc
    have hruns := s.runsOnly_modStream c fun x => x.modXfer t.id fun t => { t with skewFrom := none }
    have hv : ∃ v, s.modXfer c t.id (fun t => { t with skewFrom := none }) = v ∧ s.RunsOnly v ∧ ∃ y, v.stream c = some y :=
      ⟨_, rfl, hruns, _, by rw [State.modXfer, State.stream_modStream_same, hx]; rfl⟩
    obtain ⟨v, hmod, hvs, y, hy⟩ := hv
    have hvb : Tbl.find v.fw.buntings g = some b := by rw [hvs]; exact hb
    obtain ⟨hkeep, ⟨b', hb', hlen, hall⟩, hplate, hhal⟩ := State.evictMembers_effect lane.val out hvb hy
    rw [hout, hmod] at hskew
    generalize out.foldl (fun s i => s.evictMember lane.val c g i) v = u at hkeep hb' hplate hhal hskew
    have hvkeep : s.ShellKept v := by unfold State.ShellKept; rw [hvs]; rfl
    refine ⟨u, b', hskew.trans (congrArg _ (hvkeep.trans hkeep)), hb', hlen, fun i m m' hm hm' => ?_, ?_, ?_⟩
    · rw [hall i, hm] at hm'
      obtain rfl := Option.some.inj hm'
      have hi := hmem i m hm
      by_cases hio : i ∈ out
      · obtain ⟨h1, h2⟩ := hi.mp hio
        simp [hio, h1, h2]
      · have hnot : ¬(i ∈ b.partyOf t ∧ s.memberGrants m = false) := fun h => hio (hi.mpr h)
        dsimp only
        rw [if_neg hio]
        by_cases h1 : i ∈ b.partyOf t
        · have h2 : s.memberGrants m = true := by simpa using fun h => hnot ⟨h1, h⟩
          simp [h2]
        · simp [h1]
    · rw [hplate, hvs]
    · rw [hhal, hvs]

end Sys2Proof.Machine
end

section
/-! SUPPORT. What the memory ports bring back (R106, R313, R378, R384, R385). -/
namespace Sys2Proof.Machine

/-! ### Transfers of streams -/

/-- The transfers of every stream are those of `s`. -/
def State.XfersKept (s t : State) : Prop := ∀ c, (t.stream c).map Stream.xfers = (s.stream c).map Stream.xfers

theorem State.XfersKept.trans {s t u : State} (h : s.XfersKept t) (k : t.XfersKept u) : s.XfersKept u := fun c => (k c).trans (h c)

theorem State.XfersKept.of_fw {s t : State} (h : t.fw.streams = s.fw.streams) : s.XfersKept t := fun c => by
  unfold State.stream
  rw [h]

/-- A change of a stream beside its transfers. -/
theorem State.xfersKept_modStream (s : State) (c : Nat) {f : Stream → Stream} (hf : ∀ x, (f x).xfers = x.xfers) : s.XfersKept (s.modStream c f) := by
  intro d
  by_cases hd : d = c
  · subst hd
    rw [State.stream_modStream_same, Option.map_map]
    exact congrArg (fun g => (s.stream d).map g) (funext hf)
  · rw [State.stream_modStream_other _ _ hd]

theorem State.XfersKept.xferOf {s t : State} (h : s.XfersKept t) {c id : Nat} {x : Stream} {r : Transfer} (hx : s.xferOf c id = some (x, r)) :
    ∃ y, t.xferOf c id = some (y, r) := by
  unfold State.xferOf Stream.xfer at hx ⊢
  have hc := h c
  simp only [Option.bind_eq_some_iff, Option.map_eq_some_iff, Prod.mk.injEq] at hx ⊢
  obtain ⟨z, hz, w, hw, rfl, rfl⟩ := hx
  rw [hz, Option.map_some, Option.map_eq_some_iff] at hc
  obtain ⟨y, hy, hyz⟩ := hc
  exact ⟨y, y, hy, w, by rw [hyz]; exact hw, rfl, rfl⟩

theorem Stream.xfer_modXfer (x : Stream) (id : Nat) {f : Transfer → Transfer} (hf : ∀ t, (f t).id = t.id) :
    (x.modXfer id f).xfer id = (x.xfer id).map f := by
  unfold Stream.modXfer Stream.xfer
  dsimp only
  induction x.xfers with
  | nil => rfl
  | cons t l ih =>
    rw [List.map_cons]
    by_cases ht : t.id = id
    · rw [if_pos ht, List.find?_cons_of_pos (by rw [hf]; simpa using ht), List.find?_cons_of_pos (by simpa using ht)]
      rfl
    · rw [if_neg ht, List.find?_cons_of_neg (by simpa using ht), List.find?_cons_of_neg (by simpa using ht), ih]

/-- A changed transfer is found as changed. -/
theorem State.xferOf_modXfer {s : State} {c id : Nat} {x : Stream} {t : Transfer} (hx : s.xferOf c id = some (x, t)) {f : Transfer → Transfer}
    (hf : ∀ t, (f t).id = t.id) : (s.modXfer c id f).xferOf c id = some (x.modXfer id f, f t) := by
  unfold State.xferOf at hx ⊢
  simp only [Option.bind_eq_some_iff, Option.map_eq_some_iff, Prod.mk.injEq] at hx ⊢
  obtain ⟨z, hz, w, hw, rfl, rfl⟩ := hx
  refine ⟨z.modXfer id f, ?_, f w, ?_, rfl, rfl⟩
  · rw [State.modXfer, State.stream_modStream_same, hz]
    rfl
  · rw [Stream.xfer_modXfer _ _ hf, hw]
    rfl

theorem State.xfer_of_xferOf {s : State} {c id : Nat} {x : Stream} {t : Transfer} (hx : s.xferOf c id = some (x, t)) :
    ((s.stream c).bind fun x => x.xfer id) = some t := by
  unfold State.xferOf at hx
  simp only [Option.bind_eq_some_iff, Option.map_eq_some_iff, Prod.mk.injEq] at hx ⊢
  obtain ⟨z, hz, w, hw, rfl, rfl⟩ := hx
  exact ⟨z, hz, hw⟩

/-! ### Counts of port beats (R313) -/

/-- Counting leaves everything but the activity and the streams' occurrences. -/
theorem State.tallyBeats_effect (s : State) (o : Option Owner) (n : Nat) : s.XfersKept (s.tallyBeats o n) ∧
    s.tallyBeats o n = { s with pwr := (s.tallyBeats o n).pwr, fw := { s.fw with streams := (s.tallyBeats o n).fw.streams } } := by
  unfold State.tallyBeats
  split
  · unfold State.tally State.charge
    dsimp only
    split
    · exact ⟨.of_fw rfl, rfl⟩
    · exact ⟨State.XfersKept.trans (.of_fw rfl) (State.xfersKept_modStream _ _ fun _ => rfl), by rw [State.modStream_frame]; rfl⟩
  · exact ⟨.of_fw rfl, rfl⟩

/-! ### Freed tags (R385) -/

/-- A tag that is free for reads alone changes a port. -/
theorem State.pumpRead_effect (s : State) (q : Nat) : s.pumpRead q = { s with ports := (s.pumpRead q).ports } ∧
    ((s.port q).waitR = [] → s.pumpRead q = s) := by
  unfold State.pumpRead
  split
  next h => exact ⟨rfl, fun _ => rfl⟩
  next x rest h =>
    refine ⟨?_, fun hn => by rw [hn] at h; exact nomatch h⟩
    split
    · rfl
    · unfold State.newRead
      split
      · rfl
      · split <;> rfl

theorem State.pumpWrite_effect (s : State) (q : Nat) : s.pumpWrite q = { s with ports := (s.pumpWrite q).ports } ∧
    ((s.port q).waitW = [] → s.pumpWrite q = s) := by
  unfold State.pumpWrite
  split
  next h => exact ⟨rfl, fun _ => rfl⟩
  next x rest h =>
    refine ⟨?_, fun hn => by rw [hn] at h; exact nomatch h⟩
    split
    · rfl
    · unfold State.newWrite
      split
      · rfl
      · split <;> rfl

/-- With no frame of the peer to serve, nothing settles. -/
theorem State.rxSettle_empty {s : State} (h : s.link.rx = []) : s.rxSettle = s := by
  have hself : ({ s with link := { s.link with rx := [] } } : State) = s := by rw [← h]
  have hserve : State.serveAll [] (s.link.rx.map fun r => r.uid) s = s := by rw [h]; rfl
  unfold State.rxSettle
  rw [hserve]
  dsimp only
  rw [h]
  exact hself

/-! ### Read beats (R378, R379) -/

section
variable {s : State} {p tag idx chk : Nat} {r : ReadReq}

theorem State.takeBeat_stray (h1 : Tbl.find (s.port p).reads tag = none) (h2 : Tbl.find (s.port p).lateR tag = none) (code : Resp) (data : BitVec 1024) :
    s.takeBeat p tag idx code data chk = ⟨s.raise ⟨3, p, 16, 0⟩, none⟩ := by
  unfold State.takeBeat
  dsimp only
  rw [h1]
  dsimp only
  rw [h2]

/-- A good beat of a request: it is the last one, or the request waits on. -/
theorem State.takeBeat_good (hr : Tbl.find (s.port p).reads tag = some r) (hi : idx = r.got.length) (hs : s.build.sideband.getLsbD p = false)
    (hf : (s.port p).flawIn = false) (data : BitVec 1024) : s.takeBeat p tag idx .ok data chk =
      if r.got.length + 1 = r.nbeat then ⟨(s.modPort p fun q => { q with reads := Tbl.drop tag q.reads }).pumpRead p,
        some { r with got := r.got ++ [beatBytes data], resp := worst r.resp .ok }⟩
      else ⟨s.modPort p fun q => { q with reads := Tbl.put tag { r with got := r.got ++ [beatBytes data], resp := worst r.resp .ok } q.reads }, none⟩ := by
  have hcheck : beatCheck (s.build.sideband.getLsbD p) (s.port p).flawIn (beatBytes data) chk = none := by
    rw [hs, hf]
    rfl
  unfold State.takeBeat
  dsimp only
  rw [hr]
  dsimp only
  rw [if_neg (by simpa using hi), if_pos rfl, hcheck]
  simp only [List.length_append, List.length_cons, List.length_nil, Option.isSome_none, Bool.false_eq_true, if_false, if_true]
  rfl

end

theorem worst_ok (a : Resp) : worst a .ok = a := by
  unfold worst
  split
  next h => exact h.symm
  · rfl

theorem exec_readBeat {s : State} (hs : s.works) {port : Fin 4} (hp : port.val < s.build.cfg.ports) {tag : BitVec 12} {idx : Fin 32} {code : Resp}
    {data : BitVec 1024} {chk : BitVec 64} {t : State} {e : Option ReadReq}
    (ht : s.takeBeat port.val tag.toNat idx.val code data chk.toNat = ⟨t, e⟩) :
    exec (.readBeat port tag idx code data chk) s = .next (s.keep (e.elim t fun r => (t.readEnded port.val r).rxSettle)) := by
  have hexec : exec (.readBeat port tag idx code data chk) s = _ := (running_works _ hs : execReadBeat port tag idx code data chk s = _)
  rw [hexec]
  dsimp only
  rw [if_neg (by simp [State.hasPort, hp]), ht]
  cases e <;> rfl

/-- Recorded cells are found. -/
theorem find_putRun (key : Nat) (f : Nat → Cell) (m : Tbl Cell) : ∀ n i : Nat, i < n →
    Tbl.find ((List.range n).foldl (fun m i => Tbl.put (key + i) (f i) m) m) (key + i) = some (f i)
  | 0, i, h => absurd h (by omega)
  | n + 1, i, h => by
    rw [List.range_succ, List.foldl_append, List.foldl_cons, List.foldl_nil]
    by_cases hi : i = n
    · subst hi
      exact Tbl.find_put_same _ _ _
    · rw [Tbl.find_put_other _ _ (by omega)]
      exact find_putRun key f m n i (by omega)

/-- A read of cells has ended: the transfer has them. -/
theorem State.readEnded_cell {s : State} {q p c id key n : Nat} {r : ReadReq} {x0 : ReadPart} {x : Stream} {t : Transfer} (hparts : r.parts = [x0])
    (ho : x0.owner = .cell p c id key n) (hok : r.resp = .ok) (hx : s.xferOf c id = some (x, t)) : ∃ (y : Stream) (t' : Transfer),
    (s.readEnded q r).xferOf c id = some (y, t') ∧ (∀ i, i < n → Tbl.find t'.cells (key + i) =
      some (Cell.of (slice ((slice r.got.flatten 0 (128 * x0.beats)).drop (key % 2 * 64)) (64 * i) 64))) ∧
    s.readEnded q r = { s with pwr := (s.readEnded q r).pwr, fw := { s.fw with streams := (s.readEnded q r).fw.streams } } := by
  have haddr : x0.first - r.addr = 0 := by
    unfold ReadReq.addr
    rw [hparts]
    exact Nat.sub_self _
  have hans : r.answers = [⟨.cell p c id key n, x0.first, slice r.got.flatten 0 (128 * x0.beats), .ok⟩] := by
    unfold ReadReq.answers
    rw [hparts, List.map_cons, List.map_nil, haddr, hok, ho]
    rfl
  obtain ⟨hxk, hfr⟩ := s.tallyBeats_effect (r.parts.head?.map fun x => x.owner) r.got.length
  obtain ⟨y, hy⟩ := hxk.xferOf hx
  unfold State.readEnded
  rw [hans]
  generalize s.tallyBeats (r.parts.head?.map fun x => x.owner) r.got.length = v at hfr hy
  generalize slice r.got.flatten 0 (128 * x0.beats) = b
  have hdone : [(⟨.cell p c id key n, x0.first, b, .ok⟩ : ReadAns)].foldl (fun s x => s.readDone q x) v = v.putData c id key n (b.drop (key % 2 * 64)) := rfl
  rw [hdone]
  unfold State.putData
  refine ⟨_, _, State.xferOf_modXfer hy fun _ => rfl, fun i hi => find_putRun key _ t.cells n i hi, ?_⟩
  rw [State.modXfer, State.modStream_frame, hfr]

/-! ### Write responses (R116, R378) -/

/-- Good responses to writes of one transfer that leave others outstanding only lower its count. -/
theorem State.writesDone_ok {p c id : Nat} : ∀ (l : List WCell) {s : State} {x : Stream} {t : Transfer}, (∀ e ∈ l, e.owner = .store p c id) →
    l.length < t.outstanding → s.xferOf c id = some (x, t) → ∃ y : Stream,
    (l.foldl (fun s c => s.writeDone c .ok) s).xferOf c id = some (y, { t with outstanding := t.outstanding - l.length }) ∧
    l.foldl (fun s c => s.writeDone c .ok) s = { s with fw := { s.fw with streams := (l.foldl (fun s c => s.writeDone c .ok) s).fw.streams } }
  | [], s, x, t, _, _, hx => ⟨x, hx, rfl⟩
  | e :: l, s, x, t, ho, hn, hx => by
    rw [List.length_cons] at hn
    have hstep := State.xferOf_modXfer hx (f := fun t => { t with outstanding := t.outstanding - 1 }) fun _ => rfl
    have hmod := s.modStream_frame c fun x => x.modXfer id fun t => { t with outstanding := t.outstanding - 1 }
    have hdone : s.writeDone e .ok = s.modXfer c id fun t => { t with outstanding := t.outstanding - 1 } := by
      unfold State.writeDone
      rw [ho e List.mem_cons_self]
      dsimp only
      rw [if_pos rfl]
      unfold State.checkComplete
      rw [State.xfer_of_xferOf hstep]
      dsimp only
      have hopen : ¬t.outstanding - 1 = 0 := by omega
      rw [if_pos (by simp [Transfer.complete, hopen])]
    rw [List.foldl_cons, hdone]
    unfold State.modXfer at hstep ⊢
    generalize s.modStream c (fun x => x.modXfer id fun t => { t with outstanding := t.outstanding - 1 }) = v at hstep hmod
    obtain ⟨y, hy, hfr⟩ := State.writesDone_ok l (fun e he => ho e (List.mem_cons_of_mem _ he)) (t := { t with outstanding := t.outstanding - 1 })
      (by show l.length < t.outstanding - 1; omega) hstep
    refine ⟨y, ?_, by rw [hfr, hmod]⟩
    rw [hy, List.length_cons, Nat.sub_sub, Nat.add_comm]

end Sys2Proof.Machine
end

section
/-! SUPPORT. Failed port requests, weight blocks and the Plate scrubber (R106, R118, R154, R331, R384). -/
namespace Sys2Proof.Machine

/-! ### Failed requests (R106, R118, R384) -/

/-- The lane has stopped for an error. -/
def State.stoppedInError (s : State) (p : Nat) : Prop := Stop.error ∈ (s.lane p).stops

theorem State.StopsOn.stoppedInError {A : Nat → Prop} {s t : State} (h : s.StopsOn A t) {p : Nat} (hp : s.stoppedInError p) : t.stoppedInError p :=
  h.2.2.1 p _ hp

/-- The lane of a transfer in error stops; the ports, the collector and the link stand. -/
theorem State.errXfer_effect (s : State) (p c id : Nat) (r : Resp) (addr : Nat) : s.StopsOn (fun _ => False) (s.errXfer p c id r addr) ∧
    (s.errXfer p c id r addr).stoppedInError p ∧
    s.errXfer p c id r addr = { s with lanes := (s.errXfer p c id r addr).lanes, fw := { s.fw with streams := (s.errXfer p c id r addr).fw.streams } } := by
  unfold State.errXfer
  split
  · exact ⟨s.stopsOn_stopLane _ _, s.mem_stops_stopLane _ _, rfl⟩
  · refine ⟨?_, State.mem_stops_stopLane _ _ _, ?_⟩
    · refine State.StopsOn.trans ?_ (State.stopsOn_stopLane _ _ _)
      refine (s.stopsOn_modStream c _).trans (State.stopsOn_modLane (fun h => h.elim) fun x hx => ?_)
      split <;> exact hx
    · rw [State.modXfer, State.modStream_frame]
      rfl

/-- A bus error of a lane is reported by a kind that does not enter the safe state. -/
theorem State.busError_effect (s : State) (p c id : Nat) (write : Bool) (addr : Nat) :
    s.StopsOn (fun _ => False) (s.busError p c id write .fail addr) ∧ (s.busError p c id write .fail addr).stoppedInError p ∧
    (∀ d, d ≠ 0 → Tbl.get [] (s.busError p c id write .fail addr).flt.cross d = Tbl.get [] s.flt.cross d) ∧
    s.busError p c id write .fail addr = { s with
      flt := (s.busError p c id write .fail addr).flt, lanes := (s.busError p c id write .fail addr).lanes
      fw := { s.fw with streams := (s.busError p c id write .fail addr).fw.streams } } ∧
    (s.busError p c id write .fail addr).flt.safe = s.flt.safe := by
  have hsev : kindSev (busKind write .fail) < 2 := by cases write <;> decide
  unfold State.busError
  have hlow := State.raise_low s ⟨0, p, busKind write .fail, formatA addr⟩ hsev
  have hstops := s.stopsOn_raise (A := fun _ => False) ⟨0, p, busKind write .fail, formatA addr⟩
  obtain ⟨hcross, _, _, hkeep, _, _⟩ := s.raise_effect ⟨0, p, busKind write .fail, formatA addr⟩
  obtain ⟨hsafe, _⟩ := hkeep hsev
  generalize hb : (⟨0, p, busKind write .fail, formatA addr⟩ : Burgee) = b at hlow hstops hcross hsafe ⊢
  have hdom : b.dom = 0 := by rw [← hb]; rfl
  obtain ⟨h1, h2, h3⟩ := (s.raise b).errXfer_effect p c id .fail addr
  generalize (s.raise b).errXfer p c id .fail addr = u at h1 h2 h3 ⊢
  have hflt : u.flt = (s.raise b).flt := by rw [h3]
  refine ⟨hstops.trans h1, h2, fun d hd => ?_, ?_, by rw [hflt, hsafe]⟩
  · rw [hflt, hcross]
    unfold Flt.enter
    dsimp only
    rw [hdom]
    split
    · exact Tbl.get_put_other _ _ _ hd
    · rfl
  · rw [h3, hlow]

/-- A write that failed stops its lane. -/
theorem State.writeDone_fail {s : State} {e : WCell} {p c id : Nat} (h : e.owner = .store p c id) :
    s.StopsOn (fun _ => False) (s.writeDone e .fail) ∧ (s.writeDone e .fail).stoppedInError p ∧ (s.writeDone e .fail).flt.safe = s.flt.safe ∧
      (s.writeDone e .fail).link = s.link := by
  unfold State.writeDone
  rw [h]
  dsimp only
  rw [if_neg (by decide)]
  have hmod : s.modXfer c id (fun t => { t with outstanding := t.outstanding - 1 }) = _ := s.modStream_frame c _
  have hstops : s.StopsOn (fun _ => False) (s.modXfer c id fun t => { t with outstanding := t.outstanding - 1 }) := s.stopsOn_modStream c _
  generalize s.modXfer c id (fun t => { t with outstanding := t.outstanding - 1 }) = v at hmod hstops ⊢
  obtain ⟨h1, h2, _, h4, h5⟩ := v.busError_effect p c id true e.addr
  refine ⟨hstops.trans h1, h2, by rw [h5, hmod], ?_⟩
  rw [h4, hmod]

/-- Failed writes of one lane stop it. -/
theorem State.writesDone_fail {p c id : Nat} : ∀ (l : List WCell) (s : State), (∀ e ∈ l, e.owner = .store p c id) →
    s.StopsOn (fun _ => False) (l.foldl (fun s c => s.writeDone c .fail) s) ∧
    (l ≠ [] ∨ s.stoppedInError p → (l.foldl (fun s c => s.writeDone c .fail) s).stoppedInError p) ∧
    (l.foldl (fun s c => s.writeDone c .fail) s).flt.safe = s.flt.safe ∧ (l.foldl (fun s c => s.writeDone c .fail) s).link = s.link
  | [], s, _ => ⟨.refl s, fun h => h.resolve_left (fun h => h rfl), rfl, rfl⟩
  | e :: l, s, ho => by
    obtain ⟨h1, h2, h3, h4⟩ := State.writeDone_fail (s := s) (ho e List.mem_cons_self)
    obtain ⟨k1, k2, k3, k4⟩ := State.writesDone_fail l (s.writeDone e .fail) fun e he => ho e (List.mem_cons_of_mem _ he)
    exact ⟨h1.trans k1, fun _ => k2 (.inr h2), k3.trans h3, k4.trans h4⟩

theorem Link.cutFrame_rx (l : Link) : l.cutFrame.rx = l.rx := by
  unfold Link.cutFrame
  split
  · rfl
  · split <;> rfl

theorem State.raise_rx (s : State) (b : Burgee) : (s.raise b).link.rx = s.link.rx := by
  unfold State.raise
  dsimp only
  split
  · rw [State.enterSafe_link]
    split
    · rfl
    · exact s.link.cutFrame_rx
  · rfl

section
variable {s : State} {port : Fin 4} {tag : BitVec 12} {w : WriteReq} {p c id : Nat}

theorem exec_writeResponse (hs : s.works) (hp : port.val < s.build.cfg.ports) (hw : Tbl.find (s.port port.val).writes tag.toNat = some w)
    (code : Resp) (early : Bool) : ∃ v : State, v = (s.modPort port.val fun q => { q with writes := Tbl.drop tag.toNat q.writes }).pumpWrite port.val ∧
    exec (.writeResponse port tag code early) s =
      .next (s.keep (((if early then v.raise ⟨4, port.val, 16, 0⟩ else v).writeEnded w (if early then .fail else code)).rxSettle)) := by
  refine ⟨_, rfl, ?_⟩
  have hexec : exec (.writeResponse port tag code early) s = _ := (running_works _ hs : execWriteResponse port tag code early s = _)
  rw [hexec]
  unfold State.takeResponse
  dsimp only
  rw [if_neg (by simp [State.hasPort, hp]), hw]

/-- The state once the tag of a write is free. -/
theorem State.freeWrite_effect (s : State) (q tag : Nat) (v : State)
    (hv : v = (s.modPort q fun x => { x with writes := Tbl.drop tag x.writes }).pumpWrite q) :
    v = { s with ports := v.ports } ∧ ((s.port q).waitW = [] → Tbl.find (v.port q).writes tag = none) := by
  obtain ⟨h1, h2⟩ := (s.modPort q fun x => { x with writes := Tbl.drop tag x.writes }).pumpWrite_effect q
  refine ⟨by rw [hv, h1]; rfl, fun hwait => ?_⟩
  rw [hv, h2 (by rw [State.port_modPort_same]; exact hwait), State.port_modPort_same]
  exact Tbl.find_drop_same _ _

/-- Every write merged in a request completes with its good response. -/
theorem writeResponse_ok (hs : s.works) (hp : port.val < s.build.cfg.ports) (hw : Tbl.find (s.port port.val).writes tag.toNat = some w)
    (ho : ∀ e ∈ w.cells, e.owner = .store p c id) (hrx : s.link.rx = []) {x : Stream} {t : Transfer} (hx : s.xferOf c id = some (x, t))
    (hn : w.cells.length < t.outstanding) : ∃ (u : State) (y : Stream), exec (.writeResponse port tag .ok false) s = .next u ∧
      ((s.port port.val).waitW = [] → Tbl.find (u.port port.val).writes tag.toNat = none) ∧
      u.xferOf c id = some (y, { t with outstanding := t.outstanding - w.cells.length }) ∧ u.plate = s.plate ∧ u.hal = s.hal ∧ u.lanes = s.lanes := by
  obtain ⟨v, hv, hexec⟩ := exec_writeResponse hs hp hw .ok false
  obtain ⟨hvs, hfree⟩ := s.freeWrite_effect _ _ v hv
  rw [if_neg Bool.false_ne_true, if_neg Bool.false_ne_true] at hexec
  unfold State.writeEnded at hexec
  obtain ⟨hxk, hfr⟩ := v.tallyBeats_effect (w.cells.head?.map fun x => x.owner) w.nbeat
  have hvx : v.xferOf c id = some (x, t) := by rw [hvs]; exact hx
  obtain ⟨y, hy⟩ := hxk.xferOf hvx
  generalize v.tallyBeats (w.cells.head?.map fun x => x.owner) w.nbeat = v' at hfr hy hexec
  obtain ⟨z, hz, hzfr⟩ := State.writesDone_ok w.cells ho hn hy
  generalize w.cells.foldl (fun s c => s.writeDone c .ok) v' = u at hz hzfr hexec
  have hport : u.port port.val = v.port port.val := by rw [hzfr, hfr]; rfl
  rw [State.rxSettle_empty (by rw [hzfr, hfr, hvs]; exact hrx)] at hexec
  have hkeep : s.keep u = u := by rw [hzfr, hfr, hvs]; rfl
  refine ⟨u, z, hexec.trans (congrArg _ hkeep), by rw [hport]; exact hfree, hz, ?_, ?_, ?_⟩ <;> rw [hzfr, hfr, hvs]

/-- A response that comes before the last data beat is a failure. -/
theorem writeResponse_early (hs : s.works) (hp : port.val < s.build.cfg.ports) (hw : Tbl.find (s.port port.val).writes tag.toNat = some w)
    (ho : ∀ e ∈ w.cells, e.owner = .store p c id) (hrx : s.link.rx = []) (hne : w.cells ≠ []) (code : Resp) :
    ∃ u : State, exec (.writeResponse port tag code true) s = .next u ∧ u.flt.safe = true ∧
      (u.lane p).stops.contains .error = true ∧ u.plate = s.plate ∧ u.hal = s.hal := by
  obtain ⟨v, hv, hexec⟩ := exec_writeResponse hs hp hw code true
  obtain ⟨hvs, _⟩ := s.freeWrite_effect _ _ v hv
  rw [if_pos rfl, if_pos rfl] at hexec
  unfold State.writeEnded at hexec
  generalize hb : (⟨4, port.val, 16, 0⟩ : Burgee) = b at hexec
  obtain ⟨_, _, _, _, hhigh, _⟩ := v.raise_effect b
  obtain ⟨hsafe, _⟩ := hhigh (by rw [← hb]; show 2 ≤ kindSev 16; decide)
  have hplate := v.raise_plate b
  have hhal := v.raise_hal b
  have hlink := v.raise_rx b
  generalize v.raise b = v1 at hsafe hplate hhal hlink hexec
  obtain ⟨_, hfr⟩ := v1.tallyBeats_effect (w.cells.head?.map fun x => x.owner) w.nbeat
  generalize v1.tallyBeats (w.cells.head?.map fun x => x.owner) w.nbeat = v2 at hfr hexec
  obtain ⟨k1, k2, k3, k4⟩ := State.writesDone_fail w.cells v2 ho
  generalize w.cells.foldl (fun s c => s.writeDone c .fail) v2 = u at k1 k2 k3 k4 hexec
  rw [State.rxSettle_empty (by rw [k4, hfr]; show v1.link.rx = []; rw [hlink, hvs]; exact hrx)] at hexec
  refine ⟨s.keep u, hexec, ?_, ?_, ?_, ?_⟩
  · show u.flt.safe = true
    rw [k3, hfr]
    exact hsafe
  · exact List.contains_iff_mem.mpr (k2 (.inl hne))
  · show u.plate = s.plate
    rw [k1.1, hfr, hplate, hvs]
  · show u.hal = s.hal
    rw [k1.1, hfr, hhal, hvs]

end

/-! ### Timeouts (R384) -/

/-- A read that takes no response in time fails for its requester: the tag stays held, the port counts it, the lane stops. -/
theorem readTimeout_effect {s : State} {q tag p c id key n : Nat} {r : ReadReq} {x0 : ReadPart} (hr : Tbl.find (s.port q).reads tag = some r)
    (hparts : r.parts = [x0]) (ho : x0.owner = .cell p c id key n) : ∃ u : State,
    (∀ (s' : State) (e : Option ReadReq), s.timeoutRead q tag = (s', e) → e.elim s' (s'.readEnded q) = u) ∧
    Tbl.find (u.port q).reads tag = none ∧ Tbl.find (u.port q).lateR tag = some ⟨r.nbeat - 1, r.addr, true⟩ ∧
    (u.lane p).stops.contains .error = true ∧ (crossRoom (1 + q) 15 (Tbl.get [] s.flt.cross (1 + q)).length = true →
      Tbl.get [] u.flt.cross (1 + q) = Tbl.get [] s.flt.cross (1 + q) ++ [⟨3, q, 15, formatA r.addr⟩]) := by
  generalize hv : (s.modPort q fun x => { x.countTimeout with reads := Tbl.drop tag x.reads, lateR := Tbl.put tag ⟨r.nbeat - 1, r.addr, true⟩ x.lateR }) = v
  have hport : v.port q = { (s.port q).countTimeout with reads := Tbl.drop tag (s.port q).reads, lateR := Tbl.put tag ⟨r.nbeat - 1, r.addr, true⟩ (s.port q).lateR } := by
    rw [← hv, State.port_modPort_same]
  have hvflt : v.flt = s.flt := by rw [← hv]; rfl
  generalize hb : (⟨3, q, 15, formatA r.addr⟩ : Burgee) = b
  have hsev : kindSev b.kind < 2 := by rw [← hb]; show kindSev 15 < 2; decide
  have hlow := v.raise_low b hsev
  obtain ⟨hcross, _⟩ := v.raise_effect b
  have htime : s.timeoutRead q tag = (v.raise b, some { r with resp := .fail }) := by
    unfold State.timeoutRead
    rw [hr]
    dsimp only
    rw [hv, hb]
  have hans : ({ r with resp := .fail } : ReadReq).answers = [⟨.cell p c id key n, x0.first, [], .fail⟩] := by
    unfold ReadReq.answers
    dsimp only
    rw [hparts, List.map_cons, List.map_nil, ho]
    rfl
  refine ⟨(v.raise b).readEnded q { r with resp := .fail }, fun s' e he => ?_, ?_⟩
  · rw [htime] at he
    obtain ⟨rfl, rfl⟩ := Prod.mk.inj he
    rfl
  unfold State.readEnded
  rw [hans]
  obtain ⟨_, hfr⟩ := (v.raise b).tallyBeats_effect (({ r with resp := .fail } : ReadReq).parts.head?.map fun x => x.owner) ({ r with resp := .fail } : ReadReq).got.length
  generalize (v.raise b).tallyBeats (({ r with resp := .fail } : ReadReq).parts.head?.map fun x => x.owner) ({ r with resp := .fail } : ReadReq).got.length = w at hfr
  have hput : w.putCells c id ((List.range n).map (key + ·)) (.bad .fail) = _ := w.modStream_frame c _
  have hdone : [(⟨.cell p c id key n, x0.first, [], .fail⟩ : ReadAns)].foldl (fun s x => s.readDone q x) w =
      (w.putCells c id ((List.range n).map (key + ·)) (.bad .fail)).busError p c id false .fail (x0.first + key % 2 * 64) := rfl
  rw [hdone]
  generalize w.putCells c id ((List.range n).map (key + ·)) (.bad .fail) = y at hput
  obtain ⟨_, h2, h3, h4, _⟩ := y.busError_effect p c id false (x0.first + key % 2 * 64)
  generalize y.busError p c id false .fail (x0.first + key % 2 * 64) = u at h2 h3 h4
  have huport : u.port q = v.port q := by rw [h4, hput, hfr, hlow]; rfl
  refine ⟨?_, ?_, List.contains_iff_mem.mpr h2, fun hroom => ?_⟩
  · rw [huport, hport]
    exact Tbl.find_drop_same _ _
  · rw [huport, hport]
    exact Tbl.find_put_same _ _ _
  · have hyflt : y.flt = (v.raise b).flt := by rw [hput, hfr]
    have hdom : b.dom = 1 + q := by rw [← hb]; rfl
    have hkind : b.kind = 15 := by rw [← hb]
    rw [h3 _ (by omega), hyflt, hcross]
    unfold Flt.enter
    dsimp only
    rw [hdom, hkind, hvflt, if_pos hroom]
    exact Tbl.get_put_same _ _ _ _

/-- The timer of a write of firmware's own. -/
theorem timeoutOwn_write {s : State} {p tag : Nat} {own : FwReq} (hw : Tbl.find (s.port p).writes tag = none) (hl : Tbl.find (s.port p).lateW tag = none)
    (hp : s.portFor own.addr.toNat = p) (hb : own.beats.val ≠ 0) (hfit : own.addr.toNat / 128 * 128 % 4096 + 128 * own.beats.val ≤ 4096) :
    s.timeoutOwn p true tag own = (s.modPort p fun q => { q with tmo := if q.tmo = 65535 then q.tmo else q.tmo + 1, lateW := Tbl.put tag true q.lateW }).raise
      ⟨4, p, 15, formatA own.addr.toNat⟩ := by
  unfold State.timeoutOwn
  dsimp only
  rw [hw, hl, if_neg]
  · rfl
  · simp only [hp, hb, if_true, Option.isSome_none, Bool.or_self, ne_eq, not_true_eq_false, decide_false, Bool.or_false, Bool.false_or,
      decide_eq_true_eq]
    omega

end Sys2Proof.Machine
end

section
/-! SUPPORT. Weight blocks and the Plate scrubber (R154, R156, R331). -/
namespace Sys2Proof.Machine

/-! ### A loaded weight block (R154, R156) -/

/-- The Halyards and the loads of every lane are those of `s`. -/
def State.LoadsKept (s t : State) : Prop := t.hal = s.hal ∧ ∀ p, (t.lane p).loading = (s.lane p).loading

theorem State.LoadsKept.refl (s : State) : s.LoadsKept s := ⟨rfl, fun _ => rfl⟩

theorem State.LoadsKept.trans {s t u : State} (h : s.LoadsKept t) (k : t.LoadsKept u) : s.LoadsKept u :=
  ⟨k.1.trans h.1, fun p => (k.2 p).trans (h.2 p)⟩

theorem State.LoadsKept.foldl {α : Type} {f : State → α → State} (hf : ∀ (s : State) a, s.LoadsKept (f s a)) (l : List α) (s : State) :
    s.LoadsKept (l.foldl f s) :=
  foldl_keeps (fun u => s.LoadsKept u) f (fun u a hu => hu.trans (hf u a)) l s ⟨rfl, fun _ => rfl⟩

theorem State.loadsKept_modLane (s : State) (p : Nat) {f : Lane → Lane} (hf : (f (s.lane p)).loading = (s.lane p).loading) : s.LoadsKept (s.modLane p f) := by
  refine ⟨rfl, fun q => ?_⟩
  by_cases hq : q = p
  · subst hq; rw [State.lane_modLane_same]; exact hf
  · rw [State.lane_modLane_other _ _ hq]

theorem State.loadsKept_spoiled (s : State) (o : Owner) (gone : Bool) : s.LoadsKept (s.spoiled o gone) := by
  cases o
  case store => exact ⟨by rw [State.spoiled, State.modXfer, State.modStream_frame], fun p => by rw [State.spoiled, State.modXfer, State.modStream_frame]; rfl⟩
  all_goals exact ⟨rfl, fun _ => rfl⟩

theorem State.loadsKept_enterSafe (s : State) : s.LoadsKept s.enterSafe := by
  unfold State.enterSafe
  split
  · exact ⟨rfl, fun _ => rfl⟩
  · refine State.LoadsKept.trans ?_ (.foldl (fun s p => s.loadsKept_modLane p ?_) _ _)
    · refine State.LoadsKept.trans ?_ (.foldl (fun s q => ?_) _ _)
      · exact ⟨rfl, fun _ => rfl⟩
      · unfold State.cutWrites
        dsimp only
        refine State.LoadsKept.trans ?_ (.foldl (fun s o => s.loadsKept_spoiled o true) _ _)
        refine State.LoadsKept.trans ?_ (.foldl (fun s o => s.loadsKept_spoiled o false) _ _)
        exact ⟨rfl, fun _ => rfl⟩
    · unfold Lane.stop
      split <;> rfl

theorem State.loadsKept_raise (s : State) (b : Burgee) : s.LoadsKept (s.raise b) := by
  unfold State.raise
  dsimp only
  split
  · exact State.LoadsKept.trans (t := { s with flt := (s.flt.enter b).note b }) ⟨rfl, fun _ => rfl⟩ (State.loadsKept_enterSafe _)
  · exact ⟨rfl, fun _ => rfl⟩

theorem State.loadsKept_plateCheck (s : State) (a kCe kUe : Nat) : s.LoadsKept (s.plateCheck a kCe kUe) := by
  refine State.LoadsKept.foldl (fun s i => ?_) _ s
  dsimp only
  split
  · exact ⟨rfl, fun _ => rfl⟩
  · exact State.LoadsKept.trans (t := { s with plate := { s.plate with upset := Tbl.drop (wordKey a + i) s.plate.upset } }) ⟨rfl, fun _ => rfl⟩
      (State.loadsKept_raise _ _)
  · exact State.LoadsKept.trans (t := { s with plate := s.plate.poisonCell (a / 64 * 64) }) ⟨rfl, fun _ => rfl⟩ (State.loadsKept_raise _ _)

theorem State.loadsKept_plateRead (s : State) (a : Nat) : s.LoadsKept (s.plateRead a).1 := by
  have h := s.loadsKept_plateCheck a 17 18
  unfold State.plateRead
  generalize s.plateCheck a 17 18 = t at h ⊢
  dsimp only
  split <;> exact h

/-- What a read of cells makes of its first cell, from `a`, with the reads of the others. -/
def cellsFrom (others : State → State × (List Byte ⊕ Nat)) (a : Nat) (r : State × Resp × List Byte × Nat) : State × (List Byte ⊕ Nat) :=
  match r with
  | (s, .ok, b, _) => match others s with
    | (s, .inl bs) => (s, .inl (b ++ bs))
    | (s, .inr e) => (s, .inr e)
  | (s, _, _, _) => (s, .inr a)

theorem readCells_zero (a : Nat) (s : State) : readCells 0 a s = (s, .inl []) := by
  delta readCells
  rfl

/-- The equation of the recursion, with the read of a cell kept folded. -/
theorem readCells_succ (n a : Nat) (s : State) : readCells (n + 1) a s = cellsFrom (readCells n (a + 64)) a (s.plateRead a) := by
  delta readCells readCells._f
  obtain ⟨f, hf⟩ : ∃ f, State.plateRead = f := ⟨_, rfl⟩
  rw [hf]
  rfl

theorem State.loadsKept_readCells (n : Nat) : ∀ (a : Nat) (s : State), s.LoadsKept (readCells n a s).1 := by
  induction n with
  | zero =>
    intro a s
    rw [readCells_zero]
    exact .refl s
  | succ n ih =>
    intro a s
    have hread := s.loadsKept_plateRead a
    have hrest := ih (a + 64)
    rw [readCells_succ]
    generalize readCells n (a + 64) = f at hrest ⊢
    generalize s.plateRead a = r at hread ⊢
    obtain ⟨s1, r, b, k⟩ := r
    unfold cellsFrom
    cases r
    case ok =>
      have h2 := hrest s1
      dsimp only at hread ⊢
      generalize f s1 = q at h2 ⊢
      obtain ⟨s2, _ | _⟩ := q <;> exact hread.trans h2
    all_goals exact hread

theorem State.loadsKept_tallyLane (s : State) (p k n : Nat) : s.LoadsKept (s.tallyLane p k n) := by
  unfold State.tallyLane State.tally State.charge
  split
  · split
    · exact ⟨rfl, fun _ => rfl⟩
    · rw [State.modStream_frame]; exact ⟨rfl, fun _ => rfl⟩
  · exact ⟨rfl, fun _ => rfl⟩

/-- A lane that loads nothing is passed by the weight relay. -/
theorem State.relayBlock_effect {s : State} {p : Nat} (hl : (s.lane p).loading = none) (p0 : Nat) (b : WBlock) :
    s.relayBlock p0 b = { s with lanes := (s.relayBlock p0 b).lanes } ∧ (s.relayBlock p0 b).lane p = s.lane p := by
  unfold State.relayBlock
  refine foldl_keeps (fun u : State => u = { s with lanes := u.lanes } ∧ u.lane p = s.lane p) _ (fun u q hu => ?_) _ _ ⟨rfl, rfl⟩
  obtain ⟨h1, h2⟩ := hu
  refine ⟨by rw [h1]; rfl, ?_⟩
  by_cases hq : p = q
  · subst hq
    rw [State.lane_modLane_same, h2, hl]
  · rw [State.lane_modLane_other _ _ hq, h2]

/-- A block that was read without an error fills the shadow buffer. -/
theorem weightLoaded_fills {s : State} {p mid blk slot a n : Nat} {bs : List Byte} {t : State} (hl : (s.lane p).loading = some (mid, blk, slot))
    (hb : s.blockAddr mid blk = some (a, n))
    (ht : readCells (n / 64) a ((s.modLane p fun l => { l with loading := none }).tallyLane p plateClass (n / 64)) = (t, .inl bs)) :
    ((weightLoaded p s).lane p).loading = none ∧ ((weightLoaded p s).lane p).shadow = some (slot, ⟨mid, blk, bs⟩) ∧
    (weightLoaded p s).fw = t.fw ∧ (weightLoaded p s).hal = s.hal := by
  have hloads := ((State.loadsKept_tallyLane (s.modLane p fun l => { l with loading := none }) p plateClass (n / 64)).trans
    (State.loadsKept_readCells (n / 64) a _))
  rw [ht] at hloads
  obtain ⟨hhal, hload⟩ := hloads
  have hnone : (t.lane p).loading = none := by rw [hload p, State.lane_modLane_same]
  have hfill : weightLoaded p s = if (t.modLane p fun l => { l with shadow := some (slot, ⟨mid, blk, bs⟩) }).relays p then
      (t.modLane p fun l => { l with shadow := some (slot, ⟨mid, blk, bs⟩) }).relayBlock p ⟨mid, blk, bs⟩
      else t.modLane p fun l => { l with shadow := some (slot, ⟨mid, blk, bs⟩) } := by
    unfold weightLoaded
    rw [hl]
    dsimp only
    rw [show (s.modLane p fun l => { l with loading := none }).blockAddr mid blk = some (a, n) from hb]
    dsimp only
    rw [ht]
  generalize hv : (t.modLane p fun l => { l with shadow := some (slot, ⟨mid, blk, bs⟩) }) = v at hfill
  have hvl : v.lane p = { t.lane p with shadow := some (slot, ⟨mid, blk, bs⟩) } := by rw [← hv, State.lane_modLane_same]
  have hvt : v.fw = t.fw ∧ v.hal = t.hal := by rw [← hv]; exact ⟨rfl, rfl⟩
  obtain ⟨hvfw, hvhal⟩ := hvt
  have hvhal' : v.hal = s.hal := hvhal.trans hhal
  have hvload : (v.lane p).loading = none := by rw [hvl]; exact hnone
  rw [hfill]
  split
  · obtain ⟨h1, h2⟩ := State.relayBlock_effect hvload p ⟨mid, blk, bs⟩
    rw [h2]
    exact ⟨hvload, by rw [hvl], by rw [h1]; exact hvfw, by rw [h1]; exact hvhal'⟩
  · exact ⟨hvload, by rw [hvl], hvfw, hvhal'⟩

/-! ### The scrubber (R331, Table ARCH-3) -/

/-- A poisoned granule: its eight words have no upset left and are poisoned, other words stand. -/
theorem Plate.poisonCell_words (p : Plate) (a w : Nat) :
    (wordKey a ≤ w ∧ w < wordKey a + 8 → Tbl.get 0 (p.poisonCell a).upset w = 0 ∧ Tbl.get false (p.poisonCell a).poison w = true) ∧
    (¬(wordKey a ≤ w ∧ w < wordKey a + 8) → Tbl.get 0 (p.poisonCell a).upset w = Tbl.get 0 p.upset w ∧
      Tbl.get false (p.poisonCell a).poison w = Tbl.get false p.poison w) ∧ (p.poisonCell a).bytes = p.bytes ∧ (p.poisonCell a).scrub = p.scrub := by
  have hall : ∀ n, ∀ q : Plate, q = (List.range n).foldl (fun (p : Plate) i =>
      { p with poison := Tbl.set false p.poison (wordKey a + i) true, upset := Tbl.drop (wordKey a + i) p.upset }) p →
      (wordKey a ≤ w ∧ w < wordKey a + n → Tbl.get 0 q.upset w = 0 ∧ Tbl.get false q.poison w = true) ∧
      (¬(wordKey a ≤ w ∧ w < wordKey a + n) → Tbl.get 0 q.upset w = Tbl.get 0 p.upset w ∧ Tbl.get false q.poison w = Tbl.get false p.poison w) ∧
      q.bytes = p.bytes ∧ q.scrub = p.scrub := by
    intro n
    induction n with
    | zero => rintro q rfl; exact ⟨fun h => by omega, fun _ => ⟨rfl, rfl⟩, rfl, rfl⟩
    | succ n ih =>
      intro q hq
      obtain ⟨h1, h2, h3, h4⟩ := ih _ rfl
      rw [List.range_succ, List.foldl_append, List.foldl_cons, List.foldl_nil] at hq
      generalize (List.range n).foldl _ p = v at h1 h2 h3 h4 hq
      subst hq
      by_cases hw : w = wordKey a + n
      · subst hw
        exact ⟨fun _ => ⟨Tbl.get_drop_same _ _ _, Tbl.get_set_same false _ true v.poison⟩, fun h => absurd ⟨by omega, by omega⟩ h, h3, h4⟩
      · have hup : Tbl.get 0 (Tbl.drop (wordKey a + n) v.upset) w = Tbl.get 0 v.upset w := Tbl.get_drop_other _ _ hw
        have hpo : Tbl.get false (Tbl.set false v.poison (wordKey a + n) true) w = Tbl.get false v.poison w := Tbl.get_set_other _ _ _ hw
        refine ⟨fun h => ?_, fun h => ?_, h3, h4⟩
        · dsimp only
          rw [hup, hpo]
          exact h1 (by omega)
        · dsimp only
          rw [hup, hpo]
          exact h2 (by omega)
  exact hall 8 _ rfl

/-- The scrubber looks at one word of the granule at `a`. -/
def State.checkWord (a : Nat) (s : State) (i : Nat) : State :=
  match Tbl.get 0 s.plate.upset (wordKey a + i) with
  | 0 => s
  | 1 => ({ s with plate := { s.plate with upset := Tbl.drop (wordKey a + i) s.plate.upset } }).raise ⟨2, s.plateAt a, 20, a / 64⟩
  | _ => ({ s with plate := s.plate.poisonCell (a / 64 * 64) }).raise ⟨2, s.plateAt a, 21, a / 64⟩

/-- What the scrubber has done after the words for which `seen` holds: no upset is left in them, and those that held a larger one are poisoned. -/
def State.Scrubbed (s : State) (seen : Nat → Prop) (u : State) : Prop :=
  u = { s with plate := u.plate, flt := u.flt } ∧ u.plate.bytes = s.plate.bytes ∧ u.plate.scrub = s.plate.scrub ∧
  ∀ w, (seen w → Tbl.get 0 u.plate.upset w = 0 ∧ (2 ≤ Tbl.get 0 s.plate.upset w → Tbl.get false u.plate.poison w = true)) ∧
    (¬seen w → Tbl.get 0 u.plate.upset w = Tbl.get 0 s.plate.upset w ∨ (Tbl.get 0 u.plate.upset w = 0 ∧ Tbl.get false u.plate.poison w = true))

/-- One word more has been looked at. -/
theorem State.Scrubbed.checkWord {s u : State} {seen : Nat → Prop} (h : s.Scrubbed seen u) {a i : Nat} (ha : a % 64 = 0) (hi : i < 8) :
    s.Scrubbed (fun w => seen w ∨ w = wordKey a + i) (u.checkWord a i) := by
  obtain ⟨hframe, hbytes, hscrub, hword⟩ := h
  have hkey : wordKey (a / 64 * 64) = wordKey a := by unfold wordKey; omega
  obtain ⟨hnew, hold⟩ := hword (wordKey a + i)
  by_cases h0 : Tbl.get 0 u.plate.upset (wordKey a + i) = 0
  · have hstep : u.checkWord a i = u := by unfold State.checkWord; simp only [h0]
    rw [hstep]
    refine ⟨hframe, hbytes, hscrub, fun w => ⟨fun hw => ?_, fun hw => (hword w).2 fun h => hw (.inl h)⟩⟩
    rcases hw with hw | rfl
    · exact (hword w).1 hw
    · by_cases hs : seen (wordKey a + i)
      · exact hnew hs
      · exact ⟨h0, fun h2 => (hold hs).elim (fun h => by omega) fun h => h.2⟩
  · by_cases h1 : Tbl.get 0 u.plate.upset (wordKey a + i) = 1
    · have hns : ¬seen (wordKey a + i) := fun hs => by have := (hnew hs).1; omega
      have hone : Tbl.get 0 s.plate.upset (wordKey a + i) = 1 := (hold hns).elim (fun h => h ▸ h1) fun h => by omega
      have hstep : u.checkWord a i = ({ u with plate := { u.plate with upset := Tbl.drop (wordKey a + i) u.plate.upset } } : State).raise
          ⟨2, u.plateAt a, 20, a / 64⟩ := by unfold State.checkWord; simp only [h1]
      rw [hstep, State.raise_low _ _ (by show kindSev 20 < 2; decide)]
      refine ⟨by rw [hframe], hbytes, hscrub, fun w => ?_⟩
      dsimp only
      by_cases hw : w = wordKey a + i
      · subst hw
        exact ⟨fun _ => ⟨Tbl.get_drop_same _ _ _, fun h2 => by omega⟩, fun h => absurd (.inr rfl) h⟩
      · rw [Tbl.get_drop_other _ _ hw]
        exact ⟨fun h => (hword w).1 (h.resolve_right hw), fun h => (hword w).2 fun k => h (.inl k)⟩
    · obtain ⟨k, hk⟩ : ∃ k, Tbl.get 0 u.plate.upset (wordKey a + i) = k + 2 := ⟨_, (Nat.sub_add_cancel (by omega)).symm⟩
      have hstep : u.checkWord a i = ({ u with plate := u.plate.poisonCell (a / 64 * 64) } : State).raise ⟨2, u.plateAt a, 21, a / 64⟩ := by
        unfold State.checkWord
        simp only [hk]
      rw [hstep, State.raise_low _ _ (by show kindSev 21 < 2; decide)]
      have hcell := u.plate.poisonCell_words (a / 64 * 64)
      rw [hkey] at hcell
      obtain ⟨_, _, hb, hsc⟩ := hcell 0
      refine ⟨by rw [hframe], hb.trans hbytes, hsc.trans hscrub, fun w => ?_⟩
      obtain ⟨hin, hout, _⟩ := hcell w
      dsimp only
      by_cases hw : wordKey a ≤ w ∧ w < wordKey a + 8
      · obtain ⟨e1, e2⟩ := hin hw
        exact ⟨fun _ => ⟨e1, fun _ => e2⟩, fun _ => .inr ⟨e1, e2⟩⟩
      · obtain ⟨e1, e2⟩ := hout hw
        rw [e1, e2]
        exact ⟨fun h => (hword w).1 (h.resolve_right fun h => hw ⟨by omega, by omega⟩), fun h => (hword w).2 fun k => h (.inl k)⟩

theorem State.Scrubbed.congr {s u : State} {P Q : Nat → Prop} (h : s.Scrubbed P u) (hpq : ∀ w, P w ↔ Q w) : s.Scrubbed Q u := by
  obtain ⟨h1, h2, h3, h4⟩ := h
  exact ⟨h1, h2, h3, fun w => ⟨fun hq => (h4 w).1 ((hpq w).mpr hq), fun hq => (h4 w).2 fun hp => hq ((hpq w).mp hp)⟩⟩

/-- The first `n` words of a granule have been looked at. -/
theorem State.Scrubbed.words {s u : State} {seen : Nat → Prop} (h : s.Scrubbed seen u) {a : Nat} (ha : a % 64 = 0) (n : Nat) (hn : n ≤ 8) :
    s.Scrubbed (fun w => seen w ∨ wordKey a ≤ w ∧ w < wordKey a + n) ((List.range n).foldl (State.checkWord a) u) := by
  induction n with
  | zero => exact h.congr fun w => ⟨.inl, fun h => h.resolve_right fun h => by omega⟩
  | succ n ih =>
    rw [List.range_succ, List.foldl_append, List.foldl_cons, List.foldl_nil]
    refine ((ih (by omega)).checkWord ha (by omega)).congr fun w => ?_
    constructor
    · rintro ((hs | hw) | hw)
      · exact .inl hs
      · exact .inr ⟨by omega, by omega⟩
      · exact .inr ⟨by omega, by omega⟩
    · rintro (hs | hw)
      · exact .inl (.inl hs)
      · by_cases hl : w = wordKey a + n
        · exact .inr hl
        · exact .inl (.inr ⟨by omega, by omega⟩)

theorem State.plateCheck_words (s : State) (a : Nat) : s.plateCheck a 20 21 = (List.range 8).foldl (State.checkWord a) s := rfl

/-- An access of the scrubber looks at its 32 words. -/
theorem scrub_effect (s : State) (A : Nat) (hA : A % 256 = 0) :
    s.Scrubbed (fun w => A / 8 ≤ w ∧ w < A / 8 + 32) ([0, 64, 128, 192].foldl (fun s o => s.plateCheck (A + o) 20 21) s) := by
  have hstart : s.Scrubbed (fun _ => False) s := ⟨rfl, rfl, rfl, fun w => ⟨fun h => h.elim, fun _ => .inl rfl⟩⟩
  have h0 := hstart.words (a := A + 0) (by omega) 8 (Nat.le_refl _)
  have h1 := h0.words (a := A + 64) (by omega) 8 (Nat.le_refl _)
  have h2 := h1.words (a := A + 128) (by omega) 8 (Nat.le_refl _)
  have h3 := h2.words (a := A + 192) (by omega) 8 (Nat.le_refl _)
  simp only [List.foldl_cons, List.foldl_nil, State.plateCheck_words]
  refine h3.congr fun w => ?_
  unfold wordKey
  constructor
  · rintro ((((h | h) | h) | h) | h)
    · exact h.elim
    all_goals exact ⟨by omega, by omega⟩
  · rintro ⟨hlo, hhi⟩
    by_cases c1 : w < A / 8 + 8
    · exact .inl (.inl (.inl (.inr ⟨by omega, by omega⟩)))
    · by_cases c2 : w < A / 8 + 16
      · exact .inl (.inl (.inr ⟨by omega, by omega⟩))
      · by_cases c3 : w < A / 8 + 24
        · exact .inl (.inr ⟨by omega, by omega⟩)
        · exact .inr ⟨by omega, by omega⟩

/-- Where no word has an upset, the scrubber changes nothing. -/
theorem scrub_clean {s : State} {A : Nat} (hA : A % 256 = 0) (h : ∀ w, A / 8 ≤ w → w < A / 8 + 32 → Tbl.get 0 s.plate.upset w = 0) :
    [0, 64, 128, 192].foldl (fun s o => s.plateCheck (A + o) 20 21) s = s := by
  have hcell : ∀ o, o % 64 = 0 → o < 256 → s.plateCheck (A + o) 20 21 = s := by
    intro o ho hlt
    rw [State.plateCheck_words]
    have hword : ∀ i ∈ List.range 8, s.checkWord (A + o) i = s := by
      intro i hi
      have hi8 := List.mem_range.mp hi
      have hz : Tbl.get 0 s.plate.upset (wordKey (A + o) + i) = 0 := h _ (by unfold wordKey; omega) (by unfold wordKey; omega)
      unfold State.checkWord
      simp only [hz]
    exact List.foldlRecOn (motive := fun u => u = s) _ _ rfl fun u hu i hi => by rw [hu]; exact hword i hi
  simp only [List.foldl_cons, List.foldl_nil]
  rw [hcell 0 (by omega) (by omega), hcell 64 (by omega) (by omega), hcell 128 (by omega) (by omega), hcell 192 (by omega) (by omega)]

/-- What the scrubber's slot does to a Plate of the build. -/
theorem exec_scrubSlot {s : State} (hs : s.works) {plate : Fin 64} (hp : plate.val < s.build.cfg.plates) {A : Nat}
    (hA : A = scrubAddr s.build.cfg.plates plate.val (Tbl.get 0 s.plate.scrub plate.val)) {v : State}
    (hv : v = [0, 64, 128, 192].foldl (fun s o => s.plateCheck (A + o) 20 21) s) : exec (.scrubSlot plate) s = .next (s.keep { v with
      plate := { v.plate with scrub := Tbl.set 0 v.plate.scrub plate.val ((Tbl.get 0 s.plate.scrub plate.val + 1) % 4096) } }) := by
  have hexec : exec (.scrubSlot plate) s = _ := (running_works _ hs : execScrubSlot plate s = _)
  rw [hexec]
  dsimp only
  rw [if_neg (by omega), ← hA, ← hv]

/-- Settles O56: the beats, responses and timers of the ports, the load of a block and the scrubber, each by its effect above. -/
theorem portsAndPlates : Obligations.PortsAndPlates := by
  unfold Obligations.PortsAndPlates
  intro s port tag idx data chk lane plate hs
  have htimeout : ∀ own write, exec (.portResponseTimeout port write tag own) s = _ := fun own write =>
    (running_works _ hs : execPortResponseTimeout port write tag own s = _)
  have hload : exec (.weightBlockLoaded lane) s = _ := (running_works _ hs : execWeightBlockLoaded lane s = _)
  have hexpand : exec (.expandBlockDone port) s = _ := (running_works _ hs : execExpandBlockDone port s = _)
  have hcompress : exec (.compressBlock port) s = _ := (running_works _ hs : execCompressBlock port s = _)
  have hscrub : exec (.scrubSlot plate) s = _ := (running_works _ hs : execScrubSlot plate s = _)
  have hraise : ∀ b, s.keep (s.raise b) = s.raise b := s.shellKept_raise
  refine ⟨fun hp h1 h2 code => ?_, fun r hp hr hi hside hflaw => ⟨fun hmore => ?_, fun x0 p c id key n x t hlast hparts ho hok hrx hx => ?_⟩,
    fun w p c id x t hp hw ho hrx hx => ⟨writeResponse_ok hs hp hw ho hrx hx, writeResponse_early hs hp hw ho hrx⟩,
    fun hp hw hl code early => ?_, fun own hp hw hl hport hb hfit => ?_, fun r x0 p c id key n hp hr hparts ho => ?_, fun hl => ?_,
    fun mid blk slot a n bs t hl hb ht => ?_, fun he => ?_, fun j rest he hj => ?_, fun hc => ?_, fun hp => ?_, fun k a hp hk ha => ?_⟩
  case refine_1 =>
    rw [exec_readBeat hs hp (State.takeBeat_stray h1 h2 code data)]
    exact congrArg Host.Outcome.next (hraise ⟨3, port.val, 16, 0⟩)
  case refine_2 =>
    have hbeat := State.takeBeat_good (chk := chk.toNat) hr hi hside hflaw data
    rw [if_neg (by omega), worst_ok] at hbeat
    rw [exec_readBeat hs hp hbeat]
    rfl
  case refine_3 =>
    have hbeat := State.takeBeat_good (chk := chk.toNat) hr hi hside hflaw data
    rw [if_pos hlast, worst_ok] at hbeat
    have hexec := exec_readBeat hs hp hbeat
    obtain ⟨hpump, hidle⟩ := (s.modPort port.val fun q => { q with reads := Tbl.drop tag.toNat q.reads }).pumpRead_effect port.val
    have hport : (s.port port.val).waitR = [] → Tbl.find (((s.modPort port.val fun q => { q with reads := Tbl.drop tag.toNat q.reads }).pumpRead port.val).port port.val).reads
        tag.toNat = none := fun hw => by
      rw [hidle (by rw [State.port_modPort_same]; exact hw), State.port_modPort_same]
      exact Tbl.find_drop_same _ _
    generalize (s.modPort port.val fun q => { q with reads := Tbl.drop tag.toNat q.reads }).pumpRead port.val = v at hpump hport hexec
    have hvx : v.xferOf c id = some (x, t) := by rw [hpump]; exact hx
    obtain ⟨y, t', hy, hcells, hfr⟩ := State.readEnded_cell (q := port.val) (r := { r with got := r.got ++ [beatBytes data] }) hparts ho hok hvx
    dsimp only [Option.elim] at hexec
    generalize v.readEnded port.val { r with got := r.got ++ [beatBytes data] } = u at hy hfr hexec
    have huport : u.port port.val = v.port port.val := by rw [hfr]; rfl
    rw [State.rxSettle_empty (by rw [hfr, hpump]; exact hrx)] at hexec
    have hkeep : s.keep u = u := by rw [hfr, hpump]; rfl
    refine ⟨u, y, t', hexec.trans (congrArg _ hkeep), by rw [huport]; exact hport, hy, hcells, ?_, ?_, ?_⟩ <;> rw [hfr, hpump] <;> rfl
  case refine_4 =>
    have hresp : exec (.writeResponse port tag code early) s = _ := (running_works _ hs : execWriteResponse port tag code early s = _)
    rw [hresp]
    unfold State.takeResponse
    dsimp only
    rw [if_neg (by simp [State.hasPort, hp]), hw]
    dsimp only
    rw [hl]
    exact congrArg _ (hraise _)
  case refine_5 =>
    rw [htimeout]
    dsimp only
    rw [if_neg (by simp [State.hasPort, hp]), timeoutOwn_write hw hl hport hb hfit]
    have hkeep := State.shellKept_raise (s.modPort port.val fun q => { q with
      tmo := if q.tmo = 65535 then q.tmo else q.tmo + 1, lateW := Tbl.put tag.toNat true q.lateW }) ⟨4, port.val, 15, formatA own.addr.toNat⟩
    exact congrArg Host.Outcome.next hkeep
  case refine_6 =>
    obtain ⟨u, hu, h1, h2, h3, h4⟩ := readTimeout_effect hr hparts ho
    rcases ht : s.timeoutRead port.val tag.toNat with ⟨s', e⟩
    have hend := hu s' e ht
    refine ⟨s.keep u, ?_, h1, h2, h3, h4⟩
    rw [htimeout]
    dsimp only
    rw [if_neg (by simp [State.hasPort, hp]), if_neg Bool.false_ne_true, ht, ← hend]
    cases e <;> rfl
  case refine_7 =>
    rw [hload]
    unfold weightLoaded
    rw [hl]
    rfl
  case refine_8 =>
    obtain ⟨h1, h2, h3, h4⟩ := weightLoaded_fills hl hb ht
    exact ⟨_, hload, h1, h2, h3, h4⟩
  case refine_9 => rw [hexpand, he]; rfl
  case refine_10 =>
    rw [hexpand, he]
    dsimp only
    rw [hj]
    rfl
  case refine_11 =>
    rw [hcompress]
    unfold State.compressJob
    rw [hc]
    rfl
  case refine_12 =>
    rw [hscrub]
    dsimp only
    rw [if_pos hp]
    rfl
  case refine_13 =>
    have hA : (scrubAddr s.build.cfg.plates plate.val k) % 256 = 0 := by unfold scrubAddr; omega
    have hA8 : scrubAddr s.build.cfg.plates plate.val k / 8 = a := by rw [ha]; unfold scrubAddr; omega
    obtain ⟨hframe, hbytes, hsc, hword⟩ := scrub_effect s _ hA
    have hclean := scrub_clean (s := s) hA
    have hexec := exec_scrubSlot hs hp (A := scrubAddr s.build.cfg.plates plate.val k) (by rw [hk]) rfl
    rw [hA8] at hword hclean
    generalize hv : [0, 64, 128, 192].foldl (fun t o => t.plateCheck (scrubAddr s.build.cfg.plates plate.val k + o) 20 21) s = v at hframe hbytes hsc hword hclean hexec
    refine ⟨_, hexec, by rw [hframe]; rfl, hbytes, ?_, fun w h1 h2 => (hword w).1 ⟨h1, h2⟩, fun hz => ?_⟩
    · rw [hk]
      exact Tbl.get_set_same _ _ _ _
    · rw [hclean hz]
      exact ⟨rfl, rfl⟩

end Sys2Proof.Machine
end

section
/-! SUPPORT. Blocks in the expander and the compressor (R203, R206-R210, R214). -/
namespace Sys2Proof.Machine

/-! ### Issued writes -/

/-- `t` differs from `s` at most in the ports' requests and the free choices: what the expanders and compressors hold stands. -/
def State.RequestsOnly (s t : State) : Prop := t = { s with ports := t.ports, free := t.free } ∧ ∀ q, (t.port q).compress = (s.port q).compress

theorem State.RequestsOnly.trans {s t u : State} (h : s.RequestsOnly t) (k : t.RequestsOnly u) : s.RequestsOnly u := by
  obtain ⟨h1, h2⟩ := h
  obtain ⟨k1, k2⟩ := k
  exact ⟨by rw [k1, h1], fun q => (k2 q).trans (h2 q)⟩

theorem State.requestsOnly_modPort (s : State) (p : Nat) {f : Port → Port} (hf : (f (s.port p)).compress = (s.port p).compress) :
    s.RequestsOnly (s.modPort p f) := by
  refine ⟨rfl, fun q => ?_⟩
  by_cases hq : q = p
  · subst hq; rw [State.port_modPort_same]; exact hf
  · rw [State.port_modPort_other _ _ hq]

theorem State.requestsOnly_newWrite {s v : State} {q : Nat} {c : WCell} (h : s.newWrite q c = some v) : s.RequestsOnly v := by
  unfold State.newWrite at h
  split at h
  · obtain rfl := Option.some.inj h
    exact s.requestsOnly_modPort q rfl
  · split at h
    · obtain rfl := Option.some.inj h
      exact s.requestsOnly_modPort q rfl
    · exact nomatch h

theorem State.requestsOnly_enterWrite {s v : State} {q : Nat} {c : WCell} (h : s.enterWrite q c = some v) : s.RequestsOnly v := by
  unfold State.enterWrite at h
  split at h
  next tag w hj =>
    dsimp only at h
    have hfree : s.RequestsOnly (if w.fresh then s else { s with free := s.free + 1 }) := by split <;> exact ⟨rfl, fun _ => rfl⟩
    generalize (if w.fresh then s else { s with free := s.free + 1 }) = u at h hfree
    split at h
    · obtain rfl := Option.some.inj h
      exact hfree.trans (u.requestsOnly_modPort q rfl)
    · exact hfree.trans (State.requestsOnly_newWrite h)
  · exact State.requestsOnly_newWrite h

theorem State.requestsOnly_issueWrite {s v : State} {o : Owner} {a : Nat} {data : List Byte} {be : BitVec 64} {poison : Bool} {chk : Nat}
    (h : s.issueWrite o a data be poison chk = some v) : s.RequestsOnly v := by
  unfold State.issueWrite at h
  dsimp only at h
  split at h
  · split at h
    · exact nomatch h
    · exact State.requestsOnly_enterWrite h
  · rw [if_neg Bool.false_ne_true] at h
    exact State.requestsOnly_enterWrite h

theorem State.requestsOnly_issueAll {o : Owner} {poison : Bool} : ∀ (l : List (Nat × List Byte × BitVec 64)) {s v : State},
    State.issueAll o poison l s = some v → s.RequestsOnly v
  | [], s, v, h => by
    obtain rfl := Option.some.inj h
    exact ⟨rfl, fun _ => rfl⟩
  | w :: l, s, v, h => by
    unfold State.issueAll at h
    obtain ⟨u, hu, hv⟩ := Option.bind_eq_some_iff.mp h
    exact (State.requestsOnly_issueWrite hu).trans (State.requestsOnly_issueAll l hv)

/-! ### The expander (R206-R210) -/

/-- A stream that counts is found with its transfers. -/
theorem State.xferOf_modStream {s : State} {c id : Nat} {x : Stream} {t : Transfer} (hx : s.xferOf c id = some (x, t)) {f : Stream → Stream}
    (hf : ∀ x, (f x).xfers = x.xfers) : (s.modStream c f).xferOf c id = some (f x, t) := by
  unfold State.xferOf Stream.xfer at hx ⊢
  simp only [Option.bind_eq_some_iff, Option.map_eq_some_iff, Prod.mk.injEq] at hx ⊢
  obtain ⟨z, hz, w, hw, rfl, rfl⟩ := hx
  exact ⟨f z, by rw [State.stream_modStream_same, hz]; rfl, w, by rw [hf]; exact hw, rfl, rfl⟩

theorem Stream.count_xfers (x : Stream) (w n : Nat) : (x.count w n).xfers = x.xfers := rfl

/-- Data that is put into a transfer is found there. -/
theorem State.putData_effect {s : State} {c id : Nat} {x : Stream} {t : Transfer} (hx : s.xferOf c id = some (x, t)) (key n : Nat) (b : List Byte) :
    ∃ (y : Stream) (t' : Transfer), (s.putData c id key n b).xferOf c id = some (y, t') ∧ y.stats = x.stats ∧
      ∀ i, i < n → Tbl.find t'.cells (key + i) = some (Cell.of (slice b (64 * i) 64)) :=
  ⟨_, _, State.xferOf_modXfer hx fun _ => rfl, rfl, fun i hi => find_putRun key (fun i => Cell.of (slice b (64 * i) 64)) t.cells n i hi⟩

theorem Stream.stats_countRead {x y : Stream} (h : y.stats = x.stats) (mode z escapes : Nat) :
    (y.countRead mode z escapes).stats = (x.countRead mode z escapes).stats := by
  unfold Stream.countRead
  split <;> (unfold Stream.count; dsimp only; rw [h])

theorem Stream.countWritten_xfers (x : Stream) (k : Coded) : (x.countWritten k).xfers = x.xfers := by
  unfold Stream.countWritten
  simp only [Stream.count_xfers]

theorem Stream.stats_countWritten {x y : Stream} (h : y.stats = x.stats) (k : Coded) : (y.countWritten k).stats = (x.countWritten k).stats := by
  unfold Stream.countWritten Stream.count
  dsimp only
  rw [h]

/-- A block whose data passes its check is released to its transfer and counted. -/
theorem State.expandJob_releases {s : State} {q : Nat} {j : ExpandJob} {bd b hd : List Byte} {tn : Tensor} {x : Stream} {t : Transfer} {k ha : Nat}
    {e : Expanded} (htn : s.codedOf j.sctx j.xfer j.sel = some tn) (hx : s.xferOf j.sctx j.xfer = some (x, t)) (hha : ha = tn.d.headerAddr j.st j.blk)
    (hl : Tbl.find t.lists (Place.host (ha / 64 * 64)).key = some (.data b k)) (hhd : hd = slice b (ha % 64) 16)
    (he : expandBody (s.bookBytes tn.d.cbook) (bd.take (fieldLE hd 2 2)) (tn.d.blockSize j.blk) (fieldLE hd 5 1) = some e)
    (hcrc : crc32c e.out = fieldLE hd 8 4) : s.expandJob q j bd =
      (s.putData j.sctx j.xfer (nth 0 (tn.blockKeys j.st j.blk) 0) (tn.blockKeys j.st j.blk).length e.out).modStream j.sctx fun x =>
        x.countRead (fieldLE hd 5 1) (tn.d.blockSize j.blk) e.escapes := by
  subst hha hhd
  unfold State.expandJob
  rw [htn, hx]
  dsimp only
  rw [hl]
  dsimp only
  rw [he]
  dsimp only
  rw [if_neg (by simp [hcrc])]

theorem Stream.countRead_xfers (x : Stream) (mode z escapes : Nat) : (x.countRead mode z escapes).xfers = x.xfers := by
  unfold Stream.countRead
  split <;> rfl

/-- Settles O57: the released block, the write that the safe state stops, and the writes that leave. -/
theorem dictionaryBlocks : Obligations.DictionaryBlocks := by
  unfold Obligations.DictionaryBlocks
  intro s port hs
  have hexpand : exec (.expandBlockDone port) s = _ := (running_works _ hs : execExpandBlockDone port s = _)
  have hcompress : exec (.compressBlock port) s = _ := (running_works _ hs : execCompressBlock port s = _)
  refine ⟨fun j rest tn x t b k bd hd e ha hq hj htn hx hha hl hhd he hcrc => ?_, fun j rest x t k hq hx hk => ⟨fun hsafe => ?_, fun v hsafe hv => ?_⟩⟩
  case refine_1 =>
    generalize hw : (s.modPort port.val fun q => { q with expand := rest }) = w
    have hws : w = { s with ports := w.ports } := by rw [← hw]; rfl
    have hport : (w.port port.val).expand = rest := by rw [← hw, State.port_modPort_same]
    have hwx : w.xferOf j.sctx j.xfer = some (x, t) := by rw [hws]; exact hx
    have hjob := State.expandJob_releases (q := port.val) (s := w) (by rw [hws]; exact htn) hwx hha hl hhd (by rw [hws]; exact he) hcrc
    rw [hq] at hexpand
    dsimp only at hexpand
    rw [hj] at hexpand
    dsimp only at hexpand
    rw [hw, hjob] at hexpand
    obtain ⟨y, t', hy, hstats, hcells⟩ := State.putData_effect hwx (nth 0 (tn.blockKeys j.st j.blk) 0) (tn.blockKeys j.st j.blk).length e.out
    have hput : w.putData j.sctx j.xfer (nth 0 (tn.blockKeys j.st j.blk) 0) (tn.blockKeys j.st j.blk).length e.out = _ := w.modStream_frame j.sctx _
    generalize w.putData j.sctx j.xfer (nth 0 (tn.blockKeys j.st j.blk) 0) (tn.blockKeys j.st j.blk).length e.out = v at hy hput hexpand
    have hcount := State.xferOf_modStream hy fun x => x.countRead_xfers (fieldLE hd 5 1) (tn.d.blockSize j.blk) e.escapes
    refine ⟨_, _, _, hexpand, ?_, hcount, Stream.stats_countRead hstats _ _ _, hcells, ?_⟩ <;> rw [State.modStream_frame, hput]
    · exact hport
    · rw [hws]
      exact ⟨rfl, rfl, rfl, rfl⟩
  case refine_2 =>
    generalize hw : (s.modPort port.val fun q => { q with compress := rest }) = w
    have hws : w = { s with ports := w.ports } := by rw [← hw]; rfl
    have hport : w.port port.val = { s.port port.val with compress := rest } := by rw [← hw, State.port_modPort_same]
    have hrest : (w.port port.val).compress = rest := by rw [hport]
    have hwx : w.xferOf j.sctx j.xfer = some (x, t) := by rw [hws]; exact hx
    have hjob : s.compressJob port.val false = w.modXfer j.sctx j.xfer fun t => { t with outstanding := t.outstanding - 1, err := some (t.err.getD .fail) } := by
      unfold State.compressJob
      rw [hq]
      dsimp only
      rw [if_pos hsafe, hw]
    have hwrites : (w.port port.val).writes = (s.port port.val).writes := by rw [hport]
    rw [hjob] at hcompress
    refine ⟨_, _, _, hcompress, ?_, State.xferOf_modXfer hwx fun _ => rfl, (fun h => nomatch h), rfl, ?_⟩ <;> rw [State.modXfer, State.modStream_frame]
    · exact hrest
    · exact hwrites
  case refine_3 =>
    generalize hw : (s.modPort port.val fun q => { q with compress := rest }) = w at hv
    have hws : w = { s with ports := w.ports } := by rw [← hw]; rfl
    have hport : w.port port.val = { s.port port.val with compress := rest } := by rw [← hw, State.port_modPort_same]
    have hrest : (w.port port.val).compress = rest := by rw [hport]
    obtain ⟨hvw, hcomp⟩ := State.requestsOnly_issueAll (j.cells k) hv
    have hvs : v = { s with ports := v.ports, free := v.free } := by rw [hvw, hws]
    have hvx : v.xferOf j.sctx j.xfer = some (x, t) := by rw [hvs]; exact hx
    have hjob : s.compressJob port.val false = (v.modXfer j.sctx j.xfer fun t => { t with outstanding := t.outstanding + (j.cells k).length - 1 }).modStream
        j.sctx fun x => x.countWritten k := by
      unfold State.compressJob
      rw [hq]
      dsimp only
      rw [if_neg (by rw [hsafe]; exact Bool.false_ne_true), hw, ← hk, Bool.false_or, hv]
    rw [hjob] at hcompress
    have hout := State.xferOf_modXfer hvx (f := fun t => { t with outstanding := t.outstanding + (j.cells k).length - 1 }) fun _ => rfl
    have hcount := State.xferOf_modStream hout (f := fun x => x.countWritten k) fun x => x.countWritten_xfers k
    refine ⟨_, _, _, hcompress, ?_, ?_, hcount, rfl, Stream.stats_countWritten rfl k, ?_⟩ <;> rw [State.modStream_frame, State.modXfer, State.modStream_frame]
    · exact (hcomp port.val).trans hrest
    · rfl
    · rw [hvs]; exact ⟨rfl, rfl, rfl⟩

end Sys2Proof.Machine
end

section
/-! SUPPORT. The pass-through of the peer-link port and the egress choice (R268, R269, R288-R290, R392). -/
namespace Sys2Proof.Machine

/-! ### The egress choice (R269) -/

theorem Link.choose_ack {l : Link} {n : Bool} {as : List Bool} (h : l.ackQ = n :: as) : l.choose = .ack n := by
  unfold Link.choose
  rw [h]

theorem Link.choose_host {l : Link} {pf : PassFrame} {rest : List PassFrame} (ha : l.ackQ = []) (hm : l.toMac = pf :: rest)
    (ht : l.txQ = [] ∨ l.hostTurn = true) : l.choose = .host pf := by
  unfold Link.choose
  rw [ha, hm]
  cases hx : l.txQ with
  | nil => rfl
  | cons x xs =>
    have hturn := ht.resolve_left fun h => nomatch hx.symm.trans h
    dsimp only
    rw [if_pos hturn]

theorem Link.choose_both {l : Link} {pf : PassFrame} {rest : List PassFrame} {x : TxItem} {xs : List TxItem} (ha : l.ackQ = [])
    (hm : l.toMac = pf :: rest) (ht : l.txQ = x :: xs) : l.choose = if l.hostTurn then .host pf else .transport x := by
  unfold Link.choose
  rw [ha, hm, ht]

/-! ### A frame that passes through (R288-R290) -/

/-- A frame that leaves is corrected and counted, or leaves as it is. -/
theorem State.passFrame_effect (s : State) (f : PassFrame) (te : Nat) :
    (f.locked = true → s.corrects f.bytes = true → s.passFrame f te = (s.linkBump 11 1, addResidence f.bytes ((te : Int) - (f.ti : Int)))) ∧
    (f.locked = false ∨ s.corrects f.bytes = false → s.passFrame f te = (if ptpEvent f.bytes then s.linkBump 12 1 else s, f.bytes)) := by
  unfold State.passFrame
  refine ⟨fun h1 h2 => ?_, fun h => ?_⟩
  · rw [h1, h2]
    rfl
  · rw [if_neg (by rcases h with h | h <;> simp [h])]

/-- Only the link's counters change as a frame passes through. -/
theorem State.passFrame_frame (s : State) (f : PassFrame) (te : Nat) :
    (s.passFrame f te).1 = { s with link := { s.link with cnt := (s.passFrame f te).1.link.cnt } } := by
  unfold State.passFrame
  split
  · rfl
  · split <;> rfl

theorem State.hostStep_takes {s : State} {pf : PassFrame} {rest : List PassFrame} (h : s.link.toHost = pf :: rest) :
    s.hostStep = { (s.stamp.2.passFrame pf s.stamp.1).1 with
      hostOut := (s.stamp.2.passFrame pf s.stamp.1).1.hostOut ++ [(s.stamp.2.passFrame pf s.stamp.1).2]
      link := { (s.stamp.2.passFrame pf s.stamp.1).1.link with toHost := rest } } := by
  unfold State.hostStep
  rw [h]

/-- The host side takes the oldest frame of its queue, corrected and counted where that applies. -/
theorem State.hostStep_effect {s : State} {pf : PassFrame} {rest : List PassFrame} (h : s.link.toHost = pf :: rest) : s.hostStep.link.toHost = rest ∧
    (pf.locked = true → s.corrects pf.bytes = true → s.hostStep.link.cnt = (s.link.bump 11 1).cnt ∧
      s.hostStep.hostOut = s.hostOut ++ [addResidence pf.bytes ((s.stamp.1 : Int) - (pf.ti : Int))]) ∧
    (pf.locked = false ∨ s.corrects pf.bytes = false → s.hostStep.hostOut = s.hostOut ++ [pf.bytes] ∧
      s.hostStep.link.cnt = if ptpEvent pf.bytes then (s.link.bump 12 1).cnt else s.link.cnt) := by
  obtain ⟨hcor, hplain⟩ := s.stamp.2.passFrame_effect pf s.stamp.1
  rw [State.hostStep_takes h]
  refine ⟨rfl, fun h1 h2 => ?_, fun h3 => ?_⟩
  · rw [hcor h1 h2]
    exact ⟨rfl, rfl⟩
  · rw [hplain h3]
    refine ⟨?_, ?_⟩ <;> dsimp only <;> split <;> rfl

/-! ### The MAC-side output (R269) -/

theorem State.beginFrame_ack {s : State} {n : Bool} {as : List Bool} (h : s.link.ackQ = n :: as) : s.beginFrame.link.ackQ = as ∧
    s.beginFrame.link.txQ = s.link.txQ ∧ s.beginFrame.link.toMac = s.link.toMac ∧ s.beginFrame.link.hostTurn = s.link.hostTurn := by
  unfold State.beginFrame
  dsimp only
  rw [Link.choose_ack h]
  exact ⟨congrArg List.tail h, rfl, rfl, rfl⟩

theorem State.beginFrame_host {s : State} {pf : PassFrame} {rest : List PassFrame} (ha : s.link.ackQ = []) (hm : s.link.toMac = pf :: rest)
    (ht : s.link.txQ = [] ∨ s.link.hostTurn = true) :
    s.beginFrame.link.toMac = rest ∧ s.beginFrame.link.txQ = s.link.txQ ∧ s.beginFrame.link.hostTurn = false := by
  have hfr := s.stamp.2.passFrame_frame pf s.stamp.1
  unfold State.beginFrame
  dsimp only
  rw [Link.choose_host ha hm ht]
  dsimp only
  rw [hfr]
  exact ⟨congrArg List.tail hm, rfl, rfl⟩

/-- While only the host side has a frame to take, the outputs are that side's. -/
theorem State.outputs_host {s : State} {pf : PassFrame} {rest : List PassFrame} (hs : s.link.sending = none) (hc : s.link.choose = .none)
    (hh : s.link.toHost = pf :: rest) : s.outputs =
      if Config.freeBit (s.free + 1) then ({ s with free := s.free + 2 } : State).hostStep else { s with free := s.free + 2 } := by
  have hmac : ({ s with free := s.free + 2 } : State).macStep = { s with free := s.free + 2 } := by
    unfold State.macStep
    rw [show ({ s with free := s.free + 2 } : State).link.sending = none from hs]
    unfold State.beginFrame
    dsimp only
    rw [hc]
  unfold State.outputs
  dsimp only
  rw [if_neg (by rw [hh]; simp), hmac, ite_self]

/-- Settles O60: each side's frames enter, pass and leave by the operations above. -/
theorem passThrough : Obligations.PassThrough := by
  unfold Obligations.PassThrough
  intro s f l pf rest hs
  have hmac : exec (.macPassThrough f) s = .next (s.keep _) := (running_works _ hs : execMacPassThrough f s = _)
  have hhost : exec (.hostPassThrough f) s = .next (s.keep _) := (running_works _ hs : execHostPassThrough f s = _)
  refine ⟨fun ht => ?_, fun ht => ⟨fun hb => ?_, fun hb hl => ?_, fun hb hl hr => ?_⟩, fun hr => ?_, fun hr => ⟨fun hb => ?_, fun hb hl => ?_,
    fun hb hl => ⟨fun ht => ?_, fun ht => ?_⟩⟩, State.outputs_host, State.hostStep_effect, fun n as => Link.choose_ack, fun x xs => Link.choose_both,
    fun n as _ => State.beginFrame_ack, State.beginFrame_host⟩
  case refine_1 => rw [hmac, if_pos ht]; rfl
  case refine_2 => rw [hmac, ht, hb]; rfl
  case refine_3 =>
    have hfull : f.bytes.length > 9216 ∨ (!passRoom s.link.toHost) = true := hl.imp id fun h => by rw [h]; rfl
    rw [hmac, ht, hb, if_neg Bool.false_ne_true, if_neg Bool.false_ne_true, if_pos hfull]
    rfl
  case refine_4 =>
    have hroom : ¬(f.bytes.length > 9216 ∨ (!passRoom s.link.toHost) = true) := by rw [hr]; simp; omega
    rw [hmac, ht, hb, if_neg Bool.false_ne_true, if_neg Bool.false_ne_true, if_neg hroom]
    rfl
  case refine_5 => rw [hhost, hr]; rfl
  case refine_6 => rw [hhost, hr, hb]; rfl
  case refine_7 =>
    rw [hhost, hr, hb, if_neg (by decide), if_neg Bool.false_ne_true, if_pos hl]
    rfl
  case refine_8 =>
    rw [hhost, hr, hb, if_neg (by decide), if_neg Bool.false_ne_true, if_neg (by omega), if_pos ht]
    rfl
  case refine_9 =>
    rw [hhost, hr, hb, if_neg (by decide), if_neg Bool.false_ne_true, if_neg (by omega), if_neg (by rw [ht]; exact Bool.false_ne_true)]
    rfl

end Sys2Proof.Machine
end

section
/-! SUPPORT. The life of a session (R269, R273, R278-R283, Tables LINK-7, LINK-8, LINK-10). -/
namespace Sys2Proof.Machine

/-! ### The accesses that a loss drops (R283) -/

theorem State.fwShape_setStream (s : State) (c : Nat) (x : Stream) : s.FwShape (s.setStream c x) := ⟨rfl, rfl⟩

theorem State.fwShape_modLane (s : State) (p : Nat) (f : Lane → Lane) : s.FwShape (s.modLane p f) := ⟨rfl, rfl⟩

theorem State.fwShape_dropXfer (s : State) (c id : Nat) : s.FwShape (s.dropXfer c id) := by
  unfold State.dropXfer
  split
  · exact .refl s
  · dsimp only
    split
    · exact s.fwShape_setStream _ _
    · refine State.FwShape.trans ?_ (.of_queueShape (State.queueShape_refill _ _))
      exact ⟨rfl, rfl⟩

theorem State.fwShape_finishXfer (s : State) (c id : Nat) : s.FwShape (s.finishXfer c id) := by
  unfold State.finishXfer
  split
  · exact .refl s
  · refine (s.fwShape_dropXfer c id).trans (.foldl (fun s i => ?_) _ _)
    split
    · split
      · exact s.fwShape_dropXfer _ _
      · exact .refl s
    · exact .refl s

theorem State.fwShape_checkComplete (s : State) (p c id : Nat) : s.FwShape (s.checkComplete p c id) := by
  unfold State.checkComplete
  split
  · exact .refl s
  · split
    · exact .refl s
    · split
      · exact s.fwShape_modLane _ _
      · split
        · split
          · exact s.fwShape_finishXfer c id
          · split
            · exact s.fwShape_dropXfer c id
            · exact .refl s
        · exact .refl s

theorem State.fwShape_errXfer (s : State) (p c id : Nat) (r : Resp) (addr : Nat) : s.FwShape (s.errXfer p c id r addr) := by
  obtain ⟨_, _, h⟩ := s.errXfer_effect p c id r addr
  rw [h]
  exact ⟨rfl, rfl⟩

theorem State.fwShape_dropXferLink (s : State) (l : Link) (remote : Bool) (c id : Nat) : s.FwShape (s.dropXferLink l remote c id) := by
  unfold State.dropXferLink
  dsimp only
  split
  · exact .refl s
  · have hput := State.FwShape.trans (.foldl (fun s (q : PeerRead) => s.fwShape_modStream c _) (l.openReads c id) s)
      (State.fwShape_modStream (List.foldl (fun s (q : PeerRead) => s.putCells c id q.keys (.bad .fail)) s (l.openReads c id)) c
        fun x => x.modXfer id fun t => { t with outstanding := t.outstanding - l.openWrites c id })
    refine hput.trans ?_
    split
    · exact State.fwShape_modStream _ _ _
    · split
      · exact State.fwShape_errXfer _ _ _ _ _ _
      · exact State.fwShape_checkComplete _ _ _ _

/-! ### What a loss leaves of the link and of the command in hand -/

/-- The link's counters, its buffer and the command in hand are those of `s`. -/
def State.LossKept (s t : State) : Prop := t.link.cnt = s.link.cnt ∧ t.link.buf = s.link.buf ∧ t.ctl.hand = s.ctl.hand

theorem State.LossKept.refl (s : State) : s.LossKept s := ⟨rfl, rfl, rfl⟩

theorem State.LossKept.trans {s t u : State} (h : s.LossKept t) (k : t.LossKept u) : s.LossKept u := by
  obtain ⟨h1, h2, h3⟩ := h
  obtain ⟨k1, k2, k3⟩ := k
  exact ⟨k1.trans h1, k2.trans h2, k3.trans h3⟩

theorem State.LossKept.foldl {α : Type} {f : State → α → State} (hf : ∀ (s : State) a, s.LossKept (f s a)) (l : List α) (s : State) :
    s.LossKept (l.foldl f s) :=
  foldl_keeps (fun u => s.LossKept u) f (fun u a hu => hu.trans (hf u a)) l s (.refl s)

theorem State.LossKept.of_fwShape {s t : State} (h : s.FwShape t) : s.LossKept t := by
  obtain ⟨h1, h2⟩ := h
  exact ⟨by rw [h1], by rw [h1], by rw [h2]⟩

theorem State.lossKept_evictMember (s : State) (p c h i : Nat) : s.LossKept (s.evictMember p c h i) := by
  unfold State.evictMember
  split
  next b x hb hx =>
    refine State.LossKept.trans ?_ (.of_fwShape (State.fwShape_faultReply _ _))
    rw [State.raise_low _ _ (by show kindSev 34 < 2; decide)]
    refine State.LossKept.trans (t := State.modStream _ c fun x => x.count 27 1) ?_ ⟨rfl, rfl, rfl⟩
    refine State.LossKept.trans ?_ (.of_fwShape (State.fwShape_modStream _ _ _))
    exact ⟨rfl, rfl, rfl⟩
  · exact .refl s

theorem State.lossKept_evictPeer (s : State) (h i : Nat) : s.LossKept (s.evictPeer h i) := by
  unfold State.evictPeer
  split
  · exact s.lossKept_evictMember _ _ _ _
  · split
    · exact ⟨rfl, rfl, rfl⟩
    · exact .refl s

theorem State.lossKept_dropAccesses (s : State) : s.LossKept s.dropAccesses := by
  unfold State.dropAccesses
  dsimp only
  refine State.LossKept.trans ?_ (.of_fwShape (.foldl (fun s (e : Nat × Stream) => .foldl (fun s (t : Transfer) => s.fwShape_dropXferLink _ _ _ _) _ s) _ _))
  exact ⟨rfl, rfl, rfl⟩

theorem State.lossKept_evictions (s : State) : s.LossKept s.evictPeers.dropAccesses :=
  State.LossKept.trans (.foldl (fun s (e : Nat × Nat) => s.lossKept_evictPeer e.1 e.2) _ s) (State.lossKept_dropAccesses _)

theorem State.fwShape_holdStrays (s : State) : s.FwShape s.holdStrays := by
  unfold State.holdStrays
  dsimp only
  split
  · exact .refl s
  · refine State.FwShape.trans ?_ (State.fwShape_faultReply _ _)
    refine State.FwShape.trans ?_ (.foldl (fun s c => ?_) _ _)
    · refine State.FwShape.trans (.foldl (fun s c => ?_) _ s) ⟨rfl, rfl⟩
      exact (State.FwShape.of_queueShape (s.queueShape_delist c)).trans (State.fwShape_modStream _ _ _)
    · split
      · exact s.fwShape_modStream _ _
      · exact .refl s

theorem State.lossKept_tellLoss (s : State) : s.LossKept s.tellLoss := by
  unfold State.tellLoss
  split
  · split <;> exact ⟨rfl, rfl, rfl⟩
  · exact .refl s

/-- A loss counts itself and the adds that the peer has not covered. -/
theorem State.losePeer_cnt (s : State) (reason : Nat) : (s.losePeer reason).link.cnt = ((s.link.bump 14 1).bump 10 s.link.unackedAdds).cnt := by
  have hrest : ∀ u : State, u.LossKept (({ u.holdStrays with link := { u.holdStrays.link with lossNews := some (u.holdStrays.link.stateWord reason) } } : State)).tellLoss :=
    fun u => (State.LossKept.trans (.of_fwShape u.fwShape_holdStrays)
      (t := u.holdStrays) (u := { u.holdStrays with link := { u.holdStrays.link with lossNews := some (u.holdStrays.link.stateWord reason) } }) ⟨rfl, rfl, rfl⟩).trans
      (State.lossKept_tellLoss _)
  have hstops : ∀ (l : List Nat) (u : State), u.LossKept (l.foldl (fun s p => s.stopLane p (.halt .peer)) u) :=
    fun l u => .foldl (fun s p => .of_fwShape (s.fwShape_modLane p _)) l u
  have h : (({ s with link := { s.link with st := 4, loss := reason } }.linkBump 14 1).linkBump 10 s.link.unackedAdds : State).LossKept (s.losePeer reason) := by
    unfold State.losePeer
    dsimp only
    generalize (({ s with link := { s.link with st := 4, loss := reason } }.linkBump 14 1).linkBump 10 s.link.unackedAdds : State) = u
    exact (u.lossKept_evictions.trans (hstops _ _)).trans (hrest _)
  exact h.1

/-! ### Frames that pass the checks (Table LINK-4) -/

/-- A frame that passes gives its own parts, and is no shorter than a header. -/
theorem State.screen_passes {s : State} {f : Frame} {full : Bool} {hd : RxHead} (h : s.screen f full = .inr hd) :
    hd = RxHead.of (untag f.bytes) ∧ hd.type < 8 := by
  unfold State.screen at h
  dsimp only at h
  split at h
  · exact nomatch h
  · split at h
    · exact nomatch h
    · split at h
      · exact nomatch h
      · split at h
        · exact nomatch h
        next hok =>
          split at h
          · exact nomatch h
          · obtain rfl := Sum.inr.inj h
            refine ⟨rfl, ?_⟩
            simp only [Link.headerOk, Bool.not_eq_true', Bool.not_eq_false, Bool.and_eq_true, decide_eq_true_eq] at hok
            omega

/-- What a frame that passes does in its row. -/
theorem ingress_passes {s : State} {f : Frame} {hd : RxHead} (hp : s.passes f hd) {ty op : Nat} (hty : hd.type = ty)
    (hop : ty = 7 → bits (hd.word 0) 1 0 = op) : ingress ty op f false s = if !(s.link.up || decide (s.link.st = 1)) then s
      else if hd.type = 7 then s.takeTrain hd else if s.link.up then (s.takeUp hd).tallyBlock linkClass f.beats.length else s := by
  obtain ⟨hether, hscreen⟩ := hp
  obtain ⟨hhd, _⟩ := State.screen_passes hscreen
  have hother : (decide ((untag f.bytes).length ≥ 68) && decide (hd.type < 8) &&
      (decide (hd.type ≠ ty) || (decide (ty = 7) && decide (bits (hd.word 0) 1 0 < 3) && decide (bits (hd.word 0) 1 0 ≠ op)))) = false := by
    by_cases h7 : ty = 7
    · simp [hty, hop h7]
    · simp [hty, h7]
  unfold ingress
  dsimp only
  rw [← hhd, hother, hscreen, if_neg (by simp [hether])]

/-- A `TRAIN` frame that passes is taken in training and in a session. -/
theorem ingress_train {s : State} {f : Frame} {hd : RxHead} (hp : s.passes f hd) (ht : hd.type = 7) {op : Nat} (hop : bits (hd.word 0) 1 0 = op)
    (hl : s.link.up = true ∨ s.link.st = 1) : ingress 7 op f false s = s.takeTrain hd := by
  rw [ingress_passes hp ht fun _ => hop, if_neg (by rcases hl with h | h <;> simp [h]), if_pos ht]

theorem Link.up_of_training {l : Link} (h : l.st = 1) : l.up = false := by
  unfold Link.up
  rw [h]
  rfl

theorem Link.st_ne_of_up {l : Link} (h : l.up = true) : l.st ≠ 1 := fun h1 => by
  rw [Link.up_of_training h1] at h
  exact nomatch h

/-! ### Training (R280) -/

/-- A `HELLO` that does not echo this side's counter brings the peer's counter alone. -/
theorem State.helloTraining_unseen {s : State} {hd : RxHead} (h : hd.field 6 2 ≠ s.link.trains.toNat) :
    s.helloTraining hd = { s with link := (s.helloTraining hd).link } ∧ (s.helloTraining hd).link.peerCtr = BitVec.ofNat 16 (hd.field 4 2) ∧
    (s.helloTraining hd).link.st = s.link.st ∧ (s.helloTraining hd).link.helloBack = s.link.helloBack := by
  unfold State.helloTraining
  dsimp only
  rw [if_pos (by simp [h])]
  refine ⟨rfl, ?_, ?_, ?_⟩
  · dsimp only
    split
    next hpc => exact hpc.symm
    · rfl
  · dsimp only
    split <;> rfl
  · dsimp only
    split <;> rfl

/-- An intact probe of the peer's series counts. -/
theorem State.probeTraining_intact {s : State} {hd : RxHead} (hc : hd.field 4 2 = s.link.peerCtr.toNat) (hr : bitOn (hd.word 0) 8 = s.link.peerReduced)
    (hn : s.link.peerIntact < 255) (hp : hd.payload = probePayload) :
    s.probeTraining hd = { s with link := { s.link with peerIntact := s.link.peerIntact + 1 } } := by
  have hmin : min (s.link.peerIntact + 1) 256 = s.link.peerIntact + 1 := by omega
  have h256 : ¬s.link.peerIntact + 1 = 256 := by omega
  have hred : ({ s with link := { s.link with peerReduced := s.link.peerReduced, peerIntact := s.link.peerIntact + 1 } } : State) =
      { s with link := { s.link with peerIntact := s.link.peerIntact + 1 } } := rfl
  unfold State.probeTraining
  rw [hp]
  generalize probePayload = pay
  dsimp only
  rw [if_neg (by rw [hc]; exact fun h => h rfl), hr, if_pos rfl, if_pos rfl, hmin, hred]
  unfold State.tryOpen
  rw [if_neg (by simp [h256])]

/-! ### Retries and frames that close (R273, R278) -/

/-- The retry timer resends what the peer has not received. -/
theorem State.resend_effect (s : State) : s.resend = { s with link := s.resend.link } ∧ s.resend.link.expiries = s.link.expiries ∧
    s.resend.link.st = s.link.st ∧ s.resend.link.retry = s.link.retry ∧ s.resend.link.seq = s.link.seq ∧
    ∀ n ∈ s.link.unreceived, TxItem.seq n true ∈ s.resend.link.txQ ∨ TxItem.seq n false ∈ s.resend.link.txQ := by
  refine ⟨rfl, rfl, rfl, rfl, rfl, fun n hn => ?_⟩
  have hmem : TxItem.seq n (!s.link.txQ.contains (.seq n false)) ∈ s.resend.link.txQ :=
    List.mem_append_right _ (List.mem_map.mpr ⟨n, hn, rfl⟩)
  cases h : s.link.txQ.contains (.seq n false)
  · rw [h] at hmem; exact .inl hmem
  · rw [h] at hmem; exact .inr hmem

/-- An open frame that the window lets through takes the next number. -/
theorem State.closeWrite_sends {s : State} {o : OpenWrite} (hup : s.link.up = true) (ho : s.link.open_ = some o) (hq : s.link.waitQ = [])
    (hw : s.link.window = true) (hf : s.link.flawCell = false) :
    s.closeWrite = ({ s with link := { s.link with open_ := none, waitQ := [] } } : State).sendSeq o.frame := by
  unfold State.closeWrite
  rw [ho]
  dsimp only
  rw [hq, List.nil_append]
  unfold State.pump
  dsimp only [List.length_cons, List.length_nil]
  unfold State.pumpN
  dsimp only
  rw [if_pos (by
    have h1 : ({ s.link with open_ := none, waitQ := [o.frame] } : Link).window = true := hw
    have h2 : ({ s.link with open_ := none, waitQ := [o.frame] } : Link).up = true := hup
    rw [h1, h2]; rfl), if_neg (by rw [hf]; exact Bool.false_ne_true)]
  rfl

/-- A frame that closes takes the next number and a slot of the retry buffer. -/
theorem State.closeWrite_effect {s : State} {o : OpenWrite} (hup : s.link.up = true) (ho : s.link.open_ = some o) (hq : s.link.waitQ = [])
    (hw : s.link.window = true) (hf : s.link.flawCell = false) : s.closeWrite = { s with link := s.closeWrite.link } ∧
    s.closeWrite.link.open_ = none ∧ s.closeWrite.link.waitQ = [] ∧ s.closeWrite.link.seq = s.link.seq + 1 ∧
    s.closeWrite.link.txQ = s.link.txQ ++ [.seq s.link.seq.toNat false] ∧ ∃ g : TxFrame, Tbl.find s.closeWrite.link.retry s.link.seq.toNat = some g ∧
      g.type = 1 ∧ g.tag = o.tag ∧ g.payload = o.cells.flatten ∧ g.poison = o.poison := by
  rw [State.closeWrite_sends hup ho hq hw hf]
  exact ⟨rfl, rfl, rfl, rfl, rfl, o.frame, Tbl.find_put_same _ _ _, rfl, rfl, rfl, rfl⟩

/-! ### The end of a training and of a session (R281, Table LINK-8) -/

theorem Ctl.reply_hand (c : Ctl) (r : Reply) (t k : BitVec 16) (w : Waiting) : (c.reply r).hand ≠ some (.waiting t k w) := by
  unfold Ctl.reply
  split
  · exact fun h => nomatch h
  · exact fun h => nomatch h

/-- A command that waited waits no more once its reply is made. -/
theorem State.finishHand_effect (s : State) (status : Nat) (payload : List Nat) : s.finishHand status payload = { s with ctl := (s.finishHand status payload).ctl } ∧
    ∀ t c w, s.ctl.hand = some (.waiting t c w) → (s.finishHand status payload).ctl.hand ≠ s.ctl.hand := by
  unfold State.finishHand
  split
  · refine ⟨rfl, fun t c w h => ?_⟩
    rw [h]
    exact Ctl.reply_hand _ _ _ _ _
  next hno => exact ⟨rfl, fun t c w h => absurd h (hno t c w)⟩

/-- A training that has not finished in time. -/
def State.failTraining (s : State) : State :=
  { s.freeBuffer with link := { s.freeBuffer.link with st := 0 } }

theorem exec_linkTrainTimeout {s : State} (hs : s.works) (h : s.link.st = 1) : ∃ u : State, exec .linkTrainTimeout s = .next u ∧ u.link.st = 0 ∧
    u.link.buf = none ∧ u.plate = s.plate ∧ u.lanes = s.lanes ∧ ∀ t c, s.ctl.hand = some (.waiting t c .linkUp) → u.ctl.hand ≠ s.ctl.hand := by
  have hexec : exec .linkTrainTimeout s = .next (s.keep _) := (running_works _ hs : execLinkTrainTimeout s = _)
  rw [if_neg (fun hn => hn h)] at hexec
  have hframe : s.failTraining = { s with fw := s.failTraining.fw, link := s.failTraining.link } := by
    unfold State.failTraining
    rw [State.freeBuffer_frame]
  have hbuf : s.failTraining.link.buf = none := s.freeBuffer_buf
  have hst : s.failTraining.link.st = 0 := rfl
  have hfail : exec .linkTrainTimeout s = .next (s.keep ((match s.failTraining.ctl.hand with
      | some (.waiting _ _ .linkUp) => s.failTraining.finishHand 8 []
      | _ => s.failTraining).linkStateReply 0)) := hexec
  generalize s.failTraining = v at hframe hbuf hst hfail
  obtain ⟨hfin, hhand⟩ := v.finishHand_effect 8 []
  have hvhand : v.ctl.hand = s.ctl.hand := by rw [hframe]
  split at hfail
  next t c hw =>
    refine ⟨_, hfail, ?_, ?_, ?_, ?_, fun t' c' _ => ?_⟩
    · show (v.finishHand 8 []).link.st = 0
      rw [hfin]; exact hst
    · show (v.finishHand 8 []).link.buf = none
      rw [hfin]; exact hbuf
    · show (v.finishHand 8 []).plate = s.plate
      rw [hfin, hframe]
    · show (v.finishHand 8 []).lanes = s.lanes
      rw [hfin, hframe]
    · show (v.finishHand 8 []).ctl.hand ≠ s.ctl.hand
      rw [← hvhand]
      exact hhand _ _ _ hw
  next hno =>
    refine ⟨_, hfail, hst, hbuf, ?_, ?_, fun t c hw => absurd (hvhand.trans hw) (hno t c)⟩
    · show v.plate = s.plate
      rw [hframe]
    · show v.lanes = s.lanes
      rw [hframe]

/-- A session that ends is down, its buffer released; the command in hand, the Plates and the time stand. -/
theorem State.closeLink_effect (s : State) : s.closeLink.link.st = 0 ∧ s.closeLink.link.buf = none ∧ s.closeLink.ctl.hand = s.ctl.hand ∧
    s.closeLink.plate = s.plate ∧ s.closeLink.time = s.time := by
  have hbye : ∃ v : State, (if s.link.up then ((s.sendTrain 2).sendTrain 2).sendTrain 2 else s) = v ∧ v.ctl = s.ctl ∧ v.plate = s.plate ∧ v.time = s.time := by
    refine ⟨_, rfl, ?_⟩
    split
    · simp only [State.sendTrain, and_self]
    · exact ⟨rfl, rfl, rfl⟩
  obtain ⟨v, hv, hctl, hplate, htime⟩ := hbye
  have hevict : ∃ w : State, (if (v.linkBump 10 v.link.unackedAdds).link.up then (v.linkBump 10 v.link.unackedAdds).evictPeers.dropAccesses
      else v.linkBump 10 v.link.unackedAdds) = w ∧ w.ctl.hand = s.ctl.hand ∧ w.plate = s.plate ∧ w.time = s.time := by
    refine ⟨_, rfl, ?_⟩
    split
    · have h1 := (v.linkBump 10 v.link.unackedAdds).lossKept_evictions
      have h2 : (v.linkBump 10 v.link.unackedAdds).ClockKept (v.linkBump 10 v.link.unackedAdds).evictPeers.dropAccesses :=
        State.ClockKept.trans (.foldl (fun s (e : Nat × Nat) => s.clockKept_evictPeer e.1 e.2) _ _) (State.clockKept_dropAccesses _)
      exact ⟨h1.2.2.trans (congrArg Ctl.hand hctl), h2.2.1.trans hplate, h2.1.trans htime⟩
    · exact ⟨congrArg Ctl.hand hctl, hplate, htime⟩
  obtain ⟨w, hw, hhand, hwp, hwt⟩ := hevict
  have hclose : s.closeLink = { w.freeBuffer with link := { w.freeBuffer.link with st := 0 } } := by
    unfold State.closeLink
    rw [hv]
    dsimp only
    rw [hw]
  have hfr := w.freeBuffer_frame
  rw [hclose]
  refine ⟨rfl, w.freeBuffer_buf, ?_, ?_, ?_⟩
  · show w.freeBuffer.ctl.hand = s.ctl.hand
    rw [w.freeBuffer_ctl]; exact hhand
  · show w.freeBuffer.plate = s.plate
    rw [hfr]; exact hwp
  · show w.freeBuffer.time = s.time
    rw [hfr]; exact hwt

theorem exec_linkDownDrained {s : State} (hs : s.works) (h : HostView) {t c : BitVec 16} (hh : s.ctl.hand = some (.waiting t c .linkDown)) :
    ∃ u : State, exec (.linkDownDrained h) s = .next u ∧ u.link.st = 0 ∧ u.link.buf = none ∧ u.ctl.hand ≠ s.ctl.hand ∧ u.plate = s.plate ∧
      u.time = s.time := by
  have hexec : exec (.linkDownDrained h) s = _ := (running_works _ hs : execLinkDownDrained h s = _)
  have hdrain : linkDownDrained h s = (s.closeLink.finishHand 0 []).linkStateReply 0 := by
    unfold linkDownDrained
    rw [hh]
  rw [hdrain] at hexec
  obtain ⟨h1, h2, h3, h4, h5⟩ := s.closeLink_effect
  generalize s.closeLink = v at h1 h2 h3 h4 h5 hexec
  obtain ⟨hfin, hhand⟩ := v.finishHand_effect 0 []
  refine ⟨_, hexec, ?_, ?_, ?_, ?_, ?_⟩
  · show (v.finishHand 0 []).link.st = 0
    rw [hfin]; exact h1
  · show (v.finishHand 0 []).link.buf = none
    rw [hfin]; exact h2
  · show (v.finishHand 0 []).ctl.hand ≠ s.ctl.hand
    rw [← h3]
    exact hhand _ _ _ (h3.trans hh)
  · show (v.finishHand 0 []).plate = s.plate
    rw [hfin]; exact h4
  · show (v.finishHand 0 []).time = s.time
    rw [hfin]; exact h5

/-- The state in which an expiry of the retry timer is counted. -/
def State.expired (s : State) : State := ({ s with link := { s.link with expiries := s.link.expiries + 1 } } : State).linkBump 2 1

/-- The eighth expiry in a row loses the peer; an earlier one brings the resend (R273, R282). -/
theorem exec_retryTimerExpiry {s : State} (hs : s.works) (hup : s.link.up = true) (hso : s.link.sentOpen = true) :
    exec .retryTimerExpiry s = .next (s.keep (if 8 ≤ s.link.expiries + 1 then s.expired.losePeer 3 else s.expired.resend)) := by
  show execRetryTimerExpiry s = _
  unfold execRetryTimerExpiry
  rw [running_works _ hs, hup, hso]
  rfl

/-- An expiry before the eighth changes only the link: it is counted, and every frame not received waits to be sent (R273). -/
theorem exec_retryTimerExpiry_early {s : State} (hs : s.works) (hup : s.link.up = true) (hso : s.link.sentOpen = true) (h7 : s.link.expiries < 7) :
    ∃ u : State, exec .retryTimerExpiry s = .next u ∧ u = { s with link := u.link } ∧
      u.link.expiries = s.link.expiries + 1 ∧ u.link.st = s.link.st ∧ u.link.retry = s.link.retry ∧ u.link.seq = s.link.seq ∧
      ∀ n ∈ s.link.unreceived, TxItem.seq n true ∈ u.link.txQ ∨ TxItem.seq n false ∈ u.link.txQ := by
  have hexp : ¬8 ≤ s.link.expiries + 1 := by omega
  have hretry := exec_retryTimerExpiry hs hup hso
  rw [if_neg hexp] at hretry
  obtain ⟨h1, h2, h3, h4, h5, h6⟩ := s.expired.resend_effect
  have hkeep : s.keep s.expired.resend = { s with link := s.expired.resend.link } := by
    rw [h1]
    rfl
  rw [hkeep] at hretry
  exact ⟨_, hretry, rfl, h2, h3, h4, h5, h6⟩

/-- A loss holds the link `LOST` with its reason, and counts itself and the adds not covered (R283). -/
theorem State.losePeer_state (s v : State) (r : Nat) : (s.keep (v.losePeer r)).link.st = 4 ∧ (s.keep (v.losePeer r)).link.loss = r ∧
    (s.keep (v.losePeer r)).link.cnt = ((v.link.bump 14 1).bump 10 v.link.unackedAdds).cnt := by
  obtain ⟨_, _, _, _, h1, h2⟩ := v.losePeer_effect r
  rw [State.keep_link]
  exact ⟨h1, h2, v.losePeer_cnt r⟩

/-! ### The `TRAIN` frames (R280, Table LINK-10) -/

section
variable {s : State} {f : Frame} {hd : RxHead} (hs : s.works) (hp : s.passes f hd) (ht : hd.type = 7)
include hs hp ht

/-- A `HELLO` of the peer goes to the training or to the watch over its counter. -/
theorem exec_trainHelloFrame (hop : bits (hd.word 0) 1 0 = 0) (hl : s.link.up = true ∨ s.link.st = 1) : exec (.trainHelloFrame f false) s =
    .next (s.keep (if s.link.st = 1 then s.helloTraining hd else if hd.field 4 2 ≠ s.link.peerCtr.toNat then s.losePeer 4 else s)) := by
  have hexec : exec (.trainHelloFrame f false) s = .next (s.keep (ingress 7 0 f false s)) := (running_works _ hs : execTrainHelloFrame f false s = _)
  rw [hexec, ingress_train hp ht hop hl]
  unfold State.takeTrain
  simp only [hop]

theorem exec_probeFrame (hop : bits (hd.word 0) 1 0 = 1) (hst : s.link.st = 1) :
    exec (.probeFrame f false) s = .next (s.keep (s.probeTraining hd)) := by
  have hexec : exec (.probeFrame f false) s = .next (s.keep (ingress 7 1 f false s)) := (running_works _ hs : execProbeFrame f false s = _)
  rw [hexec, ingress_train hp ht hop (.inr hst)]
  unfold State.takeTrain
  simp only [hop, hst, if_true]

theorem exec_byeFrame (hop : bits (hd.word 0) 1 0 = 2) (hl : s.link.up = true ∨ s.link.st = 1) :
    exec (.byeFrame f false) s = .next (s.keep (if s.link.up then s.losePeer 5 else s)) := by
  have hexec : exec (.byeFrame f false) s = .next (s.keep (ingress 7 2 f false s)) := (running_works _ hs : execByeFrame f false s = _)
  rw [hexec, ingress_train hp ht hop hl]
  unfold State.takeTrain
  simp only [hop]

end

/-- Settles O59: the `TRAIN` frames, the timers and the ends of a session, each by its effect above. -/
theorem linkSession : Obligations.LinkSession := by
  unfold Obligations.LinkSession
  intro s f hd h hs
  have hack : exec .ackTimer s = .next (s.keep _) := (running_works _ hs : execAckTimer s = _)
  have hclose : exec .frameCloseTimer s = .next (s.keep _) := (running_works _ hs : execFrameCloseTimer s = _)
  have htrain : exec .trainHelloTimer s = .next (s.keep _) := (running_works _ hs : execTrainHelloTimer s = _)
  have hstatus : exec .linkStatusTimer s = .next (s.keep _) := (running_works _ hs : execLinkStatusTimer s = _)
  have hidle : exec .linkIdleTimer s = .next (s.keep _) := (running_works _ hs : execLinkIdleTimer s = _)
  refine ⟨fun hp ht => ⟨fun hop hst hseen => ?_, fun hop hup hc => ?_, fun hop hup hc => ?_, fun hop hst hc hr hn hpay => ?_, fun hop hup => ?_,
    fun hop hst => ?_⟩, fun hup hso => ?_, fun hup hso => ⟨fun h7 => ?_, exec_retryTimerExpiry_early hs hup hso⟩, fun hup => ?_, fun hup ho => ?_,
    fun o hup ho hq hw hfl => ?_, fun hst => ?_, fun hst => ⟨?_, ?_⟩, exec_linkTrainTimeout hs, fun hup hpin => ?_, fun hno => ?_,
    fun t c hh => exec_linkDownDrained hs h hh, fun hh => ?_, fun hup => ?_, fun hup => ⟨?_, ?_, ?_, ?_⟩⟩
  case refine_1 =>
    have hhello := exec_trainHelloFrame hs hp ht hop (.inr hst)
    rw [if_pos hst] at hhello
    obtain ⟨h1, h2, h3, h4⟩ := State.helloTraining_unseen hseen
    have hkeep : s.keep (s.helloTraining hd) = s.helloTraining hd := by rw [h1]; rfl
    exact ⟨_, hhello.trans (congrArg _ hkeep), h1, h2, h3.trans hst, h4⟩
  case refine_2 =>
    rw [exec_trainHelloFrame hs hp ht hop (.inl hup), if_neg (Link.st_ne_of_up hup), if_neg fun hne => hne hc]
    rfl
  case refine_3 =>
    have hhello := exec_trainHelloFrame hs hp ht hop (.inl hup)
    rw [if_neg (Link.st_ne_of_up hup), if_pos hc] at hhello
    obtain ⟨h1, h2, _⟩ := s.losePeer_state s 4
    exact ⟨_, hhello, h1, h2⟩
  case refine_4 =>
    rw [exec_probeFrame hs hp ht hop hst, State.probeTraining_intact hc hr hn hpay]
    rfl
  case refine_5 =>
    have hbye := exec_byeFrame hs hp ht hop (.inl hup)
    rw [if_pos hup] at hbye
    exact ⟨_, hbye, s.losePeer_state s 5⟩
  case refine_6 =>
    rw [exec_byeFrame hs hp ht hop (.inr hst), if_neg (by rw [Link.up_of_training hst]; exact Bool.false_ne_true)]
    rfl
  case refine_7 =>
    show execRetryTimerExpiry s = _
    unfold execRetryTimerExpiry
    rw [running_works _ hs, hup, hso]
    rfl
  case refine_8 =>
    have hretry := exec_retryTimerExpiry hs hup hso
    rw [if_pos (by omega)] at hretry
    obtain ⟨h1, h2, _⟩ := s.losePeer_state _ 3
    exact ⟨_, hretry, h1, h2⟩
  case refine_9 => rw [hack, if_pos hup]; rfl
  case refine_10 =>
    rw [hclose, if_pos hup]
    unfold State.closeWrite
    rw [ho]
    rfl
  case refine_11 =>
    obtain ⟨h1, hrest⟩ := State.closeWrite_effect hup ho hq hw hfl
    rw [if_pos hup] at hclose
    have hkeep : s.keep s.closeWrite = s.closeWrite := by rw [h1]; rfl
    exact ⟨_, hclose.trans (congrArg _ hkeep), h1, hrest⟩
  case refine_12 => rw [htrain, if_pos hst]; rfl
  case refine_13 => rw [htrain, if_neg hst]; rfl
  case refine_14 =>
    show execLinkTrainTimeout s = _
    unfold execLinkTrainTimeout
    rw [running_works _ hs, if_pos hst]
    rfl
  case refine_15 =>
    rw [hup, hpin, Bool.not_false, Bool.true_and, if_pos rfl] at hstatus
    obtain ⟨h1, h2, _⟩ := s.losePeer_state s 1
    exact ⟨_, hstatus, h1, h2⟩
  case refine_16 =>
    rw [hstatus, if_neg (by rcases hno with h | h <;> simp [h])]
    rfl
  case refine_17 =>
    show execLinkDownDrained h s = _
    unfold execLinkDownDrained
    rw [running_works _ hs]
    unfold linkDownDrained
    rw [hh]
    rfl
  case refine_18 =>
    rw [if_pos hup] at hidle
    obtain ⟨h1, h2, _⟩ := s.losePeer_state s 2
    exact ⟨_, hidle, h1, h2⟩
  case refine_19 =>
    show execRetryTimerExpiry s = _
    unfold execRetryTimerExpiry
    rw [running_works _ hs, hup]
    rfl
  case refine_20 => rw [hack, hup]; rfl
  case refine_21 => rw [hclose, hup]; rfl
  case refine_22 => rw [hidle, hup]; rfl

end Sys2Proof.Machine
end

section
/-! SUPPORT. What the service of accepted frames and of acknowledgements leaves: the session's numbers and the Plates (R271-R273). -/
namespace Sys2Proof.Machine

/-- The numbers of the session that the peer's frames carry, and the Plates, are those of `s`. -/
def State.AcksKept (s t : State) : Prop := t.link.peerRcv = s.link.peerRcv ∧ t.link.peerCmp = s.link.peerCmp ∧ t.link.rcv = s.link.rcv ∧
  t.link.nakFor = s.link.nakFor ∧ t.plate = s.plate

theorem State.AcksKept.refl (s : State) : s.AcksKept s := ⟨rfl, rfl, rfl, rfl, rfl⟩

theorem State.AcksKept.trans {s t u : State} (h : s.AcksKept t) (k : t.AcksKept u) : s.AcksKept u := by
  obtain ⟨h1, h2, h3, h4, h5⟩ := h
  obtain ⟨k1, k2, k3, k4, k5⟩ := k
  exact ⟨k1.trans h1, k2.trans h2, k3.trans h3, k4.trans h4, k5.trans h5⟩

theorem State.AcksKept.foldl {α : Type} {f : State → α → State} (hf : ∀ (s : State) a, s.AcksKept (f s a)) (l : List α) (s : State) :
    s.AcksKept (l.foldl f s) :=
  foldl_keeps (fun u => s.AcksKept u) f (fun u a hu => hu.trans (hf u a)) l s (.refl s)

theorem State.AcksKept.of_link {s t : State} (h : t.link = s.link) (k : t.plate = s.plate) : s.AcksKept t := by
  unfold State.AcksKept
  rw [h, k]
  exact ⟨rfl, rfl, rfl, rfl, rfl⟩

theorem State.AcksKept.of_fwShape {s t : State} (h : s.FwShape t) : s.AcksKept t := by
  obtain ⟨h, _⟩ := h
  exact .of_link (by rw [h]) (by rw [h])

theorem State.AcksKept.of_requests {s t : State} (h : s.RequestsOnly t) : s.AcksKept t := by
  obtain ⟨h, _⟩ := h
  exact .of_link (by rw [h]) (by rw [h])

theorem State.acksKept_modXfer (s : State) (c id : Nat) (f : Transfer → Transfer) : s.AcksKept (s.modXfer c id f) :=
  .of_fwShape (s.fwShape_modStream c _)

theorem State.acksKept_modRx (s : State) (uid : Nat) (f : RxFrame → RxFrame) : s.AcksKept (s.modRx uid f) := ⟨rfl, rfl, rfl, rfl, rfl⟩

/-! ### Faults and frames of this side -/

theorem Link.cutFrame_acks (l : Link) : l.cutFrame.peerRcv = l.peerRcv ∧ l.cutFrame.peerCmp = l.peerCmp ∧ l.cutFrame.rcv = l.rcv ∧
    l.cutFrame.nakFor = l.nakFor := by
  unfold Link.cutFrame
  split
  · exact ⟨rfl, rfl, rfl, rfl⟩
  · split <;> exact ⟨rfl, rfl, rfl, rfl⟩

theorem State.acksKept_enterSafe (s : State) : s.AcksKept s.enterSafe := by
  unfold State.AcksKept
  rw [State.enterSafe_link, State.enterSafe_plate]
  split
  · exact ⟨rfl, rfl, rfl, rfl, rfl⟩
  · obtain ⟨h1, h2, h3, h4⟩ := s.link.cutFrame_acks
    exact ⟨h1, h2, h3, h4, rfl⟩

theorem State.acksKept_raise (s : State) (b : Burgee) : s.AcksKept (s.raise b) := by
  unfold State.raise
  dsimp only
  split
  · exact State.AcksKept.trans (t := { s with flt := (s.flt.enter b).note b }) (.of_link rfl rfl) (State.acksKept_enterSafe _)
  · exact .of_link rfl rfl

theorem State.acksKept_withhold (s : State) (f : TxFrame) : s.AcksKept (s.withhold f) := by
  unfold State.withhold
  dsimp only
  refine State.AcksKept.trans ?_ (.foldl (fun s (o : FrameOwner) => s.acksKept_modXfer _ _ _) _ _)
  refine State.AcksKept.trans ?_ (State.acksKept_raise _ _)
  exact ⟨rfl, rfl, rfl, rfl, rfl⟩

theorem State.acksKept_sendSeq (s : State) (f : TxFrame) : s.AcksKept (s.sendSeq f) := ⟨rfl, rfl, rfl, rfl, rfl⟩

theorem State.acksKept_pumpN (n : Nat) : ∀ s : State, s.AcksKept (s.pumpN n) := by
  induction n with
  | zero => exact State.AcksKept.refl
  | succ n ih =>
    intro s
    unfold State.pumpN
    split
    · exact .refl s
    next f rest _ =>
      split
      · dsimp only
        refine State.AcksKept.trans ?_ (ih _)
        refine State.AcksKept.trans (t := { s with link := { s.link with waitQ := rest } }) ⟨rfl, rfl, rfl, rfl, rfl⟩ ?_
        split
        · exact State.acksKept_withhold _ f
        · exact State.acksKept_sendSeq _ f
      · exact .refl s

theorem State.acksKept_closeWrite (s : State) : s.AcksKept s.closeWrite := by
  unfold State.closeWrite
  split
  · exact .refl s
  · refine State.AcksKept.trans ?_ (State.acksKept_pumpN _ _)
    exact ⟨rfl, rfl, rfl, rfl, rfl⟩

theorem State.acksKept_egress (s : State) (f : TxFrame) : s.AcksKept (s.egress f) := by
  have hclose : s.AcksKept (if f.type = 5 ∨ f.type = 2 then s.closeWrite else s) := by
    split
    · exact s.acksKept_closeWrite
    · exact .refl s
  unfold State.egress
  dsimp only
  generalize (if f.type = 5 ∨ f.type = 2 then s.closeWrite else s) = u at hclose ⊢
  refine hclose.trans (State.AcksKept.trans ?_ (State.acksKept_pumpN _ _))
  exact ⟨rfl, rfl, rfl, rfl, rfl⟩

theorem State.acksKept_relayAdd (s : State) (i a : Nat) : s.AcksKept (s.relayAdd i a) := by
  unfold State.relayAdd
  split
  · exact s.acksKept_egress _
  · exact ⟨rfl, rfl, rfl, rfl, rfl⟩

theorem State.acksKept_halAdd (s : State) (i a : Nat) (b : Bool) : s.AcksKept (s.halAdd i a b) := by
  have hcheck : s.AcksKept (s.halCheck i) := by
    unfold State.halCheck
    split
    · exact .refl s
    · exact State.AcksKept.trans (.of_link rfl rfl) (State.acksKept_raise { s with hal := { s.hal with upset := Tbl.drop i s.hal.upset } } _)
    · exact State.AcksKept.trans (.of_link rfl rfl) (State.acksKept_raise
        { s with hal := { s.hal with upset := Tbl.drop i s.hal.upset, unusable := Tbl.put i true s.hal.unusable } } _)
  unfold State.halAdd
  dsimp only
  generalize s.halCheck i = t at hcheck ⊢
  refine hcheck.trans ?_
  split
  · exact .of_link rfl rfl
  · split
    · exact State.AcksKept.trans (.of_link rfl rfl) (State.acksKept_relayAdd (t.setHword i ((t.hword i).add a)).armSkew _ _)
    · exact .of_link rfl rfl

/-! ### The requests and the replies of an accepted frame -/

theorem State.requestsOnly_newRead {s v : State} {q : Nat} {x : ReadPart} (h : s.newRead q x = some v) : s.RequestsOnly v := by
  unfold State.newRead at h
  split at h
  · obtain rfl := Option.some.inj h
    exact s.requestsOnly_modPort q rfl
  · split at h
    · obtain rfl := Option.some.inj h
      exact s.requestsOnly_modPort q rfl
    · exact nomatch h

/-- A read that continues no other is a request of its own. -/
theorem State.issueRead_rx (s : State) (uid addr idx n a k : Nat) :
    s.issueRead (.rxRead uid addr idx n) a k = s.newRead (s.portFor a) ⟨.rxRead uid addr idx n, a, k⟩ := rfl

/-- A write of the peer's frame continues no other. -/
theorem State.issueWrite_rx (s : State) (uid a : Nat) (data : List Byte) (be : BitVec 64) (poison : Bool) (chk : Nat) :
    s.issueWrite (.rxWrite uid) a data be poison chk = s.newWrite (s.portFor a)
      ⟨.rxWrite uid, a, (List.range 64).map fun i => if be.getLsbD i then nth 0 data i else 0, be, poison, chk⟩ := rfl

theorem State.acksKept_issueRxWrites (uid : Nat) (poison : Bool) : ∀ (l : List (Nat × List Byte × BitVec 64)) (s : State),
    s.AcksKept (State.issueRxWrites uid poison l s)
  | [], s => .refl s
  | w :: l, s => by
    unfold State.issueRxWrites
    split
    next t ht =>
      split at ht
      · exact nomatch ht
      · exact (State.AcksKept.of_requests (State.requestsOnly_issueWrite ht)).trans
          ((t.acksKept_modRx _ _).trans (State.acksKept_issueRxWrites uid poison l _))
    · exact .refl s

theorem State.acksKept_issueRxReads (uid : Nat) : ∀ (l : List (Nat × Nat × Nat)) (s : State), s.AcksKept (State.issueRxReads uid l s)
  | [], s => .refl s
  | d :: l, s => by
    unfold State.issueRxReads
    split
    next t ht =>
      rw [State.issueRead_rx] at ht
      exact (State.AcksKept.of_requests (State.requestsOnly_newRead ht)).trans
        ((t.acksKept_modRx _ _).trans (State.acksKept_issueRxReads uid l _))
    · exact .refl s

theorem State.acksKept_rxHadd (s : State) (r : RxFrame) : s.AcksKept (s.rxHadd r) := by
  unfold State.rxHadd
  split
  · exact s.acksKept_halAdd _ _ _
  · exact ⟨rfl, rfl, rfl, rfl, rfl⟩

/-- The requests that an accepted frame still has to issue are issued as far as they go. -/
def State.startRx (s : State) (earlier : List RxFrame) (uid : Nat) : State :=
  match s.rxOf uid with
  | some r => if r.type = 3 then (if earlier.all fun r => r.type ≠ 3 || r.done then State.issueRxReads uid r.todoR s else s)
      else State.issueRxWrites uid r.poison r.todoW s
  | none => s

/-- An accepted frame whose requests have all been answered takes effect. -/
def State.finishRx (s : State) (earlier : List RxFrame) (uid : Nat) : State :=
  match s.rxOf uid with
  | none => s
  | some r =>
    if r.done || !r.idle then s
    else match r.type with
    | 3 => if earlier.all fun r => r.type ≠ 3 || r.done then (s.modRx uid fun r => { r with done := true }).egress r.reply else s
    | 5 => if earlier.all RxFrame.idle then (s.modRx uid fun r => { r with done := true }).rxHadd r else s
    | _ =>
      let s := s.modRx uid fun r => { r with done := true }
      if r.err ≠ 0 && s.link.up then s.egress r.report else s

theorem State.serveRx_parts (s : State) (earlier : List RxFrame) (uid : Nat) : s.serveRx earlier uid = (s.startRx earlier uid).finishRx earlier uid := rfl

theorem State.acksKept_startRx (s : State) (earlier : List RxFrame) (uid : Nat) : s.AcksKept (s.startRx earlier uid) := by
  unfold State.startRx
  split
  · split
    · split
      · exact State.acksKept_issueRxReads _ _ s
      · exact .refl s
    · exact State.acksKept_issueRxWrites _ _ _ s
  · exact .refl s

theorem State.acksKept_finishRx (s : State) (earlier : List RxFrame) (uid : Nat) : s.AcksKept (s.finishRx earlier uid) := by
  have hdone := s.acksKept_modRx uid fun r => { r with done := true }
  unfold State.finishRx
  generalize (s.modRx uid fun r => { r with done := true }) = t at hdone
  split
  · exact .refl s
  · split
    · exact .refl s
    · split
      · split
        · exact hdone.trans (t.acksKept_egress _)
        · exact .refl s
      · split
        · exact hdone.trans (t.acksKept_rxHadd _)
        · exact .refl s
      · dsimp only
        split
        · exact hdone.trans (t.acksKept_egress _)
        · exact hdone

theorem State.acksKept_serveRx (s : State) (earlier : List RxFrame) (uid : Nat) : s.AcksKept (s.serveRx earlier uid) := by
  rw [State.serveRx_parts]
  exact (s.acksKept_startRx earlier uid).trans (State.acksKept_finishRx _ _ _)

theorem State.acksKept_serveAll : ∀ (l seen : List Nat) (s : State), s.AcksKept (State.serveAll seen l s)
  | [], _, s => .refl s
  | u :: l, seen, s => (s.acksKept_serveRx (seen.filterMap s.rxOf) u).trans (State.acksKept_serveAll l _ _)

theorem Link.advanceCmp_acks : ∀ (rx : List RxFrame) (l : Link), (Link.advanceCmp rx l).peerRcv = l.peerRcv ∧ (Link.advanceCmp rx l).peerCmp = l.peerCmp ∧
    (Link.advanceCmp rx l).rcv = l.rcv ∧ (Link.advanceCmp rx l).nakFor = l.nakFor
  | [], l => ⟨rfl, rfl, rfl, rfl⟩
  | r :: rx, l => by
    unfold Link.advanceCmp
    split
    · split
      · exact Link.advanceCmp_acks rx l
      · exact Link.advanceCmp_acks rx l
    · split
      · exact Link.advanceCmp_acks rx { l with cmp := BitVec.ofNat 16 r.seq, ackDue := true }
      · exact ⟨rfl, rfl, rfl, rfl⟩

theorem State.acksKept_rxSettle (s : State) : s.AcksKept s.rxSettle := by
  have hserve := s.acksKept_serveAll (s.link.rx.map fun r => r.uid) []
  unfold State.rxSettle
  dsimp only
  generalize State.serveAll [] (s.link.rx.map fun r => r.uid) s = t at hserve ⊢
  obtain ⟨h1, h2, h3, h4⟩ := Link.advanceCmp_acks t.link.rx t.link
  exact hserve.trans ⟨h1, h2, h3, h4, rfl⟩

/-! ### Acknowledgements (R271, R273) -/

theorem State.acksKept_ownerDone (s : State) (o : FrameOwner) : s.AcksKept (s.ownerDone o) :=
  (s.acksKept_modXfer o.sctx o.xfer _).trans (.of_fwShape (State.fwShape_checkComplete _ _ _ _))

theorem State.acksKept_covered (s : State) (n : Nat) : s.AcksKept (s.covered n) :=
  State.AcksKept.trans (t := { s with link := { s.link with retry := Tbl.drop n s.link.retry } }) ⟨rfl, rfl, rfl, rfl, rfl⟩
    (.foldl State.acksKept_ownerDone _ _)

/-- The peer has received the frames up to `rcv`. -/
def State.takeRcv (s : State) (rcv : BitVec 16) : State :=
  if (rcv - s.link.peerRcv).toNat ≤ (s.link.seq - 1 - s.link.peerRcv).toNat ∧ rcv ≠ s.link.peerRcv then
    { s with link := { s.link with peerRcv := rcv, expiries := 0 } } else s

/-- The writes of the frames up to `cmp` have completed at the peer. -/
def State.takeCmp (s : State) (cmp : BitVec 16) : State :=
  if (cmp - s.link.peerCmp).toNat ≤ (s.link.peerRcv - s.link.peerCmp).toNat then
    (seqRange s.link.peerCmp cmp).foldl State.covered { s with link := { s.link with peerCmp := cmp } } else s

theorem State.useAcks_parts (s : State) (rcv cmp : BitVec 16) : s.useAcks rcv cmp = ((s.takeRcv rcv).takeCmp cmp).pump.rxSettle := rfl

theorem State.takeRcv_takes {s : State} {rcv : BitVec 16} (h : (rcv - s.link.peerRcv).toNat ≤ (s.link.seq - 1 - s.link.peerRcv).toNat) :
    (s.takeRcv rcv).link.peerRcv = rcv ∧ (s.takeRcv rcv).link.peerCmp = s.link.peerCmp ∧ (s.takeRcv rcv).link.rcv = s.link.rcv := by
  unfold State.takeRcv
  split
  · exact ⟨rfl, rfl, rfl⟩
  next hno => exact ⟨(not_not.mp fun hne => hno ⟨h, hne⟩ : rcv = s.link.peerRcv).symm, rfl, rfl⟩

theorem State.takeCmp_takes {s : State} {cmp : BitVec 16} (h : (cmp - s.link.peerCmp).toNat ≤ (s.link.peerRcv - s.link.peerCmp).toNat) :
    (s.takeCmp cmp).link.peerRcv = s.link.peerRcv ∧ (s.takeCmp cmp).link.peerCmp = cmp ∧ (s.takeCmp cmp).link.rcv = s.link.rcv := by
  unfold State.takeCmp
  rw [if_pos h]
  obtain ⟨h1, h2, h3, _⟩ := State.AcksKept.foldl State.acksKept_covered (seqRange s.link.peerCmp cmp) { s with link := { s.link with peerCmp := cmp } }
  exact ⟨h1, h2, h3⟩

/-- An acknowledgement that names frames sent moves the numbers of this side to those of the frame. -/
theorem State.useAcks_takes {s : State} {rcv cmp : BitVec 16} (hr : (rcv - s.link.peerRcv).toNat ≤ (s.link.seq - 1 - s.link.peerRcv).toNat)
    (hc : (cmp - s.link.peerCmp).toNat ≤ (rcv - s.link.peerCmp).toNat) : (s.useAcks rcv cmp).link.peerRcv = rcv ∧
    (s.useAcks rcv cmp).link.peerCmp = cmp ∧ (s.useAcks rcv cmp).link.rcv = s.link.rcv := by
  obtain ⟨h1, h2, h3⟩ := State.takeRcv_takes hr
  rw [State.useAcks_parts]
  generalize s.takeRcv rcv = t at h1 h2 h3 ⊢
  obtain ⟨k1, k2, k3⟩ := State.takeCmp_takes (s := t) (cmp := cmp) (by rw [h1, h2]; exact hc)
  generalize t.takeCmp cmp = u at k1 k2 k3 ⊢
  obtain ⟨j1, j2, j3, _⟩ := (u.acksKept_pumpN u.link.waitQ.length).trans (State.acksKept_rxSettle _)
  exact ⟨j1.trans (k1.trans h1), j2.trans k2, j3.trans (k3.trans h3)⟩

/-- With nothing of the peer waiting, numbers that are known change nothing. -/
theorem State.useAcks_known {s : State} (h : s.linkIdle) : s.useAcks s.link.peerRcv s.link.peerCmp = s := by
  obtain ⟨hrx, hwait, _⟩ := h
  have hrcv : s.takeRcv s.link.peerRcv = s := if_neg fun hn => hn.2 rfl
  have hrange : seqRange s.link.peerCmp s.link.peerCmp = [] := by simp [seqRange]
  have hcmp : s.takeCmp s.link.peerCmp = s := by
    unfold State.takeCmp
    rw [if_pos (by simp), hrange]
    rfl
  have hpump : s.pump = s := by unfold State.pump; rw [hwait]; rfl
  rw [State.useAcks_parts, hrcv, hcmp, hpump, State.rxSettle_empty hrx]

end Sys2Proof.Machine
end

section
/-! SUPPORT. What the next frame in sequence does when nothing else of the peer waits (R272, R274-R277, R230). -/
namespace Sys2Proof.Machine

/-! ### Requests that stand (R378) -/

/-- A tag that is given out is not in use. -/
theorem freeTagN_free {α β : Type} {t : Tbl α} {u : Tbl β} {j : Nat} : ∀ {n k : Nat}, freeTagN t u n k = some j → Tbl.find t j = none
  | 0, _, h => nomatch h
  | n + 1, k, h => by
    unfold freeTagN at h
    split at h
    next hfree =>
      obtain rfl := Option.some.inj h
      simp only [Bool.and_eq_true, Option.isNone_iff_eq_none] at hfree
      exact hfree.1
    · exact freeTagN_free h

/-- Every request of `s` that has a tag stands in `t`, and a frame that waits for a request still does. -/
def State.AsksKept (s t : State) : Prop :=
  (∀ q k w, Tbl.find (s.port q).writes k = some w → Tbl.find (t.port q).writes k = some w) ∧
  (∀ q k r, Tbl.find (s.port q).reads k = some r → Tbl.find (t.port q).reads k = some r) ∧
  ((∀ r ∈ s.link.rx, 0 < r.outstanding) → ∀ r ∈ t.link.rx, 0 < r.outstanding)

theorem State.AsksKept.refl (s : State) : s.AsksKept s := ⟨fun _ _ _ h => h, fun _ _ _ h => h, fun h => h⟩

theorem State.AsksKept.trans {s t u : State} (h : s.AsksKept t) (k : t.AsksKept u) : s.AsksKept u := by
  obtain ⟨h1, h2, h3⟩ := h
  obtain ⟨k1, k2, k3⟩ := k
  exact ⟨fun q i w hw => k1 q i w (h1 q i w hw), fun q i r hr => k2 q i r (h2 q i r hr), fun hr => k3 (h3 hr)⟩

/-- One more request of a frame is outstanding. -/
theorem State.asksKept_modRx (s : State) (uid : Nat) {f : RxFrame → RxFrame} (hf : ∀ r, (f r).outstanding = r.outstanding + 1) :
    s.AsksKept (s.modRx uid f) := by
  refine ⟨fun _ _ _ h => h, fun _ _ _ h => h, fun h r hr => ?_⟩
  obtain ⟨r0, hr0, rfl⟩ := List.mem_map.mp hr
  split
  · rw [hf]; omega
  · exact h r0 hr0

/-- A port that loses no request. -/
theorem State.asksKept_modPort (s : State) (q : Nat) {f : Port → Port}
    (hw : ∀ k w, Tbl.find (s.port q).writes k = some w → Tbl.find (f (s.port q)).writes k = some w)
    (hr : ∀ k r, Tbl.find (s.port q).reads k = some r → Tbl.find (f (s.port q)).reads k = some r) : s.AsksKept (s.modPort q f) := by
  refine ⟨fun q' k w h => ?_, fun q' k r h => ?_, fun h => h⟩ <;> by_cases hq : q' = q
  · subst hq; rw [State.port_modPort_same]; exact hw k w h
  · rw [State.port_modPort_other _ _ hq]; exact h
  · subst hq; rw [State.port_modPort_same]; exact hr k r h
  · rw [State.port_modPort_other _ _ hq]; exact h

/-- What is put under a free key hides nothing. -/
theorem Tbl.find_put_free {α : Type} {t : Tbl α} {j k : Nat} {v w : α} (hj : Tbl.find t j = none) (hk : Tbl.find t k = some w) :
    Tbl.find (Tbl.put j v t) k = some w := by
  have hne : k ≠ j := fun e => by rw [e, hj] at hk; exact nomatch hk
  exact (Tbl.find_put_other _ _ hne).trans hk

theorem State.asksKept_newWrite {s v : State} {q : Nat} {c : WCell} (h : s.newWrite q c = some v) : s.AsksKept v := by
  unfold State.newWrite at h
  split at h
  next tag ht =>
    obtain rfl := Option.some.inj h
    exact s.asksKept_modPort q (fun _ _ hw => Tbl.find_put_free (freeTagN_free ht) hw) fun _ _ hr => hr
  · split at h
    · obtain rfl := Option.some.inj h
      exact s.asksKept_modPort q (fun _ _ hw => hw) fun _ _ hr => hr
    · exact nomatch h

theorem State.asksKept_newRead {s v : State} {q : Nat} {x : ReadPart} (h : s.newRead q x = some v) : s.AsksKept v := by
  unfold State.newRead at h
  split at h
  next tag ht =>
    obtain rfl := Option.some.inj h
    exact s.asksKept_modPort q (fun _ _ hw => hw) fun _ _ hr => Tbl.find_put_free (freeTagN_free ht) hr
  · split at h
    · obtain rfl := Option.some.inj h
      exact s.asksKept_modPort q (fun _ _ hw => hw) fun _ _ hr => hr
    · exact nomatch h

theorem State.asksKept_issueRxWrites (uid : Nat) (poison : Bool) : ∀ (l : List (Nat × List Byte × BitVec 64)) (s : State),
    s.AsksKept (State.issueRxWrites uid poison l s)
  | [], s => .refl s
  | w :: l, s => by
    unfold State.issueRxWrites
    split
    next t ht =>
      split at ht
      · exact nomatch ht
      · rw [State.issueWrite_rx] at ht
        exact (State.asksKept_newWrite ht).trans ((t.asksKept_modRx uid fun _ => rfl).trans (State.asksKept_issueRxWrites uid poison l _))
    · exact .refl s

theorem State.asksKept_issueRxReads (uid : Nat) : ∀ (l : List (Nat × Nat × Nat)) (s : State), s.AsksKept (State.issueRxReads uid l s)
  | [], s => .refl s
  | d :: l, s => by
    unfold State.issueRxReads
    split
    next t ht =>
      rw [State.issueRead_rx] at ht
      exact (State.asksKept_newRead ht).trans ((t.asksKept_modRx uid fun _ => rfl).trans (State.asksKept_issueRxReads uid l _))
    · exact .refl s

/-! ### The only accepted frame -/

section
variable {s : State} {r : RxFrame}

theorem State.rxOf_only (h : s.link.rx = [r]) : s.rxOf r.uid = some r := by
  unfold State.rxOf
  rw [h]
  simp

theorem State.modRx_only (h : s.link.rx = [r]) (f : RxFrame → RxFrame) : (s.modRx r.uid f).link.rx = [f r] := by
  unfold State.modRx
  dsimp only
  rw [h]
  simp

/-- Settling serves that frame; then only the link's own numbers move. -/
theorem State.rxSettle_only (h : s.link.rx = [r]) : ∃ l, s.rxSettle = { s.serveRx [] r.uid with link := l } := by
  unfold State.rxSettle
  rw [h]
  exact ⟨_, rfl⟩

/-- A frame that waits for a request takes no effect yet. -/
theorem State.finishRx_waits (h : ∀ r ∈ s.link.rx, 0 < r.outstanding) (earlier : List RxFrame) (uid : Nat) : s.finishRx earlier uid = s := by
  unfold State.finishRx
  split
  · rfl
  next r hr =>
    have hpos := h r (List.mem_of_find?_eq_some hr)
    have hidle : r.idle = false := by simp [RxFrame.idle, Nat.pos_iff_ne_zero.mp hpos]
    rw [hidle, if_pos (by simp)]

/-- A frame that is done already asks for nothing. -/
theorem State.serveRx_done (h : s.link.rx = [r]) (hd : r.done = true) (ht : r.type ≠ 3) (hw : r.todoW = []) : s.serveRx [] r.uid = s := by
  have hstart : s.startRx [] r.uid = s := by
    unfold State.startRx
    rw [State.rxOf_only h]
    dsimp only
    rw [if_neg ht, hw]
    rfl
  rw [State.serveRx_parts, hstart]
  unfold State.finishRx
  rw [State.rxOf_only h]
  dsimp only
  rw [hd, Bool.true_or, if_pos rfl]

/-- An add that is relayed to this chip is applied at once. -/
theorem State.serveRx_hadd (h : s.link.rx = [r]) (hd : r.done = false) (ht : r.type = 5) (hidle : r.idle = true) (hw : r.todoW = [])
    (he : s.halExists r.hadd.1 = true) : ∃ l, s.serveRx [] r.uid = ({ s with link := l } : State).halAdd r.hadd.1 r.hadd.2 true := by
  have hstart : s.startRx [] r.uid = s := by
    unfold State.startRx
    rw [State.rxOf_only h]
    dsimp only
    rw [if_neg (by omega), hw]
    rfl
  rw [State.serveRx_parts, hstart]
  refine ⟨(s.modRx r.uid fun r => { r with done := true }).link, ?_⟩
  unfold State.finishRx
  rw [State.rxOf_only h]
  dsimp only
  rw [hd, hidle, if_neg (by decide), ht]
  exact if_pos he

/-- The first write of a frame takes the free tag; the frame waits for it. -/
theorem State.serveRx_writes (h : s.link.rx = [r]) (ht : r.type ≠ 3) {a : Nat} {b : List Byte} {be : BitVec 64} {l : List (Nat × List Byte × BitVec 64)}
    (hw : r.todoW = (a, b, be) :: l) (hsafe : s.flt.safe = false) {k : Nat} (hk : (s.port (s.portFor a)).writeTag = some k) :
    Tbl.find ((s.serveRx [] r.uid).port (s.portFor a)).writes k =
      some ⟨[⟨.rxWrite r.uid, a, (List.range 64).map fun i => if be.getLsbD i then nth 0 b i else 0, be, r.poison, crc32c b⟩], s.now, true⟩ := by
  obtain ⟨c, hc⟩ : ∃ c : WCell, ⟨.rxWrite r.uid, a, (List.range 64).map fun i => if be.getLsbD i then nth 0 b i else 0, be, r.poison, crc32c b⟩ = c := ⟨_, rfl⟩
  have hnew : s.newWrite (s.portFor a) c = some (s.modPort (s.portFor a) fun p => { p with writes := Tbl.put k ⟨[c], s.now, true⟩ p.writes }) := by
    unfold State.newWrite
    rw [hk]
  generalize hv : (s.modPort (s.portFor a) fun p => { p with writes := Tbl.put k ⟨[c], s.now, true⟩ p.writes }) = v at hnew
  have hfind : Tbl.find (v.port (s.portFor a)).writes k = some ⟨[c], s.now, true⟩ := by
    rw [← hv, State.port_modPort_same]
    exact Tbl.find_put_same _ _ _
  have hvrx : v.link.rx = [r] := by rw [← hv]; exact h
  obtain ⟨v1, hv1⟩ : ∃ v1, (v.modRx r.uid fun x => { x with outstanding := x.outstanding + 1, todoW := l }) = v1 := ⟨_, rfl⟩
  have hwait : ∀ x ∈ v1.link.rx, 0 < x.outstanding := by
    rw [← hv1, State.modRx_only hvrx]
    intro x hx
    rw [List.mem_singleton.mp hx]
    exact Nat.succ_pos _
  have hfind1 : Tbl.find (v1.port (s.portFor a)).writes k = some ⟨[c], s.now, true⟩ := by rw [← hv1]; exact hfind
  have hstart : s.startRx [] r.uid = State.issueRxWrites r.uid r.poison l v1 := by
    unfold State.startRx
    rw [State.rxOf_only h]
    dsimp only
    rw [if_neg ht, hw]
    unfold State.issueRxWrites
    dsimp only
    rw [hsafe, if_neg Bool.false_ne_true, State.issueWrite_rx, hc, hnew]
    dsimp only
    rw [hv1]
    cases l <;> rfl
  obtain ⟨k1, _, k3⟩ := State.asksKept_issueRxWrites r.uid r.poison l v1
  rw [State.serveRx_parts, hstart, State.finishRx_waits (k3 hwait), hc]
  exact k1 _ _ _ hfind1

/-- The first read of a frame takes the free tag; the frame waits for it. -/
theorem State.serveRx_reads (h : s.link.rx = [r]) (ht : r.type = 3) {i a m : Nat} {l : List (Nat × Nat × Nat)} (hr : r.todoR = (i, a, m) :: l)
    {k : Nat} (hk : (s.port (s.portFor a)).readTag = some k) :
    Tbl.find ((s.serveRx [] r.uid).port (s.portFor a)).reads k = some ⟨[⟨.rxRead r.uid a i m, a, 64 * m⟩], [], .ok, s.now, true⟩ := by
  obtain ⟨x, hx⟩ : ∃ x : ReadPart, ⟨.rxRead r.uid a i m, a, 64 * m⟩ = x := ⟨_, rfl⟩
  have hnew : s.newRead (s.portFor a) x = some (s.modPort (s.portFor a) fun p => { p with reads := Tbl.put k ⟨[x], [], .ok, s.now, true⟩ p.reads }) := by
    unfold State.newRead
    rw [hk]
  generalize hv : (s.modPort (s.portFor a) fun p => { p with reads := Tbl.put k ⟨[x], [], .ok, s.now, true⟩ p.reads }) = v at hnew
  have hfind : Tbl.find (v.port (s.portFor a)).reads k = some ⟨[x], [], .ok, s.now, true⟩ := by
    rw [← hv, State.port_modPort_same]
    exact Tbl.find_put_same _ _ _
  have hvrx : v.link.rx = [r] := by rw [← hv]; exact h
  obtain ⟨v1, hv1⟩ : ∃ v1, (v.modRx r.uid fun x => { x with outstanding := x.outstanding + 1, todoR := l }) = v1 := ⟨_, rfl⟩
  have hwait : ∀ x ∈ v1.link.rx, 0 < x.outstanding := by
    rw [← hv1, State.modRx_only hvrx]
    intro x hx
    rw [List.mem_singleton.mp hx]
    exact Nat.succ_pos _
  have hfind1 : Tbl.find (v1.port (s.portFor a)).reads k = some ⟨[x], [], .ok, s.now, true⟩ := by rw [← hv1]; exact hfind
  have hstart : s.startRx [] r.uid = State.issueRxReads r.uid l v1 := by
    unfold State.startRx
    rw [State.rxOf_only h]
    dsimp only
    rw [if_pos ht, List.all_nil, if_pos rfl, hr]
    unfold State.issueRxReads
    dsimp only
    rw [State.issueRead_rx, hx, hnew]
    dsimp only
    rw [hv1]
    cases l <;> rfl
  obtain ⟨_, k2, k3⟩ := State.asksKept_issueRxReads r.uid l v1
  rw [State.serveRx_parts, hstart, State.finishRx_waits (k3 hwait), hx]
  exact k2 _ _ _ hfind1

end

end Sys2Proof.Machine
end

section
/-! SUPPORT. Frames of a session: screening, acceptance and what each accepted frame brings (R270-R277, Tables LINK-4, LINK-6). -/
namespace Sys2Proof.Machine

/-! ### The row of a frame -/

/-- The row of a frame runs the ingress of its type. -/
theorem exec_row {s : State} {f : Frame} {full : Bool} {ty op : Nat} {cmd : Instr} (hs : s.works) (h : f.row full ty op = some cmd) :
    ∃ op', exec cmd s = .next (s.keep (ingress ty op' f full s)) := by
  unfold Frame.row at h
  split at h
  case h_11 => exact nomatch h
  all_goals
    obtain rfl := Option.some.inj h
    exact ⟨_, running_works _ hs⟩

/-- A frame of another EtherType is none of the link's. -/
theorem ingress_foreign {s : State} {f : Frame} (h : etherType (untag f.bytes) ≠ s.link.etype.toNat) (ty op : Nat) (full : Bool) :
    ingress ty op f full s = s := by
  unfold ingress
  exact if_pos (.inl h)

/-- A frame that is discarded by the checks. -/
theorem ingress_discarded {s t : State} {f : Frame} {full : Bool} {ty : Nat} (he : etherType (untag f.bytes) = s.link.etype.toNat)
    (hty : (RxHead.of (untag f.bytes)).type = ty) (h7 : ty < 7) (h : s.screen f full = .inl t) (op : Nat) : ingress ty op f full s = t := by
  have hne : ¬ty = 7 := by omega
  unfold ingress
  dsimp only
  rw [h, if_neg (by simp [he, hty, hne])]

/-- What is discarded while the link is down is counted only: no `ACK` is sent. -/
theorem State.discard_down {s : State} (h : s.link.up = false) (k : Nat) : s.discard k = s.linkBump k 1 := by
  have hup : (s.linkBump k 1).link.up = false := h
  unfold State.discard State.nakOnce
  rw [hup]
  rfl

section
variable {s : State} {f : Frame} {full : Bool} (hdown : s.link.up = false)
include hdown

theorem State.screen_full (h : full = true ∨ 16384 < s.link.ingressUsed + 9216) : s.screen f full = .inl (s.linkBump 6 1) := by
  unfold State.screen
  dsimp only
  rw [if_pos (by simpa using h), State.discard_down hdown]

theorem State.screen_bad (hf : full = false) (hroom : s.link.ingressUsed + 9216 ≤ 16384) (hb : f.bad = true)
    (ht : (RxHead.of (untag f.bytes)).type = 1 ∨ (RxHead.of (untag f.bytes)).type = 3) : s.screen f full =
      .inl ((s.raise ⟨5, 1, 42, formatL (RxHead.of (untag f.bytes)).seq ((RxHead.of (untag f.bytes)).word 0)⟩).linkBump 5 1) := by
  have hup : (s.raise ⟨5, 1, 42, formatL (RxHead.of (untag f.bytes)).seq ((RxHead.of (untag f.bytes)).word 0)⟩).link.up = false := by
    rw [State.raise_low _ _ (by show kindSev 42 < 2; decide)]
    exact hdown
  unfold State.screen State.discardCrc State.stiOr
  dsimp only
  rw [if_neg (by simp [hf, hroom]), if_pos hb, if_pos ht]
  dsimp only
  rw [State.discard_down hup]

theorem State.screen_length (hf : full = false) (hroom : s.link.ingressUsed + 9216 ≤ 16384) (hb : f.bad = false)
    (hl : (untag f.bytes).length < 68 ∨ 8260 < (untag f.bytes).length ∨ (RxHead.of (untag f.bytes)).plen ≠ (untag f.bytes).length - 68) :
    s.screen f full = .inl (s.linkBump 8 1) := by
  unfold State.screen
  dsimp only
  rw [if_neg (by simp [hf, hroom]), if_neg (by simp [hb]), if_pos hl, State.discard_down hdown]

end

/-! ### Acceptance (R272) -/

/-- The frame stands as the last one accepted. -/
def State.inOrder (s : State) (hd : RxHead) : State :=
  let t := ({ s with link := { s.link with rcv := BitVec.ofNat 16 hd.seq, nakFor := none, ackDue := true } } : State).linkBump 4 1
  { t with link := { t.link with rx := t.link.rx ++ [t.rxWork hd (t.link.uidOf hd.seq)] } }

theorem State.inOrder_rx (s : State) (hd : RxHead) : (s.inOrder hd).link.rx = s.link.rx ++ [s.rxWork hd (s.link.uidOf hd.seq)] := rfl

theorem State.inOrder_frame (s : State) (hd : RxHead) : s.inOrder hd = { s with link := (s.inOrder hd).link } := rfl

/-- What the peer answers takes effect as the frame is accepted. -/
def State.answered (s : State) (hd : RxHead) : State := if hd.type = 4 then s.rxData hd else if hd.type = 6 then s.rxStatus hd else s

theorem State.acceptSeq_parts (s : State) (hd : RxHead) : s.acceptSeq hd = ((s.inOrder hd).answered hd).rxSettle := rfl

theorem State.acksKept_charge (s : State) (c id k n : Nat) : s.AcksKept (s.charge c id k n) := by
  unfold State.charge
  split
  · exact .refl s
  · exact State.AcksKept.trans (.of_link rfl rfl) (.of_fwShape (State.fwShape_modStream _ _ _))

theorem State.acksKept_peerError (s : State) (o : FrameOwner) (write : Bool) (r : Resp) (addr : Nat) : s.AcksKept (s.peerError o write r addr) :=
  (s.acksKept_raise _).trans (.of_fwShape (State.fwShape_errXfer _ _ _ _ _ _))

/-- The response that an `RDATA` brings for the read `q` (R274). -/
def RxHead.dataResp (hd : RxHead) (q : PeerRead) : Resp :=
  if Resp.ofCode (bits (hd.word 1) 1 0) ≠ .ok then Resp.ofCode (bits (hd.word 1) 1 0) else if bitOn hd.flags 1 then .poison
  else if hd.payload.length ≠ 64 * q.keys.length then .fail else .ok

/-- The read `q` is answered: it is open no more, and its beats are counted to its transfer. -/
def State.readAnswered (s : State) (hd : RxHead) (q : PeerRead) : State :=
  ({ s with link := { s.link with reads := Tbl.drop (bits (hd.word 0) 15 0) s.link.reads } } : State).charge q.owner.sctx q.owner.xfer linkClass
    ((hd.payload.length + 66 + 63) / 64)

/-- The data of an `RDATA`, or its failure, reaches the transfer. -/
def State.takeData (s : State) (hd : RxHead) (q : PeerRead) : State :=
  if hd.dataResp q = .ok then s.putData q.owner.sctx q.owner.xfer (nth 0 q.keys 0) q.keys.length hd.payload
  else (s.putCells q.owner.sctx q.owner.xfer q.keys (.bad (hd.dataResp q))).peerError q.owner false (hd.dataResp q) (formatL q.seq q.sti)

theorem State.rxData_some {s : State} {hd : RxHead} {q : PeerRead} (h : Tbl.find s.link.reads (bits (hd.word 0) 15 0) = some q) :
    s.rxData hd = (s.readAnswered hd q).takeData hd q := by
  unfold State.rxData
  rw [h]
  rfl

theorem State.rxData_none {s : State} {hd : RxHead} (h : Tbl.find s.link.reads (bits (hd.word 0) 15 0) = none) : s.rxData hd = s := by
  unfold State.rxData
  rw [h]

theorem State.acksKept_readAnswered (s : State) (hd : RxHead) (q : PeerRead) : s.AcksKept (s.readAnswered hd q) := by
  refine State.AcksKept.trans ?_ (State.acksKept_charge _ _ _ _ _)
  exact ⟨rfl, rfl, rfl, rfl, rfl⟩

theorem State.acksKept_takeData (s : State) (hd : RxHead) (q : PeerRead) : s.AcksKept (s.takeData hd q) := by
  unfold State.takeData
  split
  · exact s.acksKept_modXfer _ _ _
  · exact (s.acksKept_modXfer _ _ _).trans (State.acksKept_peerError _ _ _ _ _)

theorem State.acksKept_rxData (s : State) (hd : RxHead) : s.AcksKept (s.rxData hd) := by
  cases h : Tbl.find s.link.reads (bits (hd.word 0) 15 0) with
  | none => rw [State.rxData_none h]; exact .refl s
  | some q => rw [State.rxData_some h]; exact (s.acksKept_readAnswered hd q).trans (State.acksKept_takeData _ hd q)

theorem State.stiOr_frame (s : State) (sti : Option Nat) : (s.stiOr sti).1 = { s with free := (s.stiOr sti).1.free } := by
  cases sti <;> rfl

theorem State.acksKept_rxStatus (s : State) (hd : RxHead) : s.AcksKept (s.rxStatus hd) := by
  unfold State.rxStatus
  dsimp only
  split
  · exact .refl s
  next g _ =>
    split
    · exact .refl s
    · refine State.AcksKept.trans (t := { s with link := { s.link with retry := Tbl.put (bits (hd.word 0) 15 0) { g with owners := [] } s.link.retry } })
        ⟨rfl, rfl, rfl, rfl, rfl⟩ ?_
      generalize ({ s with link := { s.link with retry := Tbl.put (bits (hd.word 0) 15 0) { g with owners := [] } s.link.retry } } : State) = t
      refine State.AcksKept.trans (t := (t.stiOr (if g.type = 1 then some (fieldLE g.spec 0 4) else none)).1) ?_
        (.foldl (fun s (o : FrameOwner) => (s.acksKept_modXfer _ _ _).trans (State.acksKept_peerError _ _ _ _ _)) _ _)
      rw [State.stiOr_frame]
      exact .of_link rfl rfl

/-- The next frame in sequence is received; the Plates stand. -/
theorem State.acceptSeq_effect (s : State) (hd : RxHead) : (s.acceptSeq hd).link.rcv = BitVec.ofNat 16 hd.seq ∧ (s.acceptSeq hd).link.nakFor = none ∧
    (s.acceptSeq hd).plate = s.plate := by
  have hanswer : (s.inOrder hd).AcksKept ((s.inOrder hd).answered hd) := by
    unfold State.answered
    split
    · exact State.acksKept_rxData _ _
    · split
      · exact State.acksKept_rxStatus _ _
      · exact .refl _
  rw [State.acceptSeq_parts]
  obtain ⟨_, _, h3, h4, h5⟩ := hanswer.trans (State.acksKept_rxSettle _)
  exact ⟨h3, h4, h5⟩

/-- A frame that answers nothing is served at once. -/
theorem State.acceptSeq_serves {s : State} (hrx : s.link.rx = []) {hd : RxHead} (h4 : hd.type ≠ 4) (h6 : hd.type ≠ 6) :
    ∃ l, s.acceptSeq hd = { (s.inOrder hd).serveRx [] (s.rxWork hd (s.link.uidOf hd.seq)).uid with link := l } := by
  have honly : (s.inOrder hd).link.rx = [s.rxWork hd (s.link.uidOf hd.seq)] := by rw [State.inOrder_rx, hrx]; rfl
  have hans : (s.inOrder hd).answered hd = s.inOrder hd := by
    unfold State.answered
    rw [if_neg h4, if_neg h6]
  rw [State.acceptSeq_parts, hans]
  exact State.rxSettle_only honly

/-- An answer of the peer leaves nothing to serve. -/
theorem State.acceptSeq_answer {s : State} (hrx : s.link.rx = []) {hd : RxHead} (h46 : hd.type = 4 ∨ hd.type = 6)
    (hlink : ((s.inOrder hd).answered hd).link.rx = (s.inOrder hd).link.rx) : ∃ l, s.acceptSeq hd = { (s.inOrder hd).answered hd with link := l } := by
  have hwork : s.rxWork hd (s.link.uidOf hd.seq) = hd.accepted (s.link.uidOf hd.seq) := by
    unfold State.rxWork
    rcases h46 with h | h <;> simp only [h]
  have honly : ((s.inOrder hd).answered hd).link.rx = [hd.accepted (s.link.uidOf hd.seq)] := by
    rw [hlink, State.inOrder_rx, hrx, hwork]
    rfl
  obtain ⟨l, hl⟩ := State.rxSettle_only honly
  have hdone : (hd.accepted (s.link.uidOf hd.seq)).done = true := by
    unfold RxHead.accepted
    rcases h46 with h | h <;> simp [h]
  have htype : (hd.accepted (s.link.uidOf hd.seq)).type ≠ 3 := by
    show hd.type ≠ 3
    omega
  rw [State.serveRx_done honly hdone htype rfl] at hl
  rw [State.acceptSeq_parts]
  exact ⟨l, hl⟩

end Sys2Proof.Machine
end

section
/-! SUPPORT. The effect of each accepted frame (R230, R274-R277), and the frames of a session. -/
namespace Sys2Proof.Machine

/-! ### What a frame asks for (Table LINK-6) -/

section
variable {s : State} {hd : RxHead} {t : Tensor} (uid : Nat)

theorem State.rxWork_write (ht : hd.type = 1) (hg : s.tagged hd.tag = some t) {a : Nat}
    (ha : t.cellRun (hd.word 0) (bits (hd.word 1) 11 0) (hd.payload.length / 64) = some a) :
    s.rxWork hd uid = { hd.accepted uid with todoW := hd.cellWrites a } := by
  unfold State.rxWork
  simp only [ht, hg, ha]

theorem State.rxWork_rows (ht : hd.type = 2) (hg : s.tagged hd.tag = some t) {l : List (Nat × List Byte × BitVec 64)} (hl : hd.rowsWrites t = some l) :
    s.rxWork hd uid = { hd.accepted uid with todoW := l } := by
  unfold State.rxWork
  simp only [ht, hg, hl]

theorem State.rxWork_read (ht : hd.type = 3) (hg : s.tagged hd.tag = some t) {a : Nat}
    (ha : t.cellRun (hd.word 0) (bits (hd.word 1) 11 0) (bits (hd.word 1) 22 16 + 1) = some a) :
    s.rxWork hd uid = { hd.accepted uid with rid := hd.field 8 2, todoR := windowRuns 4 0 a (bits (hd.word 1) 22 16 + 1) } := by
  unfold State.rxWork
  simp only [ht, hg, ha]

theorem State.rxWork_hadd (ht : hd.type = 5) :
    s.rxWork hd uid = { hd.accepted uid with hadd := (bits (hd.word 0) 14 0, bits (hd.word 1) 15 0) } := by
  unfold State.rxWork
  simp only [ht]

end

/-- A frame of one cell with an enabled byte has one write. -/
theorem RxHead.cellWrites_one {hd : RxHead} (hl : hd.payload.length = 64) (hbe : BitVec.ofNat 64 (hd.field 8 8) ≠ 0) (a : Nat) :
    hd.cellWrites a = [(a, slice hd.payload 0 64, BitVec.ofNat 64 (hd.field 8 8))] := by
  unfold RxHead.cellWrites
  rw [hl]
  generalize BitVec.ofNat 64 (hd.field 8 8) = be at hbe ⊢
  simpa using hbe

/-- The first cells of a `READ` are those up to the end of the 4,096-byte window. -/
theorem windowRuns_first (f i a n : Nat) : ∃ l, windowRuns (f + 1) i a (n + 1) = (i, a, min (n + 1) ((4096 - a % 4096) / 64)) :: l := ⟨_, rfl⟩

/-! ### Requests and adds of an accepted frame -/

section
variable {s : State} {hd : RxHead} {r : RxFrame} (hrx : s.link.rx = []) (hr : s.rxWork hd (s.link.uidOf hd.seq) = r)
include hrx hr

theorem State.acceptSeq_writes (h4 : hd.type ≠ 4) (h6 : hd.type ≠ 6) (ht : r.type ≠ 3) {a : Nat} {b : List Byte} {be : BitVec 64}
    {l : List (Nat × List Byte × BitVec 64)} (hw : r.todoW = (a, b, be) :: l) (hsafe : s.flt.safe = false) {k : Nat}
    (hk : (s.port (s.portFor a)).writeTag = some k) : ∃ (w : WriteReq) (e : WCell), Tbl.find ((s.acceptSeq hd).port (s.portFor a)).writes k = some w ∧
      w.cells = [e] ∧ e.addr = a ∧ e.be = be ∧ e.poison = r.poison ∧ e.chk = crc32c b ∧
      e.data = (List.range 64).map fun i => if be.getLsbD i then nth 0 b i else 0 := by
  obtain ⟨l', hl⟩ := State.acceptSeq_serves hrx h4 h6
  have honly : (s.inOrder hd).link.rx = [r] := by rw [State.inOrder_rx, hrx, hr]; rfl
  have hframe := s.inOrder_frame hd
  rw [hr] at hl
  generalize s.inOrder hd = v at hl honly hframe
  have hport : v.port (s.portFor a) = s.port (s.portFor a) := by rw [hframe]; rfl
  have hfor : v.portFor a = s.portFor a := by rw [hframe]; rfl
  have hfind := State.serveRx_writes honly ht hw (by rw [hframe]; exact hsafe) (by rw [hfor, hport]; exact hk)
  rw [hfor] at hfind
  rw [hl]
  exact ⟨_, _, hfind, rfl, rfl, rfl, rfl, rfl, rfl⟩

theorem State.acceptSeq_reads (ht : hd.type = 3) (hrt : r.type = 3) {i a m : Nat} {l : List (Nat × Nat × Nat)} (hq : r.todoR = (i, a, m) :: l) {k : Nat}
    (hk : (s.port (s.portFor a)).readTag = some k) : ∃ q : ReadReq, Tbl.find ((s.acceptSeq hd).port (s.portFor a)).reads k = some q ∧
      q.parts = [⟨.rxRead r.uid a i m, a, 64 * m⟩] ∧ q.got = [] := by
  obtain ⟨l', hl⟩ := State.acceptSeq_serves hrx (by omega : hd.type ≠ 4) (by omega)
  have honly : (s.inOrder hd).link.rx = [r] := by rw [State.inOrder_rx, hrx, hr]; rfl
  have hframe := s.inOrder_frame hd
  rw [hr] at hl
  generalize s.inOrder hd = v at hl honly hframe
  have hport : v.port (s.portFor a) = s.port (s.portFor a) := by rw [hframe]; rfl
  have hfor : v.portFor a = s.portFor a := by rw [hframe]; rfl
  have hfind := State.serveRx_reads honly hrt hq (by rw [hfor, hport]; exact hk)
  rw [hfor] at hfind
  rw [hl]
  exact ⟨_, hfind, rfl, rfl⟩

theorem State.acceptSeq_hadd (ht : hd.type = 5) (hrt : r.type = 5) (hd' : r.done = false) (hidle : r.idle = true) (hw : r.todoW = [])
    (he : s.halExists r.hadd.1 = true) (hdead : s.halDead r.hadd.1 = false) (hu : Tbl.get 0 s.hal.upset r.hadd.1 = 0) :
    (s.acceptSeq hd).hal.words = Tbl.set HalWord.zero s.hal.words r.hadd.1 ((s.hword r.hadd.1).add r.hadd.2) := by
  obtain ⟨l', hl⟩ := State.acceptSeq_serves hrx (by omega : hd.type ≠ 4) (by omega)
  have honly : (s.inOrder hd).link.rx = [r] := by rw [State.inOrder_rx, hrx, hr]; rfl
  have hframe := s.inOrder_frame hd
  rw [hr] at hl
  generalize s.inOrder hd = v at hl honly hframe
  obtain ⟨l'', hserve⟩ := State.serveRx_hadd honly hd' hrt hidle hw (by rw [hframe]; exact he)
  rw [hl, hserve, hframe]
  exact State.halAdd_words (s := { s with link := l'' }) hdead (by show Tbl.get 0 s.hal.upset r.hadd.1 ≤ 1; omega) r.hadd.2 true

end

/-! ### Answers of the peer (R274) -/

theorem State.xfersKept_charge (s : State) (c id k n : Nat) : s.XfersKept (s.charge c id k n) := by
  unfold State.charge
  split
  · exact .of_fw rfl
  · refine State.XfersKept.trans ?_ (State.xfersKept_modStream _ c fun _ => rfl)
    exact .of_fw rfl

theorem State.charge_link (s : State) (c id k n : Nat) : (s.charge c id k n).link = s.link := by
  unfold State.charge
  split
  · rfl
  · rw [State.modStream_frame]

/-- The cells of a read that the peer answered are with their transfer. -/
theorem State.acceptSeq_rdata {s : State} {hd : RxHead} (hrx : s.link.rx = []) (ht : hd.type = 4) {q : PeerRead}
    (hq : Tbl.find s.link.reads (bits (hd.word 0) 15 0) = some q) (hcode : bits (hd.word 1) 1 0 = 0) (hpoison : bitOn hd.flags 1 = false)
    (hlen : hd.payload.length = 64 * q.keys.length) {x : Stream} {t : Transfer} (hx : s.xferOf q.owner.sctx q.owner.xfer = some (x, t)) :
    ∃ (y : Stream) (t' : Transfer), (s.acceptSeq hd).xferOf q.owner.sctx q.owner.xfer = some (y, t') ∧ ∀ i, i < q.keys.length →
      Tbl.find t'.cells (nth 0 q.keys 0 + i) = some (Cell.of (slice hd.payload (64 * i) 64)) := by
  have hresp : hd.dataResp q = .ok := by
    unfold RxHead.dataResp
    rw [hcode, hpoison, hlen]
    simp [Resp.ofCode]
  have hans : (s.inOrder hd).answered hd = ((s.inOrder hd).readAnswered hd q).putData q.owner.sctx q.owner.xfer (nth 0 q.keys 0) q.keys.length hd.payload := by
    unfold State.answered
    rw [if_pos ht, State.rxData_some (s := s.inOrder hd) hq]
    unfold State.takeData
    rw [if_pos hresp]
  have hkept : s.XfersKept ((s.inOrder hd).readAnswered hd q) := by
    refine State.XfersKept.trans ?_ (State.xfersKept_charge _ _ _ _ _)
    exact .of_fw rfl
  obtain ⟨y, hy⟩ := hkept.xferOf hx
  obtain ⟨z, t', hz, _, hcells⟩ := State.putData_effect hy (nth 0 q.keys 0) q.keys.length hd.payload
  have hlink : ((s.inOrder hd).answered hd).link.rx = (s.inOrder hd).link.rx := by
    rw [hans, State.putData, State.modXfer, State.modStream_frame]
    unfold State.readAnswered
    dsimp only
    rw [State.charge_link]
  obtain ⟨l, hl⟩ := State.acceptSeq_answer hrx (.inl ht) hlink
  rw [hl, hans]
  exact ⟨z, t', hz, hcells⟩

/-- The lane of a stream does not depend on its transfers. -/
theorem State.laneOf_modXfer (s : State) (c id d : Nat) (f : Transfer → Transfer) : (s.modXfer c id f).laneOf d = s.laneOf d := by
  unfold State.laneOf
  have hphys : ∀ n, (s.modXfer c id f).physOf n = s.physOf n := fun n => by rw [State.modXfer, State.modStream_frame]; rfl
  by_cases hd : d = c
  · subst hd
    rw [State.modXfer, State.stream_modStream_same]
    cases h : s.stream d with
    | none => rfl
    | some x => exact hphys x.lane
  · rw [State.modXfer, State.stream_modStream_other _ _ hd]
    exact congrArg (fun g => (s.stream d).bind g) (funext fun x => hphys x.lane)

/-- The first failure of a transfer is the one it keeps. -/
theorem State.xferOf_errXfer {s : State} {c id : Nat} {x : Stream} {t : Transfer} (hx : s.xferOf c id = some (x, t)) (p : Nat) (r : Resp) (addr : Nat) :
    ∃ y, (s.errXfer p c id r addr).xferOf c id = some (y, { t with err := some (t.err.getD r) }) := by
  have hmod := State.xferOf_modXfer hx (f := fun t => { t with err := match t.err with | some e => some e | none => some r }) fun _ => rfl
  have herr : (match t.err with | some e => some e | none => some r) = some (t.err.getD r) := by cases t.err <;> rfl
  rw [herr] at hmod
  have hfind : (s.stream c).bind (fun x => (x.xfer id).map fun t => (x, t)) = some (x, t) := hx
  unfold State.errXfer
  rw [hfind]
  exact ⟨_, hmod⟩

theorem kindSev_peer (write : Bool) (n : Nat) : kindSev (6 + busKind write (Resp.ofCode n)) < 2 := by
  cases write <;> cases Resp.ofCode n <;> decide

/-- A failed access to the peer stops the lane of its transfer, which keeps its first failure; only the collector, lanes and streams move. -/
theorem State.peerError_effect {s : State} {o : FrameOwner} {x : Stream} {t : Transfer} (hx : s.xferOf o.sctx o.xfer = some (x, t)) (write : Bool)
    (n addr : Nat) : (s.peerError o write (Resp.ofCode n) addr).stoppedInError ((s.laneOf o.sctx).getD o.phys) ∧
      (∃ y, (s.peerError o write (Resp.ofCode n) addr).xferOf o.sctx o.xfer = some (y, { t with err := some (t.err.getD (Resp.ofCode n)) })) ∧
      (s.peerError o write (Resp.ofCode n) addr).link = s.link := by
  obtain ⟨v, hv⟩ : ∃ v, s.raise ⟨0, (s.laneOf o.sctx).getD o.phys, 6 + busKind write (Resp.ofCode n), addr⟩ = v := ⟨_, rfl⟩
  have hlow := State.raise_low s ⟨0, (s.laneOf o.sctx).getD o.phys, 6 + busKind write (Resp.ofCode n), addr⟩ (kindSev_peer write n)
  have hvx : v.xferOf o.sctx o.xfer = some (x, t) := by rw [← hv, hlow]; exact hx
  have hvl : v.link = s.link := by rw [← hv, hlow]
  have herr : s.peerError o write (Resp.ofCode n) addr = v.errXfer ((s.laneOf o.sctx).getD o.phys) o.sctx o.xfer (Resp.ofCode n) addr := by
    rw [← hv]; rfl
  rw [herr]
  obtain ⟨_, h2, h3⟩ := v.errXfer_effect ((s.laneOf o.sctx).getD o.phys) o.sctx o.xfer (Resp.ofCode n) addr
  exact ⟨h2, State.xferOf_errXfer hvx _ _ _, by rw [h3]; exact hvl⟩

/-- A frame of one transfer that a `STATUS` names: its writes are answered, as failures. -/
theorem State.rxStatus_one {s : State} {hd : RxHead} {g : TxFrame} {o : FrameOwner} (hg : Tbl.find s.link.retry (bits (hd.word 0) 15 0) = some g)
    (ho : g.owners = [o]) : ∃ (u : State) (addr : Nat), u = { s with link := u.link, free := u.free } ∧ u.link.rx = s.link.rx ∧
      s.rxStatus hd = (u.modXfer o.sctx o.xfer fun t => { t with outstanding := t.outstanding - o.n }).peerError o true (Resp.ofCode (bits (hd.word 1) 1 0)) addr := by
  obtain ⟨v, hv⟩ : ∃ v : State, { s with link := { s.link with retry := Tbl.put (bits (hd.word 0) 15 0) { g with owners := [] } s.link.retry } } = v := ⟨_, rfl⟩
  obtain ⟨w, hw⟩ : ∃ w, v.stiOr (if g.type = 1 then some (fieldLE g.spec 0 4) else none) = w := ⟨_, rfl⟩
  have hstatus : s.rxStatus hd = (w.1.modXfer o.sctx o.xfer fun t => { t with outstanding := t.outstanding - o.n }).peerError o true
      (Resp.ofCode (bits (hd.word 1) 1 0)) (formatL (bits (hd.word 0) 15 0) w.2) := by
    unfold State.rxStatus
    dsimp only
    rw [hg]
    dsimp only
    rw [if_neg (by rw [ho]; exact List.cons_ne_nil _ _), hv, hw, ho]
    rfl
  have hframe : w.1 = { v with free := w.1.free } := by rw [← hw]; exact v.stiOr_frame _
  refine ⟨w.1, _, ?_, ?_, hstatus⟩
  · rw [hframe, ← hv]
  · rw [hframe, ← hv]

/-- The transfer whose frame a `STATUS` names fails. -/
theorem State.rxStatus_effect {s : State} {hd : RxHead} {g : TxFrame} {o : FrameOwner} (hg : Tbl.find s.link.retry (bits (hd.word 0) 15 0) = some g)
    (ho : g.owners = [o]) {x : Stream} {t : Transfer} (hx : s.xferOf o.sctx o.xfer = some (x, t)) :
    (s.rxStatus hd).stoppedInError ((s.laneOf o.sctx).getD o.phys) ∧ (s.rxStatus hd).link.rx = s.link.rx ∧
      ∃ (y : Stream) (t' : Transfer), (s.rxStatus hd).xferOf o.sctx o.xfer = some (y, t') ∧ t'.outstanding = t.outstanding - o.n ∧
        t'.err = some (t.err.getD (Resp.ofCode (bits (hd.word 1) 1 0))) := by
  obtain ⟨u, addr, hu, hurx, hstatus⟩ := State.rxStatus_one hg ho
  obtain ⟨v, hv⟩ : ∃ v, (u.modXfer o.sctx o.xfer fun t => { t with outstanding := t.outstanding - o.n }) = v := ⟨_, rfl⟩
  have hvx := State.xferOf_modXfer (s := u) (x := x) (t := t) (by rw [hu]; exact hx) (f := fun t => { t with outstanding := t.outstanding - o.n }) fun _ => rfl
  have hlane : v.laneOf o.sctx = s.laneOf o.sctx := by rw [← hv, State.laneOf_modXfer, hu]; rfl
  have hvlink : v.link = u.link := by rw [← hv, State.modXfer, State.modStream_frame]
  rw [hv] at hvx hstatus
  obtain ⟨h1, ⟨y, h2⟩, h3⟩ := State.peerError_effect hvx true (bits (hd.word 1) 1 0) addr
  rw [hstatus, ← hlane]
  exact ⟨h1, by rw [h3, hvlink]; exact hurx, y, _, h2, rfl, rfl⟩

theorem State.acceptSeq_status {s : State} {hd : RxHead} (hrx : s.link.rx = []) (ht : hd.type = 6) {g : TxFrame} {o : FrameOwner}
    (hg : Tbl.find s.link.retry (bits (hd.word 0) 15 0) = some g) (ho : g.owners = [o]) {x : Stream} {t : Transfer}
    (hx : s.xferOf o.sctx o.xfer = some (x, t)) : (s.acceptSeq hd).stoppedInError ((s.laneOf o.sctx).getD o.phys) ∧
      ∃ (y : Stream) (t' : Transfer), (s.acceptSeq hd).xferOf o.sctx o.xfer = some (y, t') ∧ t'.outstanding = t.outstanding - o.n ∧
        t'.err = some (t.err.getD (Resp.ofCode (bits (hd.word 1) 1 0))) := by
  have hans : (s.inOrder hd).answered hd = (s.inOrder hd).rxStatus hd := by
    unfold State.answered
    rw [if_neg (by omega), if_pos ht]
  obtain ⟨h1, h2, h3⟩ := State.rxStatus_effect (s := s.inOrder hd) (hd := hd) hg ho hx
  obtain ⟨l, hl⟩ := State.acceptSeq_answer hrx (.inr ht) (by rw [hans]; exact h2)
  rw [hl, hans]
  exact ⟨h1, h3⟩

end Sys2Proof.Machine
end

section
/-! SUPPORT. The frames of a session, in and out of sequence (R271-R277, Tables LINK-4, LINK-6). -/
namespace Sys2Proof.Machine

section
variable {s : State} {f : Frame} {full : Bool} {ty op : Nat} {cmd : Instr} {hd : RxHead}

/-- A frame that passes while the link is up is taken, and its beats count as activity (R313). -/
theorem exec_takeUp (hs : s.works) (hc : f.row full ty op = some cmd) (hup : s.link.up = true) (hf : full = false) (hp : s.passes f hd)
    (ht : hd.type = ty) (h7 : ty < 7) : exec cmd s = .next (s.keep ((s.takeUp hd).tallyBlock linkClass f.beats.length)) := by
  obtain ⟨op', hexec⟩ := exec_row hs hc
  rw [hexec, hf, ingress_passes hp ht (fun h => absurd h (by omega)), if_neg (by simp [hup]), if_neg (by omega), if_pos hup]

/-- The numbers of the frame are those that this side knows, and nothing of the peer waits. -/
theorem State.takeUp_known (hidle : s.linkIdle) (hr : hd.rcv = s.link.peerRcv.toNat) (hc : hd.cmp = s.link.peerCmp.toNat)
    (hn : bitOn hd.flags 0 = false) : s.takeUp hd = if hd.type = 0 then s else if hd.seq ≠ (s.link.rcv + 1).toNat then s.discard 7 else s.acceptSeq hd := by
  have hacks : s.useAcks (BitVec.ofNat 16 hd.rcv) (BitVec.ofNat 16 hd.cmp) = s := by
    rw [hr, hc, BitVec.ofNat_toNat, BitVec.ofNat_toNat, BitVec.setWidth_eq, BitVec.setWidth_eq]
    exact State.useAcks_known hidle
  unfold State.takeUp
  dsimp only
  rw [hacks, hn]
  rfl

theorem State.takeUp_nak (hidle : s.linkIdle) (hr : hd.rcv = s.link.peerRcv.toNat) (hc : hd.cmp = s.link.peerCmp.toNat)
    (hn : bitOn hd.flags 0 = true) (ht : hd.type = 0) : s.takeUp hd = s.resend := by
  have hacks : s.useAcks (BitVec.ofNat 16 hd.rcv) (BitVec.ofNat 16 hd.cmp) = s := by
    rw [hr, hc, BitVec.ofNat_toNat, BitVec.ofNat_toNat, BitVec.setWidth_eq, BitVec.setWidth_eq]
    exact State.useAcks_known hidle
  unfold State.takeUp
  dsimp only
  rw [hacks, hn, if_pos ht]
  rfl

end

/-- A frame out of sequence is counted, and brings one `ACK` with `NAK` for each number that is missing (R272). -/
theorem State.discard_up {s : State} (hup : s.link.up = true) : s.discard 7 = { s with link := (s.discard 7).link } ∧ (s.discard 7).link.rcv = s.link.rcv ∧
    (s.discard 7).link.cnt = (if s.link.nakFor = some (s.link.rcv + 1).toNat then (s.link.bump 7 1).cnt else ((s.link.bump 7 1).bump 3 1).cnt) ∧
    (s.discard 7).link.ackQ = (if s.link.nakFor = some (s.link.rcv + 1).toNat then s.link.ackQ else s.link.ackQ ++ [true]) := by
  have hup' : (s.linkBump 7 1).link.up = true := hup
  have hnak : (s.linkBump 7 1).link.nakFor = s.link.nakFor := rfl
  have hrcv : (s.linkBump 7 1).link.rcv = s.link.rcv := rfl
  unfold State.discard State.nakOnce
  dsimp only
  rw [hup', hnak, hrcv, Bool.true_and]
  by_cases h : s.link.nakFor = some (s.link.rcv + 1).toNat
  · rw [if_neg (by rw [h]; simp), if_pos h, if_pos h]
    exact ⟨rfl, rfl, rfl, rfl⟩
  · rw [if_pos (decide_eq_true h), if_neg h, if_neg h]
    exact ⟨rfl, rfl, rfl, rfl⟩

/-- What the command keeps of the outside does not hide what an accepted frame has done. -/
def State.afterFrame (s : State) (hd : RxHead) (n : Nat) : State := s.keep ((s.acceptSeq hd).tallyBlock linkClass n)

section
variable {s : State} {hd : RxHead} (hrx : s.link.rx = [])
include hrx

/-- A `WRITE` of one cell (R275). -/
theorem State.afterFrame_write (n : Nat) {t : Tensor} {a k : Nat} (ht : hd.type = 1) (hg : s.tagged hd.tag = some t)
    (ha : t.cellRun (hd.word 0) (bits (hd.word 1) 11 0) 1 = some a) (hl : hd.payload.length = 64) (hsafe : s.flt.safe = false)
    (hbe : BitVec.ofNat 64 (hd.field 8 8) ≠ 0) (hk : (s.port (s.portFor a)).writeTag = some k) :
    ∃ (w : WriteReq) (e : WCell), Tbl.find ((s.afterFrame hd n).port (s.portFor a)).writes k = some w ∧ w.cells = [e] ∧ e.addr = a ∧
      e.be = BitVec.ofNat 64 (hd.field 8 8) ∧ e.poison = bitOn hd.flags 1 ∧ e.chk = crc32c hd.payload ∧
      ∀ i, i < 64 → nth 0 e.data i = if e.be.getLsbD i then nth 0 hd.payload i else 0 := by
  have hwork := State.rxWork_write (s.link.uidOf hd.seq) ht hg (a := a) (by rw [hl]; exact ha)
  have hslice : slice hd.payload 0 64 = hd.payload := by rw [← hl]; simp [slice]
  obtain ⟨w, e, h1, h2, h3, h4, h5, h6, h7⟩ := State.acceptSeq_writes hrx hwork (by omega) (by omega) (by show hd.type ≠ 3; omega)
    (RxHead.cellWrites_one hl hbe a) hsafe hk
  refine ⟨w, e, h1, h2, h3, h4, h5, by rw [h6, hslice], fun i hi => ?_⟩
  rw [h7, h4, hslice]
  simp [nth, hi]

/-- The first cell of the rows of a `ROWS` (R276). -/
theorem State.afterFrame_rows (n : Nat) {t : Tensor} {a k : Nat} {b : List Byte} {be : BitVec 64} {l : List (Nat × List Byte × BitVec 64)}
    (ht : hd.type = 2) (hg : s.tagged hd.tag = some t) (hl : hd.rowsWrites t = some ((a, b, be) :: l)) (hsafe : s.flt.safe = false)
    (hk : (s.port (s.portFor a)).writeTag = some k) :
    ∃ (w : WriteReq) (e : WCell), Tbl.find ((s.afterFrame hd n).port (s.portFor a)).writes k = some w ∧ w.cells = [e] ∧ e.addr = a ∧ e.be = be ∧
      e.poison = bitOn hd.flags 1 ∧ ∀ i, i < 64 → nth 0 e.data i = if be.getLsbD i then nth 0 b i else 0 := by
  have hwork := State.rxWork_rows (s.link.uidOf hd.seq) ht hg hl
  obtain ⟨w, e, h1, h2, h3, h4, h5, _, h7⟩ := State.acceptSeq_writes hrx hwork (by omega) (by omega) (by show hd.type ≠ 3; omega) rfl hsafe hk
  refine ⟨w, e, h1, h2, h3, h4, h5, fun i hi => ?_⟩
  rw [h7]
  simp [nth, hi]

/-- The first window of the cells of a `READ` (R275, R30). -/
theorem State.afterFrame_read (n : Nat) {t : Tensor} {a m k : Nat} (ht : hd.type = 3) (hg : s.tagged hd.tag = some t)
    (ha : t.cellRun (hd.word 0) (bits (hd.word 1) 11 0) (bits (hd.word 1) 22 16 + 1) = some a)
    (hm : m = min (bits (hd.word 1) 22 16 + 1) ((4096 - a % 4096) / 64)) (hk : (s.port (s.portFor a)).readTag = some k) :
    ∃ q : ReadReq, Tbl.find ((s.afterFrame hd n).port (s.portFor a)).reads k = some q ∧
      q.parts = [⟨.rxRead (s.link.uidOf hd.seq) a 0 m, a, 64 * m⟩] ∧ q.got = [] := by
  have hwork := State.rxWork_read (s.link.uidOf hd.seq) ht hg ha
  obtain ⟨l, hruns⟩ := windowRuns_first 3 0 a (bits (hd.word 1) 22 16)
  rw [hm]
  exact State.acceptSeq_reads hrx hwork ht ht hruns hk

/-- An `HADD` (R230). -/
theorem State.afterFrame_hadd (n : Nat) {i : Nat} (ht : hd.type = 5) (hi : i = bits (hd.word 0) 14 0) (he : s.halExists i = true)
    (hdead : s.halDead i = false) (hu : Tbl.get 0 s.hal.upset i = 0) :
    (s.afterFrame hd n).hword i = (s.hword i).add (bits (hd.word 1) 15 0) ∧ ∀ k, k ≠ i → (s.afterFrame hd n).hword k = s.hword k := by
  subst hi
  have hwork := s.rxWork_hadd (s.link.uidOf hd.seq) ht
  have hdone : (hd.accepted (s.link.uidOf hd.seq)).done = false := by simp [RxHead.accepted, ht]
  have hwords : (s.afterFrame hd n).hal.words = Tbl.set HalWord.zero s.hal.words (bits (hd.word 0) 14 0) ((s.hword (bits (hd.word 0) 14 0)).add (bits (hd.word 1) 15 0)) :=
    State.acceptSeq_hadd hrx hwork ht ht hdone rfl rfl he hdead hu
  exact ⟨State.hword_of_words_same hwords, fun k hk => State.hword_of_words_other hwords hk⟩

end

/-- Settles O58: the discards, the acknowledgements, and what each accepted frame does. -/
theorem transportFrames : Obligations.TransportFrames := by
  unfold Obligations.TransportFrames
  intro s f full ty op cmd hd hs hc
  obtain ⟨op', hexec⟩ := exec_row hs hc
  refine ⟨fun he => ?_, fun he hdown hty h7 => ⟨fun hfull => ?_, fun hfull hroom => ⟨fun hb ht => ?_, fun hb hl => ?_⟩⟩, fun hfull hp hdown hst => ?_,
    fun hup hfull hp ht h7 hidle hr hcmp => ⟨fun h0 hn => ?_, fun h0 hn => ?_, fun h0 hn hseq => ?_, fun h0 hn hseq => ?_⟩,
    fun hup hfull hp ht h0 hn hr hcmp => ?_⟩
  case refine_1 => rw [hexec, ingress_foreign he, State.keep_self]
  case refine_2 =>
    rw [hexec, ingress_discarded he hty h7 (State.screen_full hdown hfull)]
    rfl
  case refine_3 =>
    have hkeep := State.raise_low s ⟨5, 1, 42, formatL (RxHead.of (untag f.bytes)).seq ((RxHead.of (untag f.bytes)).word 0)⟩ (by show kindSev 42 < 2; decide)
    rw [hexec, ingress_discarded he hty h7 (State.screen_bad hdown hfull hroom hb (by rw [hty]; exact ht)), hkeep]
    rfl
  case refine_4 =>
    rw [hexec, ingress_discarded he hty h7 (State.screen_length hdown hfull hroom hb hl)]
    rfl
  case refine_5 =>
    obtain ⟨hether, hscreen⟩ := hp
    have hnone : ingress ty op' f false s = s := by
      unfold ingress
      dsimp only
      split
      · rfl
      · rw [hscreen]
        exact if_pos (by simp [hdown, hst])
    rw [hexec, hfull, hnone, State.keep_self]
  case refine_6 =>
    rw [exec_takeUp hs hc hup hfull hp ht h7, State.takeUp_known hidle hr hcmp hn, if_pos (ht.trans h0)]
    rfl
  case refine_7 =>
    rw [exec_takeUp hs hc hup hfull hp ht h7, State.takeUp_nak hidle hr hcmp hn (ht.trans h0)]
    rfl
  case refine_8 =>
    obtain ⟨h1, h2, h3, h4⟩ := State.discard_up hup
    have htake : s.takeUp hd = s.discard 7 := by
      rw [State.takeUp_known hidle hr hcmp hn, if_neg (fun h => h0 (ht.symm.trans h)), if_pos hseq]
    have hdone := exec_takeUp hs hc hup hfull hp ht h7
    rw [htake] at hdone
    generalize s.discard 7 = v at h1 h2 h3 h4 hdone
    refine ⟨_, hdone, h2, h3, h4, ?_, ?_, ?_, ?_⟩ <;> (rw [h1]; rfl)
  case refine_9 =>
    have htake : s.takeUp hd = s.acceptSeq hd := by
      rw [State.takeUp_known hidle hr hcmp hn, if_neg (fun h => h0 (ht.symm.trans h)), if_neg fun hne => hne hseq]
    have hdone := exec_takeUp hs hc hup hfull hp ht h7
    rw [htake] at hdone
    obtain ⟨hrx, _, _⟩ := hidle
    obtain ⟨h1, h2, h3⟩ := s.acceptSeq_effect hd
    refine ⟨s.afterFrame hd f.beats.length, hdone, h1.trans (by rw [hseq, BitVec.ofNat_toNat, BitVec.setWidth_eq]), h2, h3, ?_, ?_, ?_, ?_, ?_, ?_⟩
    case refine_1 =>
      exact fun t a k hty hg ha hl hsafe hbe hk => State.afterFrame_write hrx _ (ht.trans hty) hg ha hl hsafe hbe hk
    case refine_2 =>
      exact fun t a b be l k hty hg hl hsafe hk => State.afterFrame_rows hrx _ (ht.trans hty) hg hl hsafe hk
    case refine_3 =>
      exact fun t a m k hty hg ha hm hk => State.afterFrame_read hrx _ (ht.trans hty) hg ha hm hk
    case refine_4 =>
      exact fun n hty hi he hdead hu => State.afterFrame_hadd hrx _ (ht.trans hty) hi he hdead hu
    case refine_5 =>
      exact fun q x t hty hq hcode hpoison hlen hx => State.acceptSeq_rdata hrx (ht.trans hty) hq hcode hpoison hlen hx
    case refine_6 =>
      intro g o x t hty hg ho hx
      obtain ⟨hstop, hxfer⟩ := State.acceptSeq_status hrx (ht.trans hty) hg ho hx
      exact ⟨List.contains_iff_mem.mpr hstop, hxfer⟩
  case refine_10 =>
    obtain ⟨h1, h2, h3⟩ := State.useAcks_takes hr hcmp
    have htake : s.takeUp hd = s.useAcks (BitVec.ofNat 16 hd.rcv) (BitVec.ofNat 16 hd.cmp) := by
      unfold State.takeUp
      dsimp only
      rw [hn, if_pos ht]
      rfl
    have hdone := exec_takeUp hs hc hup hfull hp (ht.trans h0.symm) (by omega)
    rw [htake] at hdone
    generalize s.useAcks (BitVec.ofNat 16 hd.rcv) (BitVec.ofNat 16 hd.cmp) = v at h1 h2 h3 hdone
    exact ⟨_, hdone, h1, h2, h3⟩

end Sys2Proof.Machine
end
